-- ==== Sys2Proof/Word.lean ====
section
/-! DEFINITION. The word types of the model, bit fields of 32-bit registers, sparse maps in canonical form, and the
two worlds. -/

namespace Sys2Proof

/-- A 32-bit cell, register or instruction operand. -/
abbrev Word := BitVec 32

/-- A byte of memory. -/
abbrev Byte := BitVec 8

/-- The two worlds (R20, R221). -/
inductive World where
  | prg | grd
deriving DecidableEq, Repr

/-- The number a register or record uses for a world: 0 programme, 1 guard. -/
def World.num : World → Nat
  | .prg => 0
  | .grd => 1

/-- The other world. -/
def World.other : World → World
  | .prg => .grd
  | .grd => .prg

/-- The world of a WORLD bit. -/
def World.ofNum (n : Nat) : World := if n = 0 then .prg else .grd

/-- A bit field: its lowest bit and its width. -/
structure Fld where
  lo : Nat
  len : Nat
deriving DecidableEq, Repr

/-- Bits `[lo + len − 1 : lo]` of a word, as a number. -/
def Fld.get (f : Fld) (w : Word) : Nat := (w.toNat / 2 ^ f.lo) % 2 ^ f.len

/-- The ones of a field, in place. -/
def Fld.mask (f : Fld) : Word := BitVec.ofNat 32 ((2 ^ f.len - 1) * 2 ^ f.lo)

/-- Writes the field of `w` with the low bits of `v`; every other bit keeps its value. -/
def Fld.put (f : Fld) (w : Word) (v : Word) : Word :=
  (w &&& ~~~ f.mask) ||| ((v <<< f.lo) &&& f.mask)

/-- Writes the field with a number. -/
def Fld.putN (f : Fld) (w : Word) (v : Nat) : Word := f.put w (BitVec.ofNat 32 v)

/-- A sparse map: (key, value) pairs with strictly rising keys; a key that is not listed reads as a default that the
reader names, and no listed value equals it. -/
abbrev SMap (α : Type) := List (Nat × α)

/-- The value at a key. -/
def SMap.get {α : Type} : SMap α → Nat → α → α
  | [], _, d => d
  | (k, v) :: m, a, d => if a = k then v else SMap.get m a d

/-- The map without a key. -/
def SMap.erase {α : Type} (m : SMap α) (a : Nat) : SMap α := m.filter (fun e => e.1 != a)

/-- The map with a value at a key, in its place. -/
def SMap.insert {α : Type} : SMap α → Nat → α → SMap α
  | [], a, x => [(a, x)]
  | (k, v) :: m, a, x =>
    if a < k then (a, x) :: (k, v) :: m
    else if a = k then (k, x) :: m
    else (k, v) :: SMap.insert m a x

/-- Writes a value at a key; writing the default removes the entry. -/
def SMap.set {α : Type} [DecidableEq α] (m : SMap α) (a : Nat) (x d : α) : SMap α :=
  if x = d then SMap.erase m a else SMap.insert m a x

/-- The canonical form: every key of the tail lies above the head's. -/
def SMap.sorted {α : Type} : SMap α → Bool
  | [] => true
  | (k, _) :: m => m.all (fun e => Nat.blt k e.1) && SMap.sorted m

/-- A set of numbers, kept as a list without repeats in rising order. -/
abbrev NSet := List Nat

/-- Adds a number to a set, in its place. -/
def NSet.add : NSet → Nat → NSet
  | [], a => [a]
  | k :: m, a => if a < k then a :: k :: m else if a = k then k :: m else k :: NSet.add m a

/-- Adds every number of a list. -/
def NSet.addAll (s : NSet) (l : List Nat) : NSet := l.foldl NSet.add s

end Sys2Proof
end

