-- ==== Sys2Proof/Syntax.lean ====
section
/-! DEFINITION. The commands of the block: one constructor for each row of the opcode table, with its operands, and the
types that name cores, writers and the parties of a command. -/

namespace Sys2Proof

/-- A Limdon core (R172): a tile core by quire and physical position, a curator, or the keeper core. -/
inductive CoreId where
  | tile (q : Fin 64) (j : Fin 17)
  | curator (w : World)
  | keeper
deriving DecidableEq, Repr

/-- Who writes a control register (R5, R19): a curator of a world, or the keeper core, which belongs to neither. -/
inductive Writer where
  | cur (w : World)
  | kpr
deriving DecidableEq, Repr

/-- The condition codes of CMP (R200). -/
inductive Cond where
  | eq | ne | lt | ge | gt | le | ltu | geu | gtu | leu | feq | flt | fle | fun_ | fne
deriving DecidableEq, Repr

/-- A bulk-plane packet (R121, R122): a far load's reply, a granule of write-through, a far store, or a granule of an image load
or of a curator's bulk transfer. -/
inductive Packet where
  | farLoad (c : CoreId) (i : Fin 6)
  | writeThrough (q : Fin 64) (j : Fin 17)
  | farStore (c : CoreId) (i : Fin 32)
  | granule (a : BitVec 40)
deriving DecidableEq, Repr

/-- The registers whose write names or funds a GDDR7 activity (R253). -/
inductive ActReg where
  | act (a : Fin 64)
  | tfol (i : Fin 1088)
  | gal (h : Fin 4)
deriving DecidableEq, Repr

/-- What a scrubber reads (R301): the next gathering of a channel, error patterns falling on its granule `g`, or one granule of an
on-chip memory by its folded address. -/
inductive Scrub where
  | chan (c g : Fin 8)
  | granule (a : BitVec 40)
deriving DecidableEq, Repr

/-- A block of the line coding of a Maldex frame (R313): start with frame bytes 0–6, data with 8 bytes, terminate with the
remaining 0–7 bytes, and any other control block. -/
inductive LineBlock where
  | start (d : List Byte)
  | data (d : List Byte)
  | term (d : List Byte)
  | other
deriving DecidableEq, Repr

/-- A character that a UART's line has completed (R351, R357): its data, parity and stop bits as sampled, and, for a receiver
whose last character was a break, whether the line was high for one bit time before its start bit. `back` counts the writes of
SER_BAUD since the start bit (R352); `read`: a read of SER_DATA frees the head of the queue in the same cycle (R359). -/
structure RxChar where
  data : Byte
  par : Bool
  stop : Bool
  stop2 : Bool := true
  gap : Bool := true
  back : Nat := 0
  read : Bool := false
deriving DecidableEq, Repr

/-- What a host has set in a port's configuration header and MSI-X table (R360, R371): MSI-X enable, masked vectors, Bus Master
Enable, and the D3hot power state. -/
structure HostCfg where
  msix : Bool
  mask : BitVec 16
  bme : Bool := true
  d3 : Bool := false
deriving DecidableEq, Repr

/-- The writable registers of a region-table entry (R289). -/
inductive RgnReg where
  | base | lim | attr
deriving DecidableEq, Repr

/-- A host's access to a BAR: a read of a number of bytes, or a write of bytes (R364, R366). -/
inductive HostOp where
  | read (len : Nat)
  | write (bytes : List Byte)
deriving DecidableEq, Repr

/-- A host's access to the doorbell page BAR4 or to the configuration header of its port (R360, R363, R365): a doorbell write, a read
of the page, a write of another word of it, a read of the header, what the host sets there, or a write of a BAR register. The word
of a write stands beside it. -/
inductive PageOp where
  | bell (r : Fin 16)
  | read (off len : Nat)
  | write (off : Nat)
  | headerRead (off len : Nat)
  | config (cfg : HostCfg)
  | bar (i : Fin 6)
deriving DecidableEq, Repr

/-- The configuration registers of a watchdog (R468). -/
inductive WdgReg where
  | openR | closeR | req
deriving DecidableEq, Repr

/-- The clock sources that have a ready flag (R423). -/
inductive ClkSource where
  | krc | refclk | kxt | cpll | apll0 | apll1 | gpll | sdsMdx | sdsEth | sdsHst
deriving DecidableEq, Repr

/-- The fuse-mapped pins (R43): PNL0–PNL31; the pins of TDM0–TDM15 (0 BCLK, 1 FS, 2 SDI, 3 SDO); HUSH0–HUSH3; the clocks;
nHST0_PERST–nHST3_PERST; JTAG (0 TCK, 1 TMS, 2 TDI, 3 TDO, 4 nTRST); the pins of SER0–SER3 (0 TXD, 1 RXD, 2 RTS, 3 CTS). -/
inductive FusedPin where
  | pnl (k : Fin 32)
  | tdm (t : Fin 16) (pin : Fin 4)
  | hush (h : Fin 4)
  | wclkIn | wclkOut | tickOut
  | perst (h : Fin 4)
  | jtag (pin : Fin 5)
  | ser (n : Fin 4) (pin : Fin 4)
deriving DecidableEq, Repr

/-- The pins of R435 that no fuse entry maps: VAL0–VAL23, nRESET, the PWR_EN and PG of each rail, the keeper crystal, the lanes of each
port, the device reset of each GDDR7 channel, and the main crystal. -/
inductive DevPin where
  | val (i : Fin 24)
  | nreset
  | pwrEn (n : Fin 8) | pg (n : Fin 8)
  | kxin | kxout | xin | xout
  | mdxLane (p : Fin 32) | ethLane (e : Fin 2) | hstLane (h : Fin 4)
  | gddrReset (c : Fin 8)
deriving DecidableEq, Repr

/-- A pin of the device. -/
inductive Pin where
  | fused (p : FusedPin)
  | dev (p : DevPin)
deriving DecidableEq, Repr

/-- An access through the debug TAP (R396). -/
inductive TapOp where
  | halt (c : CoreId)
  | resume (c : CoreId)
  | step (c : CoreId)
  /-- A word by its address in the folded space (R277). -/
  | readWord (a : BitVec 40)
  | writeWord (a : BitVec 40) (v : BitVec 32)
  /-- The boundary scan of a pin. -/
  | boundary (p : Pin)
  /-- Word k of the key that an entry of a world's handle table names. -/
  | vitrineKey (w : World) (e : Fin 64) (k : Fin 8)
deriving DecidableEq, Repr


/-- The commands of the block, one constructor per row of the opcode table. -/
inductive Instr where
  /-- LIT (R192: pushes the sign-extended immediate). -/
  | lit (c : CoreId) (imm : BitVec 15)
  /-- EXT (R192: pops T and pushes (T shl 14) or the immediate). -/
  | ext (c : CoreId) (imm : BitVec 14)
  /-- DUP (R196). -/
  | dup (c : CoreId)
  /-- DROP (R196). -/
  | drop (c : CoreId)
  /-- SWAP (R196). -/
  | swap (c : CoreId)
  /-- OVER (R196). -/
  | over (c : CoreId)
  /-- ROT (R196). -/
  | rot (c : CoreId)
  /-- PICK (R196, R197). -/
  | pick (c : CoreId)
  /-- ADD (R197). -/
  | add (c : CoreId)
  /-- SUB (R197). -/
  | sub (c : CoreId)
  /-- AND (R196). -/
  | and (c : CoreId)
  /-- OR (R196). -/
  | or (c : CoreId)
  /-- XOR (R196). -/
  | xor (c : CoreId)
  /-- SHL (R197). -/
  | shl (c : CoreId)
  /-- SHR (R197). -/
  | shr (c : CoreId)
  /-- SAR (R197). -/
  | sar (c : CoreId)
  /-- MUL (R197). -/
  | mul (c : CoreId)
  /-- MULH (R197). -/
  | mulh (c : CoreId)
  /-- DIV (R197, R179). -/
  | div (c : CoreId)
  /-- REM (R197, R179). -/
  | rem (c : CoreId)
  /-- FADD (R198). -/
  | fadd (c : CoreId)
  /-- FMUL (R198). -/
  | fmul (c : CoreId)
  /-- FDIV (R198, R179). -/
  | fdiv (c : CoreId)
  /-- FSQRT (R198, R179). -/
  | fsqrt (c : CoreId)
  /-- EXP2 (R199, R179). -/
  | exp2 (c : CoreId)
  /-- LOG2 (R199, R179). -/
  | log2 (c : CoreId)
  /-- CMP (R200). -/
  | cmp (c : CoreId) (cc : Cond)
  /-- LD (R201, R202; `err`: codeword positions in error in the granule read). -/
  | ld (c : CoreId) (off : BitVec 10) (err : List Nat)
  /-- ST (R201, R202; `err`: codeword positions in error in the granule the write merges into (R283)). -/
  | st (c : CoreId) (off : BitVec 10) (err : List Nat)
  /-- LDB (R201, R202). -/
  | ldb (c : CoreId) (off : BitVec 10) (err : List Nat)
  /-- STB (R201, R202). -/
  | stb (c : CoreId) (off : BitVec 10) (err : List Nat)
  /-- LDF (R201, R138). -/
  | ldf (c : CoreId)
  /-- STF (R201, R89, R138). -/
  | stf (c : CoreId)
  /-- GET (R111). -/
  | get (c : CoreId)
  /-- PUT (R83, R204). -/
  | put (c : CoreId)
  /-- SEAL (R87). -/
  | seal (c : CoreId)
  /-- STITCH (R77). -/
  | stitch (c : CoreId)
  /-- PRESS (R143). -/
  | press (c : CoreId)
  /-- PWAIT (R143). -/
  | pwait (c : CoreId)
  /-- MOVN (R213, R215; `k`: elements done before an interrupt or a hold cuts it). -/
  | movn (c : CoreId) (k : Nat)
  /-- FILLN (R214, R215). -/
  | filln (c : CoreId) (k : Nat)
  /-- CCRR (R205). -/
  | ccrr (c : CoreId)
  /-- CCRW (R205). -/
  | ccrw (c : CoreId)
  /-- BR (R206, R207). -/
  | br (c : CoreId) (off : BitVec 11)
  /-- BZ (R206, R207). -/
  | bz (c : CoreId) (off : BitVec 11)
  /-- BNZ (R206, R207). -/
  | bnz (c : CoreId) (off : BitVec 11)
  /-- CALL (R206, R207). -/
  | call (c : CoreId) (off : BitVec 11)
  /-- BR_INDIRECT (R206, R207). -/
  | brInd (c : CoreId)
  /-- CALL_INDIRECT (R206, R207). -/
  | callInd (c : CoreId)
  /-- RET (R194). -/
  | ret (c : CoreId)
  /-- RETI (R233). -/
  | reti (c : CoreId)
  /-- SYNC (R189). -/
  | sync (c : CoreId)
  /-- IFLUSH (R188). -/
  | iflush (c : CoreId)
  /-- WFT (R209). -/
  | wft (c : CoreId)
  /-- TRAP (R208). -/
  | trap (c : CoreId) (code : BitVec 8)
  /-- LOOP (R210). -/
  | loop (c : CoreId) (len : BitVec 8)
  /-- DEFINED_ILLEGAL (R217; `op`: the halfword executed). -/
  | definedIllegal (c : CoreId) (op : BitVec 16)
  /-- RESERVED_BLOCK (R218). -/
  | reservedBlock (c : CoreId) (op : BitVec 16)
  /-- SIDE_UNIT_RESULT (R179, R180; `i`: the operation among those in flight, oldest first). -/
  | sideUnitResult (c : CoreId) (i : Fin 4)
  /-- GET_REPLY (R181, R182; `fail`: the reply fails its check after replay). -/
  | getReply (c : CoreId) (i : Fin 6) (fail : Bool)
  /-- LDF_REPLY (R181, R182; `err`, `err2`: codeword positions in error in the copy read and in the partner copy (R293)). -/
  | ldfReply (c : CoreId) (i : Fin 6) (fail : Bool) (err err2 : List Nat)
  /-- STF_ACKNOWLEDGE (R181, R122; `err`, `err2`: codeword positions in error in the granule that a narrow write is merged into, and in
  its partner copy). -/
  | stfAcknowledge (c : CoreId) (i : Fin 32) (err err2 : List Nat)
  /-- SEAL_COMPLETE (R87). -/
  | sealComplete (c : CoreId)
  /-- STITCH_COMPLETE (R77). -/
  | stitchComplete (c : CoreId)
  /-- INTERRUPT_ENTRY (R234, R240). -/
  | interruptEntry (c : CoreId)
  /-- NME_ENTRY (R239). -/
  | nmeEntry (c : CoreId)
  /-- NOP (R157; the press of a position issues its next microword). -/
  | uNop (q : Fin 64) (j : Fin 17) (err : List Nat)
  /-- MAC (R146; the press of a position issues its next microword). -/
  | uMac (q : Fin 64) (j : Fin 17) (err : List Nat)
  /-- MSUB (R146; the press of a position issues its next microword). -/
  | uMsub (q : Fin 64) (j : Fin 17) (err : List Nat)
  /-- ACCA (R146; the press of a position issues its next microword). -/
  | uAcca (q : Fin 64) (j : Fin 17) (err : List Nat)
  /-- CLR (R157; the press of a position issues its next microword). -/
  | uClr (q : Fin 64) (j : Fin 17) (err : List Nat)
  /-- CLRA (R157; the press of a position issues its next microword). -/
  | uClra (q : Fin 64) (j : Fin 17) (err : List Nat)
  /-- RD (R150; the press of a position issues its next microword). -/
  | uRd (q : Fin 64) (j : Fin 17) (err : List Nat)
  /-- RDC (R150; the press of a position issues its next microword). -/
  | uRdc (q : Fin 64) (j : Fin 17) (err : List Nat)
  /-- REDUCE (R149; the press of a position issues its next microword). -/
  | uReduce (q : Fin 64) (j : Fin 17) (err : List Nat)
  /-- SPILL (R149; the press of a position issues its next microword). -/
  | uSpill (q : Fin 64) (j : Fin 17) (err : List Nat)
  /-- FILL (R149; the press of a position issues its next microword). -/
  | uFill (q : Fin 64) (j : Fin 17) (err : List Nat)
  /-- MERGE (R149; the press of a position issues its next microword). -/
  | uMerge (q : Fin 64) (j : Fin 17) (err : List Nat)
  /-- VADD (R153; the press of a position issues its next microword). -/
  | uVadd (q : Fin 64) (j : Fin 17) (err : List Nat)
  /-- VSUB (R153; the press of a position issues its next microword). -/
  | uVsub (q : Fin 64) (j : Fin 17) (err : List Nat)
  /-- VMUL (R153; the press of a position issues its next microword). -/
  | uVmul (q : Fin 64) (j : Fin 17) (err : List Nat)
  /-- VMIN (R153; the press of a position issues its next microword). -/
  | uVmin (q : Fin 64) (j : Fin 17) (err : List Nat)
  /-- VMAX (R153; the press of a position issues its next microword). -/
  | uVmax (q : Fin 64) (j : Fin 17) (err : List Nat)
  /-- VMOV (R153; the press of a position issues its next microword). -/
  | uVmov (q : Fin 64) (j : Fin 17) (err : List Nat)
  /-- VNEG (R153; the press of a position issues its next microword). -/
  | uVneg (q : Fin 64) (j : Fin 17) (err : List Nat)
  /-- VABS (R153; the press of a position issues its next microword). -/
  | uVabs (q : Fin 64) (j : Fin 17) (err : List Nat)
  /-- CMUL (R154; the press of a position issues its next microword). -/
  | uCmul (q : Fin 64) (j : Fin 17) (err : List Nat)
  /-- BFLY4 (R155; the press of a position issues its next microword). -/
  | uBfly4 (q : Fin 64) (j : Fin 17) (err : List Nat)
  /-- BFLY4I (R155; the press of a position issues its next microword). -/
  | uBfly4i (q : Fin 64) (j : Fin 17) (err : List Nat)
  /-- RESERVED_OP (R157; the press of a position issues its next microword). -/
  | uReservedOp (q : Fin 64) (j : Fin 17) (err : List Nat)
  /-- MICROWORD_WRITEBACK (R143: the oldest issued microword writes back). -/
  | microwordWriteback (q : Fin 64) (j : Fin 17)
  /-- PRESS_WAIT_TIMEOUT (R161). -/
  | pressWaitTimeout (q : Fin 64) (j : Fin 17) (err : List Nat)
  /-- PRESS_TIMER_CONDITION (R161). -/
  | pressTimerCondition (q : Fin 64) (j : Fin 17) (err : List Nat)
  /-- TICK_START (R65; `media`: the media-clock count of the edge (R63), `hush`: hush pins sampled low (R329)). -/
  | tickStart (media : BitVec 64) (hush : BitVec 4)
  /-- TCK_GO (R65: a curator writes its GO bit). -/
  | tckGo (w : World) (v : Bool)
  /-- TCK_STOP (R66: a curator writes its STOP bit). -/
  | tckStop (w : World) (v : Bool)
  /-- FINAL_EDGE (R66). -/
  | finalEdge
  /-- TICK_EDGE (R57; `hush`: hush pins sampled low at the edge (R329)). -/
  | tickEdge (hush : BitVec 4) (pherr : Word) (wish : BitVec 16)
  /-- EGRESS_FRAME_START (R316). -/
  | egressFrameStart
  /-- QUIRE_START (R58). -/
  | quireStart (q : Fin 64)
  /-- TICK_TIMER (R234). -/
  | tickTimer (c : CoreId)
  /-- INGRESS_DEADLINE (R59, R116). -/
  | ingressDeadline
  /-- DECKLE (R95). -/
  | deckle
  /-- CYCLE_FOLIO_EXHAUSTED (R248). -/
  | cycleFolioExhausted (q : Fin 64) (j : Fin 17)
  /-- STITCH_FREEZE (R96; `missing`: positions 17q + j whose tick status is missing or fails its check (R80); `late`: those that take a
  tile fault from P − 64 to P − 2 (R269)). -/
  | stitchFreeze (missing late : List (Fin 1088))
  /-- SEL_WRITE (R69). -/
  | selWrite (w : World) (v : Word)
  /-- WORD_CLOCK_READY (R68). -/
  | wordClockReady
  /-- PTP_LOCK (R336; `offset`: media count minus TCK_COUNT). -/
  | ptpLock (offset : BitVec 64)
  /-- PTP_LOCK_LOSS (R336). -/
  | ptpLockLoss
  /-- TICK_SOURCE_FAIL (R70; `steer`: the steering frozen in the cycle of detection). -/
  | tickSourceFail
  /-- ACQUISITION_END (R67). -/
  | acquisitionEnd (pherr : Word)
  /-- HOLD_END (R70). -/
  | holdEnd
  /-- TCK_COUNT_LO_READ (R64). -/
  | tckCountLoRead (w : World)
  /-- TCK_MEDIA_LO_READ (R67). -/
  | tckMediaLoRead (w : World)
  /-- SLOT_MESSAGE (R105, R107: the next message of an injector (quires 0-63, ingress 64) reaches the mirror of quire `q`; `err0`, `err1`: the bits turned over in its copy on link 0 or 1). -/
  | slotMessage (q : Fin 64) (inj : Fin 65) (err0 err1 : BitVec 96)
  /-- SLOTCFG_WRITE (R103). -/
  | slotcfgWrite (x : Writer) (slot : Fin 65536) (v : Word)
  /-- SUBSCRIPTION_MAP_WRITE (R109). -/
  | subscriptionMapWrite (x : Writer) (q : Fin 64) (e : Fin 4096) (hi : Bool) (v : Word)
  /-- LINK_REEN (R120: a write of SPN_LINKq; `lock`: the links that have lock at the next edge). -/
  | linkReen (w : World) (q : Fin 64) (v : Word) (lock : BitVec 2)
  /-- LINK_RETIRE (R120; `locked`: whether the link still has lock). -/
  | linkRetire (q : Fin 64) (l : Fin 2) (locked : Bool)
  /-- BULK_PACKET (R121, R122; `err`, `err2`: the codeword positions turned over in the packet, and in its replay). -/
  | bulkPacket (k : Packet) (err err2 : List Nat)
  /-- TILE_RELEASE (R139: a write of QRC_REL). -/
  | tileRelease (w : World) (q : Fin 64) (v : Word)
  /-- RELEASE_LOAD_END (R139). -/
  | releaseLoadEnd (q : Fin 64) (j : Fin 17)
  /-- REL_CLEAR (R141: a write of QRC_REL). -/
  | relClear (w : World) (q : Fin 64) (v : Word)
  /-- TAKEOVER_LOAD_END (R131). -/
  | takeoverLoadEnd (q : Fin 64)
  /-- LOADRES (R134: a write of QRC_HOVR). -/
  | loadres (w : World) (q : Fin 64) (v : Word)
  /-- LOADRES_LOAD_END (R134). -/
  | loadresLoadEnd (q : Fin 64)
  /-- HANDOVER_GO (R135: a write of QRC_HOVR). -/
  | handoverGo (w : World) (q : Fin 64) (v : Word)
  /-- READMIT (R133: a write of QRC_POSj). -/
  | readmit (w : World) (q : Fin 64) (j : Fin 17) (v : Word)
  /-- READMIT_TEST_END (R133). -/
  | readmitTestEnd (q : Fin 64) (j : Fin 17) (pass : Bool)
  /-- WRITE_THROUGH_ACK (R126: the archive acknowledges the oldest granule of the tile's write-through). -/
  | writeThroughAck (q : Fin 64) (j : Fin 17)
  /-- SEND (R236: a write of CUR_MSGw). -/
  | send (w : World) (v : Word)
  /-- ACT_WRITE (R253). -/
  | actWrite (x : Writer) (t : ActReg) (v : Word)
  /-- EVIDENCE_RECORD (R272, R273). -/
  | evidenceRecord (cls : Fin 32) (world : Option World) (unit detail : BitVec 16)
  /-- FLUSH (R273: a curator writes CUR_FLUSHw.FLUSH). -/
  | flush (w : World)
  /-- CHANNEL_RETIRE (R299; `cause` as MEM_CHc.CAUSE). -/
  | channelRetire (c : Fin 8) (cause : Fin 6)
  /-- RETRAIN (R300). -/
  | retrain (w : World) (c : Fin 8)
  /-- RETRAIN_END (R295, R300; `pass`: the training sequence converges). -/
  | retrainEnd (c : Fin 8) (pass : Bool)
  /-- RESILVER_END (R300). -/
  | resilverEnd (c : Fin 8)
  /-- PATROL_SCRUB (R301; `err`, `err2`: the positions in error in the copy read and in its partner). -/
  | patrolScrub (t : Scrub) (err err2 : List Nat)
  /-- RECALIBRATION_SLICE (R296). -/
  | recalibrationSlice (c : Fin 8) (pass : Bool)
  /-- CHANNEL_POWER_DOWN (R298). -/
  | channelPowerDown (c : Fin 8)
  /-- REGION_WRITE (R289). -/
  | regionWrite (x : Writer) (r : Fin 64) (f : RgnReg) (v : Word)
  /-- ZEROING_END (R290). -/
  | zeroingEnd (r : Fin 64)
  /-- POISON_CLEAR (R284). -/
  | poisonClear (w : World) (v : Word)
  /-- STORE_SCAN (R304, R306; `ps`, `img`: positions and image slots whose block was read with an error that the model's memory does not show). -/
  | storeScan (q : Fin 64) (ps img : List (Fin 17))
  /-- ENGINE_START (R307, R308: a write of CVS_CTLe with EN). -/
  | engineStart (x : Writer) (e : Fin 8) (v : Word)
  /-- ENGINE_RELEASE (R307: a curator writes RELEASE). -/
  | engineRelease (w : World) (e : Fin 8)
  /-- ENGINE_BLOCK (R308–R310; `granule`: the granule of the block the patterns fall on). -/
  | engineBlock (e : Fin 8) (granule : Nat) (err err2 : List Nat)
  /-- MALDEX_FRAME (R313–R317; `blocks`: the frame as it came on the line, from its start block to its terminate block). -/
  | maldexFrame (p : Fin 32) (blocks : List LineBlock)
  /-- LOSS_OF_SIGNAL (R318). -/
  | lossOfSignal (p : Fin 32)
  /-- BLOCK_LOCK (R318). -/
  | blockLock (p : Fin 32)
  /-- BLOCK_LOCK_LOSS (R318). -/
  | blockLockLoss (p : Fin 32)
  /-- PORT_ENABLE_GROUP (R319). -/
  | portEnableGroup (g : Fin 8)
  /-- EVQ_READ (R321: a curator reads MDX_EVQp). -/
  | evqRead (w : World) (p : Fin 32)
  /-- TDM_FRAME (R325; `slots`: the 32 bits of each slot). -/
  | tdmFrame (t : Fin 16) (slots : List Word)
  /-- TDM_EGRESS_FRAME (R325, R326). -/
  | tdmEgressFrame (t : Fin 16)
  /-- TDM_CLOCK_LOSS (R325). -/
  | tdmClockLoss (t : Fin 16)
  /-- JACK_SETTLING_EXPIRY (R330). -/
  | jackSettlingExpiry (g : Fin 8)
  /-- JACK_LINK_WRITE (R330: a write of EGR_JACKg). -/
  | jackLinkWrite (x : Writer) (g : Fin 8) (v : Word)
  /-- MEDIA_PACKET (R338; destination address, UDP port, payload type, RTP timestamp). -/
  | mediaPacket (e : Fin 2) (dest : Word) (udp : BitVec 16) (pt : BitVec 7) (stamp : Word) (payload : List Byte)
  /-- PTP_MESSAGE (R335, R336; `stamp` in units of 0.5 ns, `offset`: the offset in ns that the message completes, `state`: the engine's state after it). -/
  | ptpMessage (e : Fin 2) (stamp : BitVec 64) (offset : Option Word) (state : Fin 3)
  /-- STREAM_ENABLE (R337: a write of ETH_RXSn or ETH_TXSn CFG with EN). -/
  | streamEnable (x : Writer) (tx : Bool) (n : Fin 64) (v : Word)
  /-- STREAM_PACKET_TX (R339). -/
  | streamPacketTx (n : Fin 64)
  /-- CONTROL_FRAME (R340; `fcs`: the frame check sequence is good). -/
  | controlFrame (e : Fin 2) (bytes : List Byte) (fcs : Bool)
  /-- POP (R340: a curator writes POP). -/
  | pop (w : World) (e : Fin 2)
  /-- CTX_SEND (R340: a write of ETH_CTXe). -/
  | ctxSend (w : World) (e : Fin 2) (v : Word)
  /-- ETH_LINK_CHANGE (R333). -/
  | ethLinkChange (e : Fin 2) (up : Bool)
  /-- MALDEX_SIGNAL_PRESENT (R318). -/
  | maldexSignalPresent (p : Fin 32)
  /-- TDM_BCLK_RETURN (R325). -/
  | tdmBclkReturn (t : Fin 16)
  /-- PTP_EVENT_TRANSMIT (R335). -/
  | ptpEventTransmit (stamp origin : BitVec 64)
  /-- PANEL_SAMPLE (R344; `levels`: the levels of PNL0–PNL31). -/
  | panelSample (levels : Word)
  /-- BUTTON_HELD (R345). -/
  | buttonHeld (k : Fin 32)
  /-- TOUCH_BURST (R346). -/
  | touchBurst (j : Fin 16) (count : Fin 4096)
  /-- PNL_CFG_WRITE (R343). -/
  | pnlCfgWrite (x : Writer) (k : Fin 32) (v : Word)
  /-- PNL_EVQ_READ (R349: a curator reads PNL_EVQ of world `q`). -/
  | pnlEvqRead (w : World) (q : World)
  /-- RECEIVE_CHARACTER (R351; the data bits, and the parity and stop bits as sampled). -/
  | receiveCharacter (n : Fin 4) (c : RxChar)
  /-- TRANSMIT_CHARACTER (R356). -/
  | transmitCharacter (n : Fin 4)
  /-- SER_DATA_WRITE (R353). -/
  | serDataWrite (x : Writer) (n : Fin 4) (v : Word)
  /-- SER_DATA_READ (R353). -/
  | serDataRead (w : World) (n : Fin 4)
  /-- RECEIVE_TIMEOUT (R355). -/
  | receiveTimeout (n : Fin 4)
  /-- LINE_HELD (R357). -/
  | lineHeld (n : Fin 4)
  /-- HELD_CLEAR (R357). -/
  | heldClear (n : Fin 4)
  /-- SER_BAUD_WRITE (R352). -/
  | serBaudWrite (x : Writer) (n : Fin 4) (v : Word)
  /-- CTS_CHANGE (R356; `low`: SERn_CTS is low). -/
  | ctsChange (n : Fin 4) (low : Bool)
  /-- BAR0_ACCESS (R364; `g`: the granule of the access that the patterns fall on). -/
  | bar0Access (h : Fin 4) (off : Nat) (op : HostOp) (g : Nat) (err err2 : List Nat)
  /-- BAR2_ACCESS (R366; `g`: the granule of the access that the patterns fall on). -/
  | bar2Access (h : Fin 4) (off : Nat) (op : HostOp) (g : Nat) (err err2 : List Nat)
  /-- RELEASE (R365). -/
  | release (h : Fin 4) (len : Word)
  /-- DOORBELL (R368, R369; and the host's other accesses to the doorbell page and to its configuration header, R360, R365), with the
  word of a write. -/
  | doorbell (h : Fin 4) (op : PageOp) (v : Word)
  /-- RING_PROD_APPLY (R368, R369). -/
  | ringProdApply (h : Fin 4) (r : Fin 16)
  /-- NOTE (R371: a write of HST_NOTEh). -/
  | note (x : Writer) (h : Fin 4) (v : Word)
  /-- HOST_LINK_DOWN (R372). -/
  | hostLinkDown (h : Fin 4)
  /-- HOST_LINK_UP (R372; link speed and width codes, and the host's MSI-X enable and vector masks). -/
  | hostLinkUp (h : Fin 4) (speed : Fin 5) (width : Fin 3) (cfg : HostCfg)
  /-- STG_WRITE (R364: a write of HST_STGh). -/
  | stgWrite (x : Writer) (h : Fin 4) (v : Word)
  /-- RING_CONFIG_WRITE (R367: a write of HST_RINGh_r, or of HST_WINh). -/
  | ringConfigWrite (x : Writer) (h : Fin 4) (r : Option (Fin 16)) (v : Word)
  /-- CHECK_IN (R465; `t`: the count when the write lands). -/
  | checkIn (x : Writer) (w : Fin 3) (v t : Word)
  /-- WINDOW_CLOSE (R467). -/
  | windowClose (w : Fin 3)
  /-- HARD_TIMER_END (R469). -/
  | hardTimerEnd (w : Fin 3)
  /-- WDG_KEY (R471). -/
  | wdgKey (x : Writer) (w : Fin 3) (v : Word)
  /-- WDG_DISABLE (R471: a write of DIS = 1). -/
  | wdgDisable (x : Writer) (w : Fin 3)
  /-- WDG_ENABLE (R471: a write of EN = 1, with LOCK or without). -/
  | wdgEnable (x : Writer) (w : Fin 3) (lock : Bool)
  /-- WDG_LOCK (R471: a write of LOCK = 1). -/
  | wdgLock (x : Writer) (w : Fin 3)
  /-- WDG_CONFIG_WRITE (R468). -/
  | wdgConfigWrite (x : Writer) (w : Fin 3) (r : WdgReg) (v : Word)
  /-- IMAGE_STAGED (R378). -/
  | imageStaged
  /-- VERIFICATION_END (R380). -/
  | verificationEnd
  /-- IMAGE_LOAD (R383). -/
  | imageLoad
  /-- FUSE_PROGRAM (R47: a write of TRU_FUSECTL with GO). -/
  | fuseProgram (x : Writer) (addr : BitVec 9) (data : Byte)
  /-- FUSE_PROGRAM_END (R47). -/
  | fuseProgramEnd
  /-- DERIVE (R385, R389). -/
  | derive (w : World) (purpose : Byte)
  /-- VITRINE_SEAL (R390). -/
  | vitrineSeal (w : World)
  /-- VITRINE_OPEN (R389). -/
  | vitrineOpen (w : World)
  /-- DESTROY (R388). -/
  | destroy (w : World)
  /-- QUOTE (R393). -/
  | quote (w : World)
  /-- CERT (R392). -/
  | cert (w : World)
  /-- IDPUB (R389). -/
  | idpub (w : World)
  /-- PROGRAM (R403: a write of FLS_CMDc). -/
  | program (x : Writer) (c : Fin 3)
  /-- ERASE (R402). -/
  | erase (x : Writer) (c : Fin 3)
  /-- BLANK (R402). -/
  | blank (x : Writer) (c : Fin 3)
  /-- ACTIVATE (R416). -/
  | activate (x : Writer) (c : Fin 3)
  /-- CLAIM (R409). -/
  | claim (x : Writer) (c : Fin 3)
  /-- UNCLAIM (R409). -/
  | unclaim (x : Writer) (c : Fin 3)
  /-- OPTION (R411). -/
  | option (x : Writer) (c : Fin 3)
  /-- FLASH_OPERATION_END (R405; `k`: the bank). -/
  | flashOperationEnd (k : Fin 2)
  /-- FLASH_TIMEOUT (R405; `k`: the bank). -/
  | flashTimeout (k : Fin 2)
  /-- FLASH_READ (R400: the reply of an outstanding far load from the flash read window). -/
  | flashRead (c : CoreId) (i : Fin 6) (err : List Nat)
  /-- FLS_LOWER_KEY (R412). -/
  | flsLowerKey (x : Writer) (key : BitVec 16)
  /-- LOWERING (R412: a write of FLS_LOWER with GO). -/
  | lowering (x : Writer)
  /-- ACCEPT (R476: a write of TRU_LIVEw). -/
  | accept (w : World) (src : Fin 4)
  /-- STEP (R477). -/
  | step (w : World) (q : Fin 64) (k : Fin 32)
  /-- CURATOR (R479). -/
  | curator (w : World)
  /-- FINISH (R480). -/
  | finish (w : World)
  /-- ABANDON (R481). -/
  | abandon (w : World)
  /-- POWER_ON (R430; the strap ADC's measurements in each pass of the scan (R33): 16 conversions, in ohms, of each of VAL0 to
  VAL23; the third pass is used only for pins whose first two differ). -/
  | powerOn (p1 p2 p3 : List (List Nat))
  /-- NRESET (R431; the length of the pulse, the measurements of the scan that follows, as POWER_ON has them, and whether the pin stayed low after the device released it). -/
  | nreset (p1 p2 p3 : List (List Nat)) (ns : Nat) (held : Bool)
  /-- POWER_GOOD (R443; `r`: the rail). -/
  | powerGood (r : Fin 7)
  /-- PG_TIMEOUT (R443). -/
  | pgTimeout (r : Fin 7)
  /-- PG_LOST (R445). -/
  | pgLost (r : Fin 7)
  /-- SOURCE_READY (R423). -/
  | sourceReady (k : ClkSource)
  /-- REFCLK_FAIL (R427). -/
  | refclkFail
  /-- KRC_FAIL (R428). -/
  | krcFail
  /-- KXT_FAIL (R464). -/
  | kxtFail
  /-- CORE_PLL_LOSS_OF_LOCK (R429). -/
  | corePllLossOfLock
  /-- AUDIO_PLL_LOSS_OF_LOCK (R429). -/
  | audioPllLossOfLock (i : Fin 2)
  /-- AUDIO_PLL_RELOCK (R429). -/
  | audioPllRelock (i : Fin 2)
  /-- SERDES_PLL_LOSS_OF_LOCK (R426; `i`: 0 Maldex, 1 Ethernet, 2 host). -/
  | serdesPllLossOfLock (i : Fin 3)
  /-- REFSEL_WRITE (R425: a write of KPR_CLK_SEL). -/
  | refselWrite (x : Writer) (v : Word)
  /-- REFERENCE_SWITCH_END (R425). -/
  | referenceSwitchEnd
  /-- RST_REQ (R438: a write of KPR_RST_REQk). -/
  | rstReq (x : Writer) (k : Fin 4) (v : Word)
  /-- BLOCK_IDLE (R438; transfers dropped at the timeout, and whether the block's clock runs (R434)). -/
  | blockIdle (b : Fin 125) (dropped : Nat) (clk : Bool)
  /-- SEQUENCER_RETRY (R434; the blocks whose clock runs). -/
  | sequencerRetry (run : BitVec 125)
  /-- RST_ASSERT_KEY (R431). -/
  | rstAssertKey (x : Writer) (key : BitVec 16)
  /-- RST_ASSERT (R431: a write of KPR_RST_ASSERT with GO). -/
  | rstAssert (x : Writer)
  /-- SLEEP_REQUEST (R453: a write of KPR_PWR_REQ). -/
  | sleepRequest (x : Writer) (v : Word)
  /-- SLEEP_ENTRY (R454). -/
  | sleepEntry
  /-- SERIAL_WAKE (R358, R457; whether the edge falls in the window in which KRC stops). -/
  | serialWake (n : Fin 4) (window : Bool)
  /-- CTS_WAKE (R456). -/
  | ctsWake (n : Fin 4)
  /-- WAKE_TIMER (R456). -/
  | wakeTimer
  /-- WAKE (R458; the channels that pass the fast-wake check of R295). -/
  | wake (chk : BitVec 8)
  /-- TEMPERATURE_READ (R459; the 16 readings). -/
  | temperatureRead (temps : List (BitVec 12))
  /-- QUIRE_GATE (R449). -/
  | quireGate (q : Fin 64)
  /-- QUIRE_POWER_UP_END (R449, R436). -/
  | quirePowerUpEnd (q : Fin 64)
  /-- VDD_STBY_LOSS (R488). -/
  | vddStbyLoss
  /-- TAP_ACCESS (R396). -/
  | tapAccess (op : TapOp)
  /-- REGISTER_WRITE (R5; the address of the register). -/
  | registerWrite (x : Writer) (a : BitVec 40) (v : Word)
deriving DecidableEq, Repr

end Sys2Proof
end

