-- ==== Sys2Proof/WellFormed.lean ====
section
/-! DEFINITION. Which commands are well formed: the operands that no command of the block has. -/

namespace Sys2Proof

/-- Codeword positions of the binder code: 288 stored bits and 35 address bits (R278, R280). -/
def errOk (err : List Nat) : Bool := err.all (fun p => decide (p < 323))

/-- The groups of the system space with defined functions: the functions of groups 0, 2 and 3 (R196, R203, R206). -/
def groupFunctions : Nat → List Nat
  | 0 => [0, 1, 2, 3, 4, 5, 8, 9, 10, 11, 12, 13, 14, 15, 16, 17, 18, 19, 24, 25, 26, 27, 28, 29]
  | 2 => [0, 1, 8, 9, 10, 11, 16, 17, 24, 25, 32, 33]
  | 3 => [0, 1, 8, 9, 10, 16, 17]
  | _ => []

/-- The encodings that are illegal in every core (R217): unassigned functions of groups 0, 2 and 3, CMP encodings that are
no condition (R200), and groups 0x6–0xB and 0xF. -/
def isDefinedIllegal (op : BitVec 16) : Bool :=
  let n := op.toNat
  let g := n / 256 % 16
  decide (0xF000 ≤ n) &&
    (((g == 0 || g == 2 || g == 3) && !(groupFunctions g).contains (n % 256)) || (g == 1 && decide (15 ≤ n % 256)) ||
      (decide (6 ≤ g) && decide (g ≤ 11)) || g == 15)

/-- The reserved block, 0xFC00–0xFEFF (R218). -/
def isReservedBlock (op : BitVec 16) : Bool := decide (0xFC00 ≤ op.toNat) && decide (op.toNat ≤ 0xFEFF)

/-- A pass of the strap scan holds 16 conversions of each of the 24 pins (R33). -/
def scanOk (p : List (List Nat)) : Bool := p.length == 24 && p.all (fun l => l.length == 16)

/-- The sizes of a line block (R313). -/
def lineBlockOk : LineBlock → Bool
  | .start d => d.length == 7
  | .data d => d.length == 8
  | .term d => decide (d.length ≤ 7)
  | .other => true

/-- A frame on the line begins with a start block and completes with a terminate block (R313). -/
def lineFrame (l : List LineBlock) : Bool :=
  l.all lineBlockOk && (match l.head? with | some (.start _) => true | _ => false) &&
    (match l.getLast? with | some (.term _) => true | _ => false)

/-- A host access lies within its BAR and moves at least one byte (R363), at most a maximum read request or payload (R360). -/
def barOk (size off : Nat) (op : HostOp) : Bool :=
  let (n, most) := match op with | .read n => (n, 4096) | .write bs => (bs.length, 512)
  decide (1 ≤ n) && decide (n ≤ most) && decide (off + n ≤ size)

/-- Whether an access to the doorbell page, 64 KiB, or to the configuration header, 64 bytes, stays in it: a read of at most 4,096
bytes, or a write of an aligned word that is no doorbell and not RELEASE, which are commands of their own (R360, R363, R365). One that
writes no word has the word 0. -/
def pageOk (op : PageOp) (v : Word) : Bool :=
  match op with
  | .bell _ | .bar _ => true
  | .write off => off % 4 == 0 && decide (off < 0x10000) && off != 4 && !(decide (0x100 ≤ off) && decide (off < 0x140))
  | .read off n => v == 0 && decide (1 ≤ n) && decide (n ≤ 4096) && decide (off + n ≤ 0x10000)
  | .headerRead off n => v == 0 && decide (1 ≤ n) && decide (off + n ≤ 64)
  | .config _ => v == 0

/-- An address of the control space (R12). -/
def inControlSpace (a : BitVec 40) : Bool := decide (0x0F00000000 ≤ a.toNat) && decide (a.toNat < 0x0F80000000)

/-- Whether a command is well formed. -/
def Instr.wf : Instr → Bool
  | .lit _ _ => true
  | .ext _ _ => true
  | .dup _ => true
  | .drop _ => true
  | .swap _ => true
  | .over _ => true
  | .rot _ => true
  | .pick _ => true
  | .add _ => true
  | .sub _ => true
  | .and _ => true
  | .or _ => true
  | .xor _ => true
  | .shl _ => true
  | .shr _ => true
  | .sar _ => true
  | .mul _ => true
  | .mulh _ => true
  | .div _ => true
  | .rem _ => true
  | .fadd _ => true
  | .fmul _ => true
  | .fdiv _ => true
  | .fsqrt _ => true
  | .exp2 _ => true
  | .log2 _ => true
  | .cmp _ _ => true
  | .ld _ _ err => errOk err
  | .st _ _ err => errOk err
  | .ldb _ _ err => errOk err
  | .stb _ _ err => errOk err
  | .ldf _ => true
  | .stf _ => true
  | .get _ => true
  | .put _ => true
  | .seal _ => true
  | .stitch _ => true
  | .press _ => true
  | .pwait _ => true
  | .movn _ _ => true
  | .filln _ _ => true
  | .ccrr _ => true
  | .ccrw _ => true
  | .br _ _ => true
  | .bz _ _ => true
  | .bnz _ _ => true
  | .call _ _ => true
  | .brInd _ => true
  | .callInd _ => true
  | .ret _ => true
  | .reti _ => true
  | .sync _ => true
  | .iflush _ => true
  | .wft _ => true
  | .trap _ _ => true
  | .loop _ _ => true
  | .definedIllegal _ op => isDefinedIllegal op
  | .reservedBlock _ op => isReservedBlock op
  | .sideUnitResult _ _ => true
  | .getReply _ _ _ => true
  | .ldfReply _ _ _ err err2 => errOk err && errOk err2
  | .stfAcknowledge _ _ err err2 => errOk err && errOk err2
  | .sealComplete _ => true
  | .stitchComplete _ => true
  | .interruptEntry _ => true
  | .nmeEntry _ => true
  | .uNop _ _ err => errOk err
  | .uMac _ _ err => errOk err
  | .uMsub _ _ err => errOk err
  | .uAcca _ _ err => errOk err
  | .uClr _ _ err => errOk err
  | .uClra _ _ err => errOk err
  | .uRd _ _ err => errOk err
  | .uRdc _ _ err => errOk err
  | .uReduce _ _ err => errOk err
  | .uSpill _ _ err => errOk err
  | .uFill _ _ err => errOk err
  | .uMerge _ _ err => errOk err
  | .uVadd _ _ err => errOk err
  | .uVsub _ _ err => errOk err
  | .uVmul _ _ err => errOk err
  | .uVmin _ _ err => errOk err
  | .uVmax _ _ err => errOk err
  | .uVmov _ _ err => errOk err
  | .uVneg _ _ err => errOk err
  | .uVabs _ _ err => errOk err
  | .uCmul _ _ err => errOk err
  | .uBfly4 _ _ err => errOk err
  | .uBfly4i _ _ err => errOk err
  | .uReservedOp _ _ err => errOk err
  | .microwordWriteback _ _ => true
  | .pressWaitTimeout _ _ err => errOk err
  | .pressTimerCondition _ _ err => errOk err
  | .tickStart _ _ => true
  | .tckGo _ _ => true
  | .tckStop _ _ => true
  | .finalEdge => true
  | .tickEdge _ _ _ => true
  | .egressFrameStart => true
  | .quireStart _ => true
  | .tickTimer _ => true
  | .ingressDeadline => true
  | .deckle => true
  | .cycleFolioExhausted _ _ => true
  | .stitchFreeze _ _ => true
  | .selWrite _ _ => true
  | .wordClockReady => true
  | .ptpLock _ => true
  | .ptpLockLoss => true
  | .tickSourceFail => true
  | .acquisitionEnd _ => true
  | .holdEnd => true
  | .tckCountLoRead _ => true
  | .tckMediaLoRead _ => true
  | .slotMessage _ _ _ _ => true
  | .slotcfgWrite _ _ _ => true
  | .subscriptionMapWrite _ _ _ _ _ => true
  | .linkReen _ _ _ _ => true
  | .linkRetire _ _ _ => true
  | .bulkPacket _ err err2 => errOk err && errOk err2
  | .tileRelease _ _ _ => true
  | .releaseLoadEnd _ _ => true
  | .relClear _ _ _ => true
  | .takeoverLoadEnd _ => true
  | .loadres _ _ _ => true
  | .loadresLoadEnd _ => true
  | .handoverGo _ _ _ => true
  | .readmit _ _ _ _ => true
  | .readmitTestEnd _ _ _ => true
  | .writeThroughAck _ _ => true
  | .send _ _ => true
  | .actWrite _ _ _ => true
  | .evidenceRecord _ _ _ _ => true
  | .flush _ => true
  | .channelRetire _ _ => true
  | .retrain _ _ => true
  | .retrainEnd _ _ => true
  | .resilverEnd _ => true
  | .patrolScrub _ err err2 => errOk err && errOk err2
  | .recalibrationSlice _ _ => true
  | .channelPowerDown _ => true
  | .regionWrite _ _ _ _ => true
  | .zeroingEnd _ => true
  | .poisonClear _ _ => true
  | .storeScan _ _ _ => true
  | .engineStart _ _ _ => true
  | .engineRelease _ _ => true
  | .engineBlock _ _ err err2 => errOk err && errOk err2
  | .maldexFrame _ l => lineFrame l
  | .lossOfSignal _ => true
  | .blockLock _ => true
  | .blockLockLoss _ => true
  | .portEnableGroup _ => true
  | .evqRead _ _ => true
  | .tdmFrame _ slots => slots.length == 16
  | .tdmEgressFrame _ => true
  | .tdmClockLoss _ => true
  | .jackSettlingExpiry _ => true
  | .jackLinkWrite _ _ _ => true
  | .mediaPacket _ _ _ _ _ _ => true
  | .ptpMessage _ _ _ _ => true
  | .streamEnable _ _ _ _ => true
  | .streamPacketTx _ => true
  | .controlFrame _ _ _ => true
  | .pop _ _ => true
  | .ctxSend _ _ _ => true
  | .ethLinkChange _ _ => true
  | .maldexSignalPresent _ => true
  | .tdmBclkReturn _ => true
  | .ptpEventTransmit _ _ => true
  | .panelSample _ => true
  | .buttonHeld _ => true
  | .touchBurst _ _ => true
  | .pnlCfgWrite _ _ _ => true
  | .pnlEvqRead _ _ => true
  | .receiveCharacter _ _ => true
  | .transmitCharacter _ => true
  | .serDataWrite _ _ _ => true
  | .serDataRead _ _ => true
  | .receiveTimeout _ => true
  | .lineHeld _ => true
  | .heldClear _ => true
  | .serBaudWrite _ _ _ => true
  | .ctsChange _ _ => true
  | .bar0Access _ off op _ err err2 => errOk err && errOk err2 && barOk 0x2000000 off op
  | .bar2Access _ off op _ err err2 => errOk err && errOk err2 && barOk 0x4000000 off op
  | .release _ _ => true
  | .doorbell _ op v => pageOk op v
  | .ringProdApply _ _ => true
  | .note _ _ _ => true
  | .hostLinkDown _ => true
  | .hostLinkUp _ _ _ _ => true
  | .stgWrite _ _ _ => true
  | .ringConfigWrite _ _ _ _ => true
  | .checkIn _ _ _ _ => true
  | .windowClose _ => true
  | .hardTimerEnd _ => true
  | .wdgKey _ _ _ => true
  | .wdgDisable _ _ => true
  | .wdgEnable _ _ _ => true
  | .wdgLock _ _ => true
  | .wdgConfigWrite _ _ _ _ => true
  | .imageStaged => true
  | .verificationEnd => true
  | .imageLoad => true
  | .fuseProgram _ _ _ => true
  | .fuseProgramEnd => true
  | .derive _ _ => true
  | .vitrineSeal _ => true
  | .vitrineOpen _ => true
  | .destroy _ => true
  | .quote _ => true
  | .cert _ => true
  | .idpub _ => true
  | .program _ _ => true
  | .erase _ _ => true
  | .blank _ _ => true
  | .activate _ _ => true
  | .claim _ _ => true
  | .unclaim _ _ => true
  | .option _ _ => true
  | .flashOperationEnd _ => true
  | .flashTimeout _ => true
  | .flashRead _ _ err => errOk err
  | .flsLowerKey _ _ => true
  | .lowering _ => true
  | .accept _ _ => true
  | .step _ _ _ => true
  | .curator _ => true
  | .finish _ => true
  | .abandon _ => true
  | .powerOn p1 p2 p3 => scanOk p1 && scanOk p2 && scanOk p3
  | .nreset p1 p2 p3 _ _ => scanOk p1 && scanOk p2 && scanOk p3
  | .powerGood _ => true
  | .pgTimeout _ => true
  | .pgLost _ => true
  | .sourceReady _ => true
  | .refclkFail => true
  | .krcFail => true
  | .kxtFail => true
  | .corePllLossOfLock => true
  | .audioPllLossOfLock _ => true
  | .audioPllRelock _ => true
  | .serdesPllLossOfLock _ => true
  | .refselWrite _ _ => true
  | .referenceSwitchEnd => true
  | .rstReq _ _ _ => true
  | .blockIdle _ _ _ => true
  | .sequencerRetry _ => true
  | .rstAssertKey _ _ => true
  | .rstAssert _ => true
  | .sleepRequest _ _ => true
  | .sleepEntry => true
  | .serialWake _ _ => true
  | .ctsWake _ => true
  | .wakeTimer => true
  | .wake _ => true
  | .temperatureRead temps => temps.length == 16
  | .quireGate _ => true
  | .quirePowerUpEnd _ => true
  | .vddStbyLoss => true
  | .tapAccess _ => true
  | .registerWrite _ a _ => inControlSpace a

end Sys2Proof
end

