-- ==== Sys2Proof/Decode.lean ====
section
/-! DEFINITION. The host's decoder, for which no row of the opcode table gives bits; and the 16-bit encoding of the Limdon
instructions (R191, R192, R196, R200, R201, R203, R206, R217, R218), with its decoder. -/

namespace Sys2Proof

/-- The command that a word spells by the table's bits: no row of the table gives bits. DESIGN CHOICE: assumption 9. -/
def decodeTableWord (_nbits _w : Nat) : Option Instr := none

/-! ### Limdon encodings -/

/-- The number of a condition (R200). -/
def condNum : Cond → Nat
  | .eq => 0
  | .ne => 1
  | .lt => 2
  | .ge => 3
  | .gt => 4
  | .le => 5
  | .ltu => 6
  | .geu => 7
  | .gtu => 8
  | .leu => 9
  | .feq => 10
  | .flt => 11
  | .fle => 12
  | .fun_ => 13
  | .fne => 14

/-- The condition of a number. -/
def condOf : Nat → Option Cond
  | 0 => some .eq
  | 1 => some .ne
  | 2 => some .lt
  | 3 => some .ge
  | 4 => some .gt
  | 5 => some .le
  | 6 => some .ltu
  | 7 => some .geu
  | 8 => some .gtu
  | 9 => some .leu
  | 10 => some .feq
  | 11 => some .flt
  | 12 => some .fle
  | 13 => some .fun_
  | 14 => some .fne
  | _ => none

/-- The halfword that encodes an instruction; `none` for a command that is no Limdon instruction. -/
def limdonEncode : Instr → Option Nat
  | .lit _ imm => some imm.toNat
  | .ext _ imm => some (0x8000 + imm.toNat)
  | .br _ off => some (0xC000 + off.toNat)
  | .bz _ off => some (0xC800 + off.toNat)
  | .bnz _ off => some (0xD000 + off.toNat)
  | .call _ off => some (0xD800 + off.toNat)
  | .ld _ off _ => some (0xE000 + off.toNat)
  | .st _ off _ => some (0xE400 + off.toNat)
  | .ldb _ off _ => some (0xE800 + off.toNat)
  | .stb _ off _ => some (0xEC00 + off.toNat)
  | .dup _ => some 0xF000
  | .drop _ => some 0xF001
  | .swap _ => some 0xF002
  | .over _ => some 0xF003
  | .rot _ => some 0xF004
  | .pick _ => some 0xF005
  | .add _ => some 0xF008
  | .sub _ => some 0xF009
  | .and _ => some 0xF00A
  | .or _ => some 0xF00B
  | .xor _ => some 0xF00C
  | .shl _ => some 0xF00D
  | .shr _ => some 0xF00E
  | .sar _ => some 0xF00F
  | .mul _ => some 0xF010
  | .mulh _ => some 0xF011
  | .div _ => some 0xF012
  | .rem _ => some 0xF013
  | .fadd _ => some 0xF018
  | .fmul _ => some 0xF019
  | .fdiv _ => some 0xF01A
  | .fsqrt _ => some 0xF01B
  | .exp2 _ => some 0xF01C
  | .log2 _ => some 0xF01D
  | .cmp _ cc => some (0xF100 + condNum cc)
  | .ldf _ => some 0xF200
  | .stf _ => some 0xF201
  | .get _ => some 0xF208
  | .put _ => some 0xF209
  | .seal _ => some 0xF20A
  | .stitch _ => some 0xF20B
  | .press _ => some 0xF210
  | .pwait _ => some 0xF211
  | .movn _ _ => some 0xF218
  | .filln _ _ => some 0xF219
  | .ccrr _ => some 0xF220
  | .ccrw _ => some 0xF221
  | .ret _ => some 0xF300
  | .reti _ => some 0xF301
  | .sync _ => some 0xF308
  | .iflush _ => some 0xF309
  | .wft _ => some 0xF30A
  | .brInd _ => some 0xF310
  | .callInd _ => some 0xF311
  | .trap _ code => some (0xF400 + code.toNat)
  | .loop _ len => some (0xF500 + len.toNat)
  | .definedIllegal _ op => some op.toNat
  | .reservedBlock _ op => some op.toNat
  | _ => none

/-- What a command says beside its encoding: the core that executes it, the error pattern that an access meets, and how many
elements of a block operation are done before it is cut. -/
structure Beside where
  c : CoreId
  err : List Nat
  k : Nat
deriving DecidableEq, Repr

/-- The part of a Limdon instruction that its encoding does not hold; what it has not reads as nothing. -/
def limdonBeside : Instr → Option Beside
  | .lit c _ | .ext c _ | .br c _ | .bz c _ | .bnz c _ | .call c _ | .dup c | .drop c | .swap c | .over c | .rot c | .pick c
  | .add c | .sub c | .and c | .or c | .xor c | .shl c | .shr c | .sar c | .mul c | .mulh c | .div c | .rem c | .fadd c
  | .fmul c | .fdiv c | .fsqrt c | .exp2 c | .log2 c | .cmp c _ | .ldf c | .stf c | .get c | .put c | .seal c | .stitch c
  | .press c | .pwait c | .ccrr c | .ccrw c | .ret c | .reti c | .sync c | .iflush c | .wft c | .brInd c | .callInd c
  | .trap c _ | .loop c _ | .definedIllegal c _ | .reservedBlock c _ => some ⟨c, [], 0⟩
  | .ld c _ err | .st c _ err | .ldb c _ err | .stb c _ err => some ⟨c, err, 0⟩
  | .movn c k | .filln c k => some ⟨c, [], k⟩
  | _ => none

/-- Group 0 (R196). -/
def decodeGroup0 (b : Beside) (f : Nat) : Option Instr :=
  match f with
  | 0 => some (.dup b.c)
  | 1 => some (.drop b.c)
  | 2 => some (.swap b.c)
  | 3 => some (.over b.c)
  | 4 => some (.rot b.c)
  | 5 => some (.pick b.c)
  | 8 => some (.add b.c)
  | 9 => some (.sub b.c)
  | 10 => some (.and b.c)
  | 11 => some (.or b.c)
  | 12 => some (.xor b.c)
  | 13 => some (.shl b.c)
  | 14 => some (.shr b.c)
  | 15 => some (.sar b.c)
  | 16 => some (.mul b.c)
  | 17 => some (.mulh b.c)
  | 18 => some (.div b.c)
  | 19 => some (.rem b.c)
  | 24 => some (.fadd b.c)
  | 25 => some (.fmul b.c)
  | 26 => some (.fdiv b.c)
  | 27 => some (.fsqrt b.c)
  | 28 => some (.exp2 b.c)
  | 29 => some (.log2 b.c)
  | _ => none

/-- Group 2 (R201, R203). -/
def decodeGroup2 (b : Beside) (f : Nat) : Option Instr :=
  match f with
  | 0 => some (.ldf b.c)
  | 1 => some (.stf b.c)
  | 8 => some (.get b.c)
  | 9 => some (.put b.c)
  | 10 => some (.seal b.c)
  | 11 => some (.stitch b.c)
  | 16 => some (.press b.c)
  | 17 => some (.pwait b.c)
  | 24 => some (.movn b.c b.k)
  | 25 => some (.filln b.c b.k)
  | 32 => some (.ccrr b.c)
  | 33 => some (.ccrw b.c)
  | _ => none

/-- Group 3 (R206). -/
def decodeGroup3 (b : Beside) (f : Nat) : Option Instr :=
  match f with
  | 0 => some (.ret b.c)
  | 1 => some (.reti b.c)
  | 8 => some (.sync b.c)
  | 9 => some (.iflush b.c)
  | 10 => some (.wft b.c)
  | 16 => some (.brInd b.c)
  | 17 => some (.callInd b.c)
  | _ => none

/-- The system and ALU space (R191): group and function; an encoding with no function is a defined illegal opcode (R217). -/
def decodeSystem (b : Beside) (n : Nat) : Instr :=
  let f := n % 256
  let ill : Instr := .definedIllegal b.c (BitVec.ofNat 16 n)
  match n / 256 % 16 with
  | 0 => (decodeGroup0 b f).getD ill
  | 1 => match condOf f with | some cc => .cmp b.c cc | none => ill
  | 2 => (decodeGroup2 b f).getD ill
  | 3 => (decodeGroup3 b f).getD ill
  | 4 => .trap b.c (BitVec.ofNat 8 f)
  | 5 => .loop b.c (BitVec.ofNat 8 f)
  | 12 | 13 | 14 => .reservedBlock b.c (BitVec.ofNat 16 n)
  | _ => ill

/-- The instruction that a halfword encodes (R191), total over the 65,536 halfwords. DESIGN CHOICE: assumption 11. -/
def limdonDecode (b : Beside) (n : Nat) : Instr :=
  if n < 0x8000 then .lit b.c (BitVec.ofNat 15 n)
  else if n < 0xC000 then .ext b.c (BitVec.ofNat 14 (n - 0x8000))
  else if n < 0xC800 then .br b.c (BitVec.ofNat 11 (n - 0xC000))
  else if n < 0xD000 then .bz b.c (BitVec.ofNat 11 (n - 0xC800))
  else if n < 0xD800 then .bnz b.c (BitVec.ofNat 11 (n - 0xD000))
  else if n < 0xE000 then .call b.c (BitVec.ofNat 11 (n - 0xD800))
  else if n < 0xE400 then .ld b.c (BitVec.ofNat 10 (n - 0xE000)) b.err
  else if n < 0xE800 then .st b.c (BitVec.ofNat 10 (n - 0xE400)) b.err
  else if n < 0xEC00 then .ldb b.c (BitVec.ofNat 10 (n - 0xE800)) b.err
  else if n < 0xF000 then .stb b.c (BitVec.ofNat 10 (n - 0xEC00)) b.err
  else decodeSystem b n

end Sys2Proof
end

