-- ==== Sys2Proof/Config.lean ====
section
/-! DEFINITION. What the spec leaves open and what it takes from standards it does not restate: free values (no body,
so that no proof can rest on one) and the cryptographic functions. -/

namespace Sys2Proof

/-- A free word: the value the spec leaves open, one per draw (assumption 3). -/
opaque Config.freeWord : Nat → Word

/-- A free number: a count or a choice the spec leaves open, one per draw (assumption 3). -/
opaque Config.freeNat : Nat → Nat

/-- What one execution of a reserved-block encoding does (R218), before the bounds of R218 cut it: operand, return and shadow
entries popped and pushed, CFPF, a loop depth, core registers written, bytes stored, an exception. -/
structure BlockEffect where
  popped : Nat
  cells : List Word
  retsPopped : Nat
  rets : List Word
  shsPopped : Nat
  shs : List Word
  cfpf : Option Word
  depth : Option Nat
  ccrs : List (Nat × Word)
  stores : List (Nat × Byte)
  exc : Option (Nat × Nat × Word)
deriving DecidableEq, Repr, Inhabited

/-- The undefined effect of a reserved-block encoding, one per execution (R218, assumption 3). DESIGN CHOICE: assumption 17. -/
opaque Config.freeEffect : Nat → BlockEffect

/-- The 27-bit check of a slot message over bits [68:0] and a quire link's identity (R105); the spec does not give its function.
DESIGN CHOICE: assumption 3. -/
opaque Config.slotCheck : BitVec 69 → Nat → BitVec 27

/-- Whether a PTP profile's range for the Sync interval, or for the announce interval, has a value (R334); the spec does not give
the ranges. DESIGN CHOICE: assumption 3. -/
opaque Config.ptpRange : (profile : Nat) → (ann : Bool) → BitVec 4 → Bool

/-- The contents of the keeper core's 32 KiB ROM (R13); the spec does not list them. DESIGN CHOICE: assumption 3. -/
opaque Config.rom : Nat → Byte

/-- SHA-256 of a byte string (the standard is not restated). DESIGN CHOICE: assumption 3. DESIGN CHOICE: assumption 14. -/
opaque Config.sha256 : List Byte → BitVec 256

/-- HMAC-SHA-256 of a message under a key. DESIGN CHOICE: assumption 14. -/
opaque Config.hmac : List Byte → List Byte → BitVec 256

/-- SLH-DSA-SHA2-128s verification, FIPS 205 pure form with an empty context: public key, message, signature. DESIGN CHOICE: assumption 14. -/
opaque Config.slhVerify : List Byte → List Byte → List Byte → Bool

/-- SLH-DSA signature under the key of three seeds; `fast` is the parameter set SHA2-128f, otherwise SHA2-128s. DESIGN CHOICE: assumption 14. -/
opaque Config.slhSign : (fast : Bool) → List Byte → List Byte → List Byte

/-- SLH-DSA public key of three seeds. -/
opaque Config.slhPublic : (fast : Bool) → List Byte → List Byte

/-- AES-256-GCM: key, nonce, additional data, plain text; gives the cipher text. DESIGN CHOICE: assumption 14. -/
opaque Config.gcmCipher : BitVec 256 → List Byte → List Byte → List Byte → List Byte

/-- AES-256-GCM: key, nonce, additional data, plain text; gives the tag. DESIGN CHOICE: assumption 14. -/
opaque Config.gcmTag : BitVec 256 → List Byte → List Byte → List Byte → List Byte

/-- AES-256-GCM: key, nonce, additional data, cipher text; gives the plain text. DESIGN CHOICE: assumption 14. -/
opaque Config.gcmPlain : BitVec 256 → List Byte → List Byte → List Byte → List Byte

/-- The SRCID that this device sends in its Maldex frames (R314); the spec gives it no value. DESIGN CHOICE: assumption 3. -/
opaque Config.srcId : Word

/-- A word of the random source. -/
opaque Config.random : Nat → BitVec 256

end Sys2Proof
end

