-- ==== Sys2Proof/Machine/Binder.lean ====
section
/-! DEFINITION. The binder code (R277–R281): tag, check bits, syndromes of an error pattern in GF(2^9) and the outcome
of a read. A read command names the codeword positions in error; the code decides what the reader sees. -/

namespace Sys2Proof.Machine

/-- Product by `x` in GF(2^9), modulo x^9 + x^4 + 1. -/
def gfX (a : Nat) : Nat := if 2 ^ 8 ≤ a % 2 ^ 9 then (2 * a % 2 ^ 9) ^^^ 17 else 2 * a % 2 ^ 9

/-- Product in GF(2^9), by shift and add over the low `k` bits of `b`. -/
def gfMulFrom : Nat → Nat → Nat → Nat
  | 0, _, _ => 0
  | k + 1, a, b => (if b % 2 = 1 then a else 0) ^^^ gfMulFrom k (gfX a) (b / 2)

def gfMul (a b : Nat) : Nat := gfMulFrom 9 a b

/-- α^n in GF(2^9). -/
def gfPow : Nat → Nat
  | 0 => 1
  | n + 1 => gfX (gfPow n)

/-- The misdirection tag (R280): the folded address and the world constant (0x000, 0xA5A, or 0x5A5 for neither). -/
def binderTag (addr : Nat) (w : Option World) : Nat :=
  let f := addr / 2 ^ 5 % 2 ^ 35
  (f % 2 ^ 12) ^^^ (f / 2 ^ 12 % 2 ^ 12) ^^^ (f / 2 ^ 24) ^^^
    (match w with | some .prg => 0 | some .grd => 0xA5A | none => 0x5A5)

/-- The message M of a granule (R279): data, tag, poison bit, address bits [39:5]. -/
def binderMessage (data : Nat) (addr : Nat) (w : Option World) (poison : Bool) : Nat :=
  data % 2 ^ 256 + binderTag addr w * 2 ^ 256 + (if poison then 2 ^ 268 else 0) + addr / 2 ^ 5 % 2 ^ 35 * 2 ^ 269

/-- The remainder of `m(x)` modulo g(x) = 0xD_BE5B, taking the top `k` bits of `m` first. -/
def binderRem (m : Nat) : Nat → Nat → Nat
  | 0, r => r
  | k + 1, r =>
    let t := 2 * r + m / 2 ^ k % 2
    binderRem m k (if 2 ^ 19 ≤ t then t ^^^ 0xDBE5B else t)

/-- The 19 check bits (R279): the remainder of m(x)·x^19. -/
def binderCheck (m : Nat) : Nat := binderRem (m * 2 ^ 19) 323 0

/-- The 32-bit check field of a granule (R278). -/
def binderField (data addr : Nat) (w : Option World) (poison : Bool) : Nat :=
  binderCheck (binderMessage data addr w poison) + (if poison then 2 ^ 19 else 0) + binderTag addr w * 2 ^ 20

/-- Toggles a codeword position in a set of positions. -/
def toggle (s : List Nat) (p : Nat) : List Nat := if s.contains p then s.filter (· != p) else p :: s

/-- The positions of an error pattern that stand in error, each once. -/
def errNorm (err : List Nat) : List Nat := err.foldl toggle []

/-- The syndromes S0, S1, S3 of an error pattern (R281). -/
def synd0 (err : List Nat) : Nat := err.length % 2
def synd1 (err : List Nat) : Nat := err.foldl (fun s p => s ^^^ gfPow (p % 511)) 0
def synd3 (err : List Nat) : Nat := err.foldl (fun s p => s ^^^ gfPow (3 * p % 511)) 0

/-- The code's verdict on a codeword, before the tag and poison tests. -/
inductive CodeFix where
  | clean
  | fixed (ps : List Nat)
  | misdirected
  | uncorrectable
deriving DecidableEq, Repr

/-- Judges the corrected positions (R281): all stored, one in the address, or one beyond the codeword. -/
def judgeFix (ps : List Nat) : CodeFix :=
  if ps.any (fun e => decide (323 ≤ e)) then .uncorrectable
  else if ps.any (fun e => decide (288 ≤ e)) then .misdirected
  else .fixed ps

/-- The syndrome table of R281. -/
def codeVerdict (err : List Nat) : CodeFix :=
  let s0 := synd0 err
  let s1 := synd1 err
  let s3 := synd3 err
  let s1c := gfMul s1 (gfMul s1 s1)
  if s1 = 0 then (if s0 = 0 ∧ s3 = 0 then .clean else .uncorrectable)
  else if s0 = 1 then
    if s3 = s1c then judgeFix ((List.range 511).filter (fun e => gfPow e == s1)) else .uncorrectable
  else
    let rs := (List.range 511).filter (fun e =>
      let z := gfPow e
      gfMul s1 (gfMul z z ^^^ gfMul s1 z) == s1c ^^^ s3)
    if rs.length = 2 then judgeFix rs else .uncorrectable

/-- What a read of one granule gives: whether the data are good, whether they were corrected, and which data bits stay
wrong after a miscorrection (a pattern of more than three errors). -/
inductive ReadOutcome where
  | good (flips : List Nat)
  | corrected (flips : List Nat)
  | bad (misdirected poisoned : Bool)
deriving DecidableEq, Repr

/-- The outcome of reading a granule whose stored poison bit is `poison`, with the codeword positions `err` in error
(R281): a residual in the tag is a misdirection, a poison bit of 1 makes it poisoned. -/
def readOutcome (poison : Bool) (err0 : List Nat) : ReadOutcome :=
  let err := errNorm err0
  let judge (ps : List Nat) (fixed : Bool) : ReadOutcome :=
    let res := ps.foldl toggle err
    let pz := poison != res.contains 287
    if res.any (fun p => decide (275 ≤ p) && decide (p < 287)) then .bad true false
    else if pz then .bad false true
    else
      let flips := (res.filter (fun p => decide (19 ≤ p) && decide (p < 275))).map (fun p => p - 19)
      if fixed then .corrected flips else .good flips
  match codeVerdict err with
  | .clean => judge [] false
  | .fixed ps => judge ps true
  | .misdirected => .bad true false
  | .uncorrectable => .bad false false

end Sys2Proof.Machine
end

