-- ==== Sys2Proof/Machine/Regs.lean ====
section
/-! DEFINITION. The control space (R19): every control register by name, its address, and its fields with the
access code (R4), the reset value and the owner that the spec's register tables give. A register that a strap, a fuse
or an option byte sets holds here its value on a board whose VAL pins are all open (code 15), with blank fuses and no
option record (assumption 2); POWER_ON and NRESET write the words of another board. -/

namespace Sys2Proof.Machine

/-- Access codes of register fields (R4). -/
inductive Acc where
  | rw | ro | w1c | wo | wk
deriving DecidableEq, Repr

/-- Who owns a field for writing (R5, R19): `reg` defers to the owner of the whole register, which may depend on the
state (a claim, a quire's world, a port's role). -/
inductive FOwn where
  | reg | prg | grd | kpr | both
deriving DecidableEq, Repr

/-- One field of a control register, as a row of its register table. -/
structure FieldD where
  fld : Fld
  acc : Acc
  reset : Nat
  own : FOwn
deriving DecidableEq, Repr

/-- Tile-folio index `i` belongs to the guard world when VAL4 gives 8 guard quires (R20, R243). -/
def tfolGuardAtReset (i : Nat) : Bool :=
  if i < 1024 then 896 ≤ i else 1080 ≤ i

/-- The control registers, one constructor per register name of the spec's tables, with their indices. -/
inductive Creg where
  | kprClkStat
  | kprClkFail (w : Nat)
  | kprClkSel
  | kprClkRefcnt
  | kprClkKxtcnt
  | kprRstCtl
  | kprRstReq (k : Nat)
  | kprRstPend (k : Nat)
  | kprRstErr (w : Nat)
  | kprRstDrop
  | kprRstCause
  | kprRstAssert
  | kprPwrReq
  | kprPwrWake
  | kprPwrTmr
  | kprPwrStat
  | kprPwrQgate (k : Nat)
  | kprPwrTemp (s : Nat)
  | kprStrapRaw (k : Nat)
  | kprStrapEff (k : Nat)
  | kprStrapUnst
  | kprStrapRsvd
  | kprStrapCond
  | kprWdgCtl (w : Nat)
  | kprWdgKey (w : Nat)
  | kprWdgOpen (w : Nat)
  | kprWdgClose (w : Nat)
  | kprWdgReq (w : Nat)
  | kprWdgChk (w : Nat)
  | kprWdgStat (w : Nat)
  | kprWdgT (w : Nat)
  | kprWdgDup (w : Nat)
  | kprWdgRcnt
  | kprWdgRcnt2
  | serCfg (n : Nat)
  | serBaud (n : Nat)
  | serData (n : Nat)
  | serLvl (n : Nat)
  | serFlow (n : Nat)
  | serStat (n : Nat)
  | flsCmd (c : Nat)
  | flsAddr (c : Nat)
  | flsSrc (c : Nat)
  | flsStat
  | flsLower
  | flsEcnt (b : Nat)
  | tckCtl
  | tckSrc
  | tckLimit
  | tckOut
  | tckCountLo
  | tckCountHi
  | tckInitLo
  | tckInitHi
  | tckPeriod
  | tckPherr
  | tckSteer
  | tckMediaLo
  | tckMediaHi
  | spnSlotcfg (s : Nat)
  | spnErr (w : Nat)
  | spnIconc
  | spnLink (q : Nat)
  | spnConc (s : Nat)
  | spnStsum
  | spnStsum2
  | spnStseed (k : Nat)
  | spnStabt (k : Nat)
  | bdgTfolA (i : Nat)
  | bdgTfolB (i : Nat)
  | bdgTfolC (i : Nat)
  | bdgTev (i : Nat)
  | bdgAct (a : Nat)
  | bdgActu (a : Nat)
  | bdgGal (h : Nat)
  | bdgGalu (h : Nat)
  | bdgCur (w : Nat)
  | bdgCuru (w : Nat)
  | bdgCap
  | bdgShare (w : Nat)
  | bdgSum (w : Nat)
  | bdgErr (w : Nat)
  | bdgEv (w : Nat)
  | bdgEv2 (w : Nat)
  | qrcRel (q : Nat)
  | qrcStat (q : Nat)
  | qrcHovr (q : Nat)
  | qrcTkov (q : Nat)
  | qrcMap (q : Nat)
  | qrcPos (q : Nat) (j : Nat)
  | qrcSubLo (q : Nat) (j : Nat)
  | qrcSubHi (q : Nat) (j : Nat)
  | memCfg
  | memGch
  | memGdup
  | memDuptop
  | memTop
  | memErr (w : Nat)
  | memPclr (w : Nat)
  | memScrub
  | memCh (c : Nat)
  | memChErr (c : Nat)
  | memChRslv (c : Nat)
  | memRgnBase (r : Nat)
  | memRgnLim (r : Nat)
  | memRgnAttr (r : Nat)
  | memRgnSrc (r : Nat)
  | cvsCtl (e : Nat)
  | cvsStart (e : Nat)
  | cvsLen (e : Nat)
  | cvsExp (e : Nat)
  | cvsSeq (e : Nat)
  | cvsRate (e : Nat)
  | cvsStat (e : Nat)
  | cvsFirst (e : Nat)
  | cvsCnt (e : Nat)
  | cvsQstat (q : Nat)
  | mdxCfg (p : Nat)
  | mdxStat (p : Nat)
  | mdxErr (p : Nat)
  | mdxErr2 (p : Nat)
  | mdxEvq (p : Nat)
  | mdxEvstat (p : Nat)
  | mdxTxctln (p : Nat)
  | mdxTxctl (p : Nat) (i : Nat)
  | mdxTxch (p : Nat) (c : Nat)
  | tdmCfg (t : Nat)
  | tdmStat (t : Nat)
  | tdmTxslot (t : Nat) (i : Nat)
  | ethCfg
  | ethMacLo (e : Nat)
  | ethMacHi (e : Nat)
  | ethIp (e : Nat)
  | ethPortstat (e : Nat)
  | ethPtpcfg
  | ethPtpstat
  | ethPtpofs
  | ethErr
  | ethRxsAddr (s : Nat)
  | ethRxsCfg (s : Nat)
  | ethRxsMap (s : Nat)
  | ethRxsCnt (s : Nat)
  | ethTxsAddr (s : Nat)
  | ethTxsCfg (s : Nat)
  | ethTxsMap (s : Nat)
  | ethTxsCnt (s : Nat)
  | ethTxch (e : Nat) (c : Nat)
  | ethCrx (e : Nat)
  | ethCtx (e : Nat)
  | pnlCfg (k : Nat)
  | pnlTch (j : Nat)
  | pnlEvq (w : Nat)
  | pnlEvstat (w : Nat)
  | pnlErr (w : Nat)
  | egrGrp (g : Nat)
  | egrGain (g : Nat)
  | egrJgain (g : Nat)
  | egrJack (g : Nat)
  | egrCnt (g : Nat)
  | egrPins
  | egrErr
  | hstStat (h : Nat)
  | hstWin (h : Nat)
  | hstStg (h : Nat)
  | hstNote (h : Nat)
  | hstErr (h : Nat)
  | hstErr2 (h : Nat)
  | hstRing (h : Nat) (r : Nat)
  | hstRstat (h : Nat) (r : Nat)
  | truBoot
  | truAcc (k : Nat)
  | truColdig (k : Nat)
  | truCmd (w : Nat)
  | truHdl (w : Nat)
  | truArg (w : Nat)
  | truSrc (w : Nat)
  | truDst (w : Nat)
  | truLen (w : Nat)
  | truFusectl
  | truLive (w : Nat)
  | truLiveqLo (w : Nat)
  | truLiveqHi (w : Nat)
  | truLiveacc (w : Nat)
  | curWcfg (w : Nat)
  | curMsg (w : Nat)
  | curMsgd (w : Nat)
  | curNme (w : Nat)
  | curIrq (w : Nat)
  | curIrqen (w : Nat)
  | curStat (w : Nat)
  | curConc (w : Nat)
  | curFlush (w : Nat)
  | curFcnt (w : Nat) (c : Nat)
  | curElog
deriving DecidableEq, Repr

/-- The named fields of the control registers: lowest bit and width. -/
def Fd.kprClkStatKrcRdy : Fld := ⟨0, 1⟩
def Fd.kprClkStatRefclkRdy : Fld := ⟨1, 1⟩
def Fd.kprClkStatKxtRdy : Fld := ⟨2, 1⟩
def Fd.kprClkStatCpllLock : Fld := ⟨3, 1⟩
def Fd.kprClkStatApll0Lock : Fld := ⟨4, 1⟩
def Fd.kprClkStatApll1Lock : Fld := ⟨5, 1⟩
def Fd.kprClkStatGpllLock : Fld := ⟨6, 1⟩
def Fd.kprClkStatSdsMdx : Fld := ⟨7, 1⟩
def Fd.kprClkStatSdsEth : Fld := ⟨8, 1⟩
def Fd.kprClkStatSdsHst : Fld := ⟨9, 1⟩
def Fd.kprClkStatRefActive : Fld := ⟨10, 1⟩
def Fd.kprClkStatSwitching : Fld := ⟨11, 1⟩
def Fd.kprClkFailRefclkFail : Fld := ⟨0, 1⟩
def Fd.kprClkFailKxtFail : Fld := ⟨1, 1⟩
def Fd.kprClkFailApll0Fail : Fld := ⟨2, 1⟩
def Fd.kprClkFailApll1Fail : Fld := ⟨3, 1⟩
def Fd.kprClkFailSdsFail : Fld := ⟨4, 1⟩
def Fd.kprClkSelRefsel : Fld := ⟨0, 1⟩
def Fd.kprClkSelErrNotready : Fld := ⟨1, 1⟩
def Fd.kprClkRefcntCount : Fld := ⟨0, 16⟩
def Fd.kprClkKxtcntCount : Fld := ⟨0, 16⟩
def Fd.kprRstCtlTimeout : Fld := ⟨0, 8⟩
def Fd.kprRstReqReq : Fld := ⟨0, 32⟩
def Fd.kprRstPendPend : Fld := ⟨0, 32⟩
def Fd.kprRstErrRefused : Fld := ⟨0, 1⟩
def Fd.kprRstErrBlock : Fld := ⟨16, 7⟩
def Fd.kprRstDropCount : Fld := ⟨0, 16⟩
def Fd.kprRstDropBlock : Fld := ⟨16, 7⟩
def Fd.kprRstCausePor : Fld := ⟨0, 1⟩
def Fd.kprRstCausePin : Fld := ⟨1, 1⟩
def Fd.kprRstCauseWdgPrg : Fld := ⟨2, 1⟩
def Fd.kprRstCauseWdgGrd : Fld := ⟨3, 1⟩
def Fd.kprRstCauseWdgKpr : Fld := ⟨4, 1⟩
def Fd.kprRstCauseKrc : Fld := ⟨5, 1⟩
def Fd.kprRstCauseCpll : Fld := ⟨6, 1⟩
def Fd.kprRstCauseKcmd : Fld := ⟨7, 1⟩
def Fd.kprRstCauseResets : Fld := ⟨16, 16⟩
def Fd.kprRstAssertKey : Fld := ⟨0, 16⟩
def Fd.kprRstAssertGo : Fld := ⟨16, 1⟩
def Fd.kprPwrReqSleepPrg : Fld := ⟨0, 1⟩
def Fd.kprPwrReqSleepGrd : Fld := ⟨1, 1⟩
def Fd.kprPwrReqTgtPrg : Fld := ⟨2, 2⟩
def Fd.kprPwrReqTgtGrd : Fld := ⟨4, 2⟩
def Fd.kprPwrReqGhold : Fld := ⟨6, 1⟩
def Fd.kprPwrReqRefused : Fld := ⟨7, 1⟩
def Fd.kprPwrWakeCts0 : Fld := ⟨0, 1⟩
def Fd.kprPwrWakeCts1 : Fld := ⟨1, 1⟩
def Fd.kprPwrWakeCts2 : Fld := ⟨2, 1⟩
def Fd.kprPwrWakeCts3 : Fld := ⟨3, 1⟩
def Fd.kprPwrWakeTmr : Fld := ⟨4, 1⟩
def Fd.kprPwrTmrMs : Fld := ⟨0, 24⟩
def Fd.kprPwrTmrExpired : Fld := ⟨24, 1⟩
def Fd.kprPwrStatLast : Fld := ⟨0, 3⟩
def Fd.kprPwrStatDowngraded : Fld := ⟨3, 1⟩
def Fd.kprPwrStatWakesrc : Fld := ⟨4, 3⟩
def Fd.kprPwrStatWakeport : Fld := ⟨7, 2⟩
def Fd.kprPwrStatPgfail : Fld := ⟨9, 1⟩
def Fd.kprPwrStatPglost : Fld := ⟨10, 1⟩
def Fd.kprPwrStatRail : Fld := ⟨11, 3⟩
def Fd.kprPwrStatOvert : Fld := ⟨14, 1⟩
def Fd.kprPwrStatTripped : Fld := ⟨15, 1⟩
def Fd.kprPwrQgateGated : Fld := ⟨0, 32⟩
def Fd.kprPwrTempTemp : Fld := ⟨0, 12⟩
def Fd.kprPwrTempMax : Fld := ⟨12, 12⟩
def Fd.kprStrapRawCodes : Fld := ⟨0, 32⟩
def Fd.kprStrapEffCodes : Fld := ⟨0, 32⟩
def Fd.kprStrapUnstPin : Fld := ⟨0, 24⟩
def Fd.kprStrapRsvdPin : Fld := ⟨0, 24⟩
def Fd.kprStrapCondScanDone : Fld := ⟨0, 1⟩
def Fd.kprStrapCondNoLead : Fld := ⟨1, 1⟩
def Fd.kprStrapCondLeadMoved : Fld := ⟨2, 1⟩
def Fd.kprStrapCondPtpNoEth : Fld := ⟨3, 1⟩
def Fd.kprStrapCondKxtAbsent : Fld := ⟨4, 1⟩
def Fd.kprStrapCondOptDefault : Fld := ⟨5, 1⟩
def Fd.kprStrapCondDbgEff : Fld := ⟨8, 2⟩
def Fd.kprStrapCondLead : Fld := ⟨12, 2⟩
def Fd.kprWdgCtlEn : Fld := ⟨0, 1⟩
def Fd.kprWdgCtlDis : Fld := ⟨1, 1⟩
def Fd.kprWdgCtlLock : Fld := ⟨2, 1⟩
def Fd.kprWdgCtlClk : Fld := ⟨3, 1⟩
def Fd.kprWdgCtlClass : Fld := ⟨4, 2⟩
def Fd.kprWdgCtlState : Fld := ⟨6, 2⟩
def Fd.kprWdgCtlHt : Fld := ⟨8, 8⟩
def Fd.kprWdgKeyKey : Fld := ⟨0, 16⟩
def Fd.kprWdgOpenOpen : Fld := ⟨0, 32⟩
def Fd.kprWdgCloseClose : Fld := ⟨0, 32⟩
def Fd.kprWdgReqReq : Fld := ⟨0, 16⟩
def Fd.kprWdgChkChk : Fld := ⟨0, 16⟩
def Fd.kprWdgStatDone : Fld := ⟨0, 16⟩
def Fd.kprWdgStatCause : Fld := ⟨16, 2⟩
def Fd.kprWdgStatExpired : Fld := ⟨18, 1⟩
def Fd.kprWdgStatCfgerr : Fld := ⟨19, 1⟩
def Fd.kprWdgStatKeyerr : Fld := ⟨20, 1⟩
def Fd.kprWdgTT : Fld := ⟨0, 32⟩
def Fd.kprWdgDupDup : Fld := ⟨0, 16⟩
def Fd.kprWdgDupStray : Fld := ⟨16, 16⟩
def Fd.kprWdgRcntPrg : Fld := ⟨0, 16⟩
def Fd.kprWdgRcntGrd : Fld := ⟨16, 16⟩
def Fd.kprWdgRcnt2Kpr : Fld := ⟨0, 16⟩
def Fd.serCfgEn : Fld := ⟨0, 1⟩
def Fd.serCfgDbits : Fld := ⟨1, 1⟩
def Fd.serCfgPar : Fld := ⟨2, 2⟩
def Fd.serCfgStop2 : Fld := ⟨4, 1⟩
def Fd.serCfgFlow : Fld := ⟨5, 1⟩
def Fd.serCfgRs485 : Fld := ⟨6, 1⟩
def Fd.serCfgWake : Fld := ⟨7, 1⟩
def Fd.serCfgBrk : Fld := ⟨8, 1⟩
def Fd.serBaudDiv : Fld := ⟨0, 20⟩
def Fd.serDataItem : Fld := ⟨0, 12⟩
def Fd.serDataTx : Fld := ⟨0, 8⟩
def Fd.serDataEmpty : Fld := ⟨31, 1⟩
def Fd.serLvlRxlvl : Fld := ⟨0, 5⟩
def Fd.serLvlTxfree : Fld := ⟨8, 5⟩
def Fd.serLvlRxthr : Fld := ⟨16, 5⟩
def Fd.serLvlTxthr : Fld := ⟨24, 5⟩
def Fd.serFlowRtshi : Fld := ⟨0, 5⟩
def Fd.serFlowRtslo : Fld := ⟨8, 5⟩
def Fd.serFlowTout : Fld := ⟨16, 4⟩
def Fd.serFlowCts : Fld := ⟨20, 1⟩
def Fd.serFlowRts : Fld := ⟨21, 1⟩
def Fd.serStatRxirq : Fld := ⟨0, 1⟩
def Fd.serStatTxirq : Fld := ⟨1, 1⟩
def Fd.serStatToirq : Fld := ⟨2, 1⟩
def Fd.serStatBrkirq : Fld := ⟨3, 1⟩
def Fd.serStatHeld : Fld := ⟨4, 1⟩
def Fd.serStatWoke : Fld := ⟨5, 1⟩
def Fd.serStatOvr : Fld := ⟨8, 8⟩
def Fd.serStatTxovf : Fld := ⟨16, 8⟩
def Fd.serStatErrs : Fld := ⟨24, 8⟩
def Fd.flsCmdOp : Fld := ⟨0, 4⟩
def Fd.flsCmdGo : Fld := ⟨4, 1⟩
def Fd.flsCmdBusy : Fld := ⟨5, 1⟩
def Fd.flsCmdWaiting : Fld := ⟨6, 1⟩
def Fd.flsCmdDone : Fld := ⟨7, 1⟩
def Fd.flsCmdStatus : Fld := ⟨8, 4⟩
def Fd.flsAddrOffset : Fld := ⟨0, 26⟩
def Fd.flsAddrSlot : Fld := ⟨26, 2⟩
def Fd.flsSrcAddr : Fld := ⟨0, 32⟩
def Fd.flsStatBusy : Fld := ⟨0, 2⟩
def Fd.flsStatActive : Fld := ⟨2, 2⟩
def Fd.flsStatClaimch : Fld := ⟨4, 2⟩
def Fd.flsStatLevel : Fld := ⟨6, 2⟩
def Fd.flsStatLowering : Fld := ⟨8, 1⟩
def Fd.flsStatPendres : Fld := ⟨9, 1⟩
def Fd.flsStatRollback : Fld := ⟨10, 1⟩
def Fd.flsLowerKey : Fld := ⟨0, 16⟩
def Fd.flsLowerGo : Fld := ⟨16, 1⟩
def Fd.flsEcntCount : Fld := ⟨0, 16⟩
def Fd.flsEcntWorn : Fld := ⟨16, 1⟩
def Fd.tckCtlGoPrg : Fld := ⟨0, 1⟩
def Fd.tckCtlGoGrd : Fld := ⟨1, 1⟩
def Fd.tckCtlStopPrg : Fld := ⟨2, 1⟩
def Fd.tckCtlStopGrd : Fld := ⟨3, 1⟩
def Fd.tckCtlRun : Fld := ⟨4, 1⟩
def Fd.tckCtlRate : Fld := ⟨8, 4⟩
def Fd.tckSrcSel : Fld := ⟨0, 2⟩
def Fd.tckSrcActive : Fld := ⟨2, 2⟩
def Fd.tckSrcRdyWc : Fld := ⟨4, 1⟩
def Fd.tckSrcRdyPtp : Fld := ⟨5, 1⟩
def Fd.tckSrcHold : Fld := ⟨6, 1⟩
def Fd.tckSrcSlewing : Fld := ⟨7, 1⟩
def Fd.tckSrcErrNotready : Fld := ⟨8, 1⟩
def Fd.tckSrcErrRate : Fld := ⟨9, 1⟩
def Fd.tckSrcFailWc : Fld := ⟨10, 1⟩
def Fd.tckSrcFailPtp : Fld := ⟨11, 1⟩
def Fd.tckSrcWcBase : Fld := ⟨12, 1⟩
def Fd.tckSrcMediaValid : Fld := ⟨13, 1⟩
def Fd.tckLimitPull : Fld := ⟨0, 8⟩
def Fd.tckLimitSlew : Fld := ⟨8, 8⟩
def Fd.tckLimitBw : Fld := ⟨16, 2⟩
def Fd.tckOutTickEn : Fld := ⟨0, 1⟩
def Fd.tckOutTickSq : Fld := ⟨1, 1⟩
def Fd.tckOutWcEn : Fld := ⟨2, 1⟩
def Fd.tckOutWcBase : Fld := ⟨3, 1⟩
def Fd.tckCountLoCount : Fld := ⟨0, 32⟩
def Fd.tckCountHiCount : Fld := ⟨0, 32⟩
def Fd.tckInitLoInit : Fld := ⟨0, 32⟩
def Fd.tckInitHiInit : Fld := ⟨0, 32⟩
def Fd.tckPeriodLen : Fld := ⟨0, 16⟩
def Fd.tckPeriodResid : Fld := ⟨16, 9⟩
def Fd.tckPherrPherr : Fld := ⟨0, 32⟩
def Fd.tckSteerSteer : Fld := ⟨0, 16⟩
def Fd.tckMediaLoMedia : Fld := ⟨0, 32⟩
def Fd.tckMediaHiMedia : Fld := ⟨0, 32⟩
def Fd.spnSlotcfgType : Fld := ⟨0, 2⟩
def Fd.spnSlotcfgWorld : Fld := ⟨2, 1⟩
def Fd.spnSlotcfgXw : Fld := ⟨3, 1⟩
def Fd.spnSlotcfgOwner : Fld := ⟨8, 16⟩
def Fd.spnSlotcfgPend : Fld := ⟨24, 1⟩
def Fd.spnErrClaimed : Fld := ⟨0, 1⟩
def Fd.spnErrWorld : Fld := ⟨1, 1⟩
def Fd.spnErrRange : Fld := ⟨2, 1⟩
def Fd.spnErrMapdup : Fld := ⟨3, 1⟩
def Fd.spnErrSlot : Fld := ⟨16, 16⟩
def Fd.spnIconcCount : Fld := ⟨0, 16⟩
def Fd.spnIconcTick : Fld := ⟨16, 16⟩
def Fd.spnLinkL0Up : Fld := ⟨0, 1⟩
def Fd.spnLinkL1Up : Fld := ⟨1, 1⟩
def Fd.spnLinkL0Fail : Fld := ⟨2, 1⟩
def Fd.spnLinkL1Fail : Fld := ⟨3, 1⟩
def Fd.spnLinkL0Reen : Fld := ⟨4, 1⟩
def Fd.spnLinkL1Reen : Fld := ⟨5, 1⟩
def Fd.spnLinkErrcnt : Fld := ⟨8, 8⟩
def Fd.spnLinkLost : Fld := ⟨16, 8⟩
def Fd.spnConcFmt : Fld := ⟨0, 2⟩
def Fd.spnConcCnt : Fld := ⟨8, 5⟩
def Fd.spnConcLastc : Fld := ⟨13, 1⟩
def Fd.spnStsumTick : Fld := ⟨0, 16⟩
def Fd.spnStsumSeeds : Fld := ⟨16, 11⟩
def Fd.spnStsum2Aborts : Fld := ⟨0, 11⟩
def Fd.spnStsum2Steps : Fld := ⟨11, 4⟩
def Fd.spnStsum2Failed : Fld := ⟨15, 1⟩
def Fd.spnStseedTile : Fld := ⟨0, 32⟩
def Fd.spnStabtTile : Fld := ⟨0, 32⟩
def Fd.bdgTfolACyc : Fld := ⟨0, 16⟩
def Fd.bdgTfolAPis : Fld := ⟨16, 16⟩
def Fd.bdgTfolBPub : Fld := ⟨0, 16⟩
def Fd.bdgTfolBArc : Fld := ⟨16, 16⟩
def Fd.bdgTfolCAct : Fld := ⟨0, 6⟩
def Fd.bdgTevCycstop : Fld := ⟨0, 8⟩
def Fd.bdgTevPishold : Fld := ⟨8, 8⟩
def Fd.bdgTevPubhold : Fld := ⟨16, 8⟩
def Fd.bdgTevArchold : Fld := ⟨24, 8⟩
def Fd.bdgActGran : Fld := ⟨0, 20⟩
def Fd.bdgActuUsed : Fld := ⟨0, 20⟩
def Fd.bdgActuHcnt : Fld := ⟨20, 12⟩
def Fd.bdgGalHbytes : Fld := ⟨0, 16⟩
def Fd.bdgGalAct : Fld := ⟨16, 6⟩
def Fd.bdgGaluUsed : Fld := ⟨0, 16⟩
def Fd.bdgGaluHcnt : Fld := ⟨16, 16⟩
def Fd.bdgCurCtl : Fld := ⟨0, 16⟩
def Fd.bdgCurBulk : Fld := ⟨16, 16⟩
def Fd.bdgCuruUsed : Fld := ⟨0, 16⟩
def Fd.bdgCuruHcnt : Fld := ⟨16, 16⟩
def Fd.bdgCapMemcap : Fld := ⟨0, 20⟩
def Fd.bdgShareShare : Fld := ⟨0, 20⟩
def Fd.bdgSumSum : Fld := ⟨0, 20⟩
def Fd.bdgErrOvercommit : Fld := ⟨0, 1⟩
def Fd.bdgErrWorld : Fld := ⟨1, 1⟩
def Fd.bdgErrOffset : Fld := ⟨16, 16⟩
def Fd.bdgEvBudstop : Fld := ⟨0, 16⟩
def Fd.bdgEvBudcl : Fld := ⟨16, 16⟩
def Fd.bdgEv2Memhold : Fld := ⟨0, 16⟩
def Fd.qrcRelRel : Fld := ⟨0, 16⟩
def Fd.qrcStatRun : Fld := ⟨0, 16⟩
def Fd.qrcStatImg : Fld := ⟨16, 1⟩
def Fd.qrcStatPwr : Fld := ⟨17, 1⟩
def Fd.qrcStatNoReserve : Fld := ⟨18, 1⟩
def Fd.qrcStatLoading : Fld := ⟨19, 1⟩
def Fd.qrcStatRsvRun : Fld := ⟨20, 1⟩
def Fd.qrcHovrK : Fld := ⟨0, 4⟩
def Fd.qrcHovrGo : Fld := ⟨4, 1⟩
def Fd.qrcHovrLoadres : Fld := ⟨5, 1⟩
def Fd.qrcHovrArmed : Fld := ⟨6, 1⟩
def Fd.qrcHovrDone : Fld := ⟨7, 1⟩
def Fd.qrcHovrErr : Fld := ⟨8, 1⟩
def Fd.qrcTkovCount : Fld := ⟨0, 8⟩
def Fd.qrcTkovLast : Fld := ⟨8, 4⟩
def Fd.qrcTkovTick : Fld := ⟨16, 16⟩
def Fd.qrcMapIndex : Fld := ⟨0, 5⟩
def Fd.qrcMapImg : Fld := ⟨5, 5⟩
def Fd.qrcMapLed : Fld := ⟨10, 5⟩
def Fd.qrcPosRole : Fld := ⟨0, 5⟩
def Fd.qrcPosFailed : Fld := ⟨5, 1⟩
def Fd.qrcPosReadmit : Fld := ⟨6, 1⟩
def Fd.qrcPosTestFail : Fld := ⟨7, 1⟩
def Fd.qrcPosFailtick : Fld := ⟨16, 16⟩
def Fd.qrcSubLoSlot : Fld := ⟨0, 16⟩
def Fd.qrcSubLoFirm : Fld := ⟨28, 1⟩
def Fd.qrcSubLoValid : Fld := ⟨29, 1⟩
def Fd.qrcSubLoDup : Fld := ⟨30, 1⟩
def Fd.qrcSubLoInact : Fld := ⟨31, 1⟩
def Fd.qrcSubHiMask : Fld := ⟨0, 17⟩
def Fd.memCfgChans : Fld := ⟨0, 4⟩
def Fd.memCfgDens : Fld := ⟨4, 1⟩
def Fd.memCfgRate : Fld := ⟨5, 1⟩
def Fd.memCfgDupk : Fld := ⟨6, 4⟩
def Fd.memGchCount : Fld := ⟨0, 24⟩
def Fd.memGdupCount : Fld := ⟨0, 24⟩
def Fd.memDuptopAddr : Fld := ⟨0, 32⟩
def Fd.memTopAddr : Fld := ⟨0, 32⟩
def Fd.memErrClaimed : Fld := ⟨0, 1⟩
def Fd.memErrOverlap : Fld := ⟨1, 1⟩
def Fd.memErrRange : Fld := ⟨2, 1⟩
def Fd.memErrEntry : Fld := ⟨16, 6⟩
def Fd.memPclrGath : Fld := ⟨0, 32⟩
def Fd.memScrubIndex : Fld := ⟨0, 24⟩
def Fd.memScrubPasses : Fld := ⟨24, 8⟩
def Fd.memChState : Fld := ⟨0, 3⟩
def Fd.memChPd : Fld := ⟨3, 1⟩
def Fd.memChRetrainPrg : Fld := ⟨4, 1⟩
def Fd.memChRetrainGrd : Fld := ⟨5, 1⟩
def Fd.memChCause : Fld := ⟨6, 4⟩
def Fd.memChErrCorr : Fld := ⟨0, 16⟩
def Fd.memChErrUncorr : Fld := ⟨16, 8⟩
def Fd.memChRslvNext : Fld := ⟨0, 24⟩
def Fd.memRgnBaseAddr : Fld := ⟨0, 24⟩
def Fd.memRgnLimAddr : Fld := ⟨0, 24⟩
def Fd.memRgnAttrType : Fld := ⟨0, 2⟩
def Fd.memRgnAttrWorld : Fld := ⟨2, 1⟩
def Fd.memRgnAttrDuplex : Fld := ⟨3, 1⟩
def Fd.memRgnAttrZeroing : Fld := ⟨4, 1⟩
def Fd.memRgnAttrPend : Fld := ⟨5, 1⟩
def Fd.memRgnSrcOffset : Fld := ⟨0, 25⟩
def Fd.cvsCtlEn : Fld := ⟨0, 1⟩
def Fd.cvsCtlMode : Fld := ⟨1, 1⟩
def Fd.cvsCtlPoly : Fld := ⟨2, 1⟩
def Fd.cvsCtlRepeat : Fld := ⟨3, 1⟩
def Fd.cvsCtlBsize : Fld := ⟨4, 4⟩
def Fd.cvsCtlAct : Fld := ⟨8, 6⟩
def Fd.cvsCtlRelease : Fld := ⟨14, 1⟩
def Fd.cvsCtlBusy : Fld := ⟨15, 1⟩
def Fd.cvsCtlWorld : Fld := ⟨16, 1⟩
def Fd.cvsCtlClaimed : Fld := ⟨17, 1⟩
def Fd.cvsStartAddr : Fld := ⟨0, 32⟩
def Fd.cvsLenBlocks : Fld := ⟨0, 24⟩
def Fd.cvsExpAddr : Fld := ⟨0, 32⟩
def Fd.cvsSeqSeq : Fld := ⟨0, 32⟩
def Fd.cvsRateGran : Fld := ⟨0, 16⟩
def Fd.cvsStatDone : Fld := ⟨0, 1⟩
def Fd.cvsStatMismatch : Fld := ⟨1, 1⟩
def Fd.cvsStatUnc : Fld := ⟨2, 1⟩
def Fd.cvsStatFault : Fld := ⟨3, 1⟩
def Fd.cvsStatPasses : Fld := ⟨16, 16⟩
def Fd.cvsFirstBlock : Fld := ⟨0, 24⟩
def Fd.cvsCntCount : Fld := ⟨0, 16⟩
def Fd.cvsQstatPsmis : Fld := ⟨0, 8⟩
def Fd.cvsQstatImgmis : Fld := ⟨8, 8⟩
def Fd.cvsQstatPasses : Fld := ⟨16, 16⟩
def Fd.mdxCfgEn : Fld := ⟨0, 1⟩
def Fd.mdxCfgLoop : Fld := ⟨1, 1⟩
def Fd.mdxCfgTxnch : Fld := ⟨4, 9⟩
def Fd.mdxCfgEvw : Fld := ⟨13, 1⟩
def Fd.mdxStatState : Fld := ⟨0, 3⟩
def Fd.mdxStatLos : Fld := ⟨3, 1⟩
def Fd.mdxStatPaired : Fld := ⟨4, 1⟩
def Fd.mdxStatPairup : Fld := ⟨5, 1⟩
def Fd.mdxStatLasttick : Fld := ⟨16, 16⟩
def Fd.mdxErrBad : Fld := ⟨0, 8⟩
def Fd.mdxErrLate : Fld := ⟨8, 8⟩
def Fd.mdxErrWtick : Fld := ⟨16, 8⟩
def Fd.mdxErrLoscnt : Fld := ⟨24, 8⟩
def Fd.mdxErr2Blkloss : Fld := ⟨0, 8⟩
def Fd.mdxErr2Downs : Fld := ⟨8, 8⟩
def Fd.mdxErr2Rej : Fld := ⟨16, 8⟩
def Fd.mdxEvqEvent : Fld := ⟨0, 32⟩
def Fd.mdxEvstatLevel : Fld := ⟨0, 7⟩
def Fd.mdxEvstatThresh : Fld := ⟨8, 7⟩
def Fd.mdxEvstatEvirq : Fld := ⟨15, 1⟩
def Fd.mdxEvstatOvf : Fld := ⟨16, 8⟩
def Fd.mdxTxctlnN : Fld := ⟨0, 7⟩
def Fd.mdxTxctlData : Fld := ⟨0, 32⟩
def Fd.mdxTxchSlot : Fld := ⟨0, 16⟩
def Fd.mdxTxchEn : Fld := ⟨16, 1⟩
def Fd.mdxTxchFmt : Fld := ⟨17, 1⟩
def Fd.mdxTxchWorld : Fld := ⟨18, 1⟩
def Fd.mdxTxchClaimed : Fld := ⟨19, 1⟩
def Fd.tdmCfgFormat : Fld := ⟨0, 2⟩
def Fd.tdmCfgSlots : Fld := ⟨2, 5⟩
def Fd.tdmCfgDwidth : Fld := ⟨7, 2⟩
def Fd.tdmCfgDelay : Fld := ⟨9, 1⟩
def Fd.tdmCfgBpol : Fld := ⟨10, 1⟩
def Fd.tdmCfgFspol : Fld := ⟨11, 1⟩
def Fd.tdmCfgEn : Fld := ⟨12, 1⟩
def Fd.tdmCfgMaster : Fld := ⟨13, 1⟩
def Fd.tdmStatClkok : Fld := ⟨0, 1⟩
def Fd.tdmStatSlip : Fld := ⟨8, 8⟩
def Fd.tdmStatMiss : Fld := ⟨16, 8⟩
def Fd.tdmStatRej : Fld := ⟨24, 8⟩
def Fd.tdmTxslotSlot : Fld := ⟨0, 16⟩
def Fd.tdmTxslotEn : Fld := ⟨16, 1⟩
def Fd.tdmTxslotFmt : Fld := ⟨17, 1⟩
def Fd.tdmTxslotWorld : Fld := ⟨18, 1⟩
def Fd.tdmTxslotClaimed : Fld := ⟨19, 1⟩
def Fd.ethCfgFec : Fld := ⟨0, 1⟩
def Fd.ethCfgEn : Fld := ⟨1, 2⟩
def Fd.ethCfgVid : Fld := ⟨4, 12⟩
def Fd.ethCfgVlan : Fld := ⟨16, 1⟩
def Fd.ethCfgPcp : Fld := ⟨17, 3⟩
def Fd.ethCfgDscp : Fld := ⟨20, 6⟩
def Fd.ethMacLoMac : Fld := ⟨0, 32⟩
def Fd.ethMacHiMac : Fld := ⟨0, 16⟩
def Fd.ethIpAddr : Fld := ⟨0, 32⟩
def Fd.ethPortstatLink : Fld := ⟨0, 1⟩
def Fd.ethPortstatMode : Fld := ⟨1, 2⟩
def Fd.ethPortstatPause : Fld := ⟨8, 8⟩
def Fd.ethPortstatDrop : Fld := ⟨16, 8⟩
def Fd.ethPortstatFcserr : Fld := ⟨24, 8⟩
def Fd.ethPtpcfgPort : Fld := ⟨0, 1⟩
def Fd.ethPtpcfgOnestep : Fld := ⟨1, 1⟩
def Fd.ethPtpcfgPrio1 : Fld := ⟨2, 8⟩
def Fd.ethPtpcfgPrio2 : Fld := ⟨10, 8⟩
def Fd.ethPtpcfgLogsync : Fld := ⟨18, 4⟩
def Fd.ethPtpcfgLogann : Fld := ⟨22, 4⟩
def Fd.ethPtpcfgSlaveonly : Fld := ⟨26, 1⟩
def Fd.ethPtpstatState : Fld := ⟨0, 2⟩
def Fd.ethPtpstatLocked : Fld := ⟨2, 1⟩
def Fd.ethPtpstatLosses : Fld := ⟨8, 8⟩
def Fd.ethPtpofsOffset : Fld := ⟨0, 32⟩
def Fd.ethErrRefuse : Fld := ⟨0, 5⟩
def Fd.ethErrStream : Fld := ⟨16, 7⟩
def Fd.ethRxsAddrDest : Fld := ⟨0, 32⟩
def Fd.ethRxsCfgUdp : Fld := ⟨0, 16⟩
def Fd.ethRxsCfgPt : Fld := ⟨16, 7⟩
def Fd.ethRxsCfgFmt : Fld := ⟨23, 1⟩
def Fd.ethRxsCfgPtime : Fld := ⟨24, 2⟩
def Fd.ethRxsCfgPort : Fld := ⟨26, 1⟩
def Fd.ethRxsCfgEn : Fld := ⟨27, 1⟩
def Fd.ethRxsMapNch : Fld := ⟨0, 7⟩
def Fd.ethRxsMapBase : Fld := ⟨8, 9⟩
def Fd.ethRxsMapOffset : Fld := ⟨17, 9⟩
def Fd.ethRxsCntLate : Fld := ⟨0, 16⟩
def Fd.ethRxsCntMiss : Fld := ⟨16, 16⟩
def Fd.ethTxsAddrDest : Fld := ⟨0, 32⟩
def Fd.ethTxsCfgUdp : Fld := ⟨0, 16⟩
def Fd.ethTxsCfgPt : Fld := ⟨16, 7⟩
def Fd.ethTxsCfgFmt : Fld := ⟨23, 1⟩
def Fd.ethTxsCfgPtime : Fld := ⟨24, 2⟩
def Fd.ethTxsCfgPort : Fld := ⟨26, 1⟩
def Fd.ethTxsCfgEn : Fld := ⟨27, 1⟩
def Fd.ethTxsMapNch : Fld := ⟨0, 7⟩
def Fd.ethTxsMapBase : Fld := ⟨8, 9⟩
def Fd.ethTxsMapOffset : Fld := ⟨17, 9⟩
def Fd.ethTxsCntRej : Fld := ⟨0, 16⟩
def Fd.ethTxsCntMiss : Fld := ⟨16, 16⟩
def Fd.ethTxchSlot : Fld := ⟨0, 16⟩
def Fd.ethTxchEn : Fld := ⟨16, 1⟩
def Fd.ethTxchFmt : Fld := ⟨17, 1⟩
def Fd.ethTxchWorld : Fld := ⟨18, 1⟩
def Fd.ethTxchClaimed : Fld := ⟨19, 1⟩
def Fd.ethCrxLevel : Fld := ⟨0, 6⟩
def Fd.ethCrxLen : Fld := ⟨16, 11⟩
def Fd.ethCrxPop : Fld := ⟨27, 1⟩
def Fd.ethCtxLen : Fld := ⟨0, 11⟩
def Fd.ethCtxSend : Fld := ⟨11, 1⟩
def Fd.ethCtxFull : Fld := ⟨12, 1⟩
def Fd.pnlCfgMode : Fld := ⟨0, 3⟩
def Fd.pnlCfgPol : Fld := ⟨3, 1⟩
def Fd.pnlCfgDeb : Fld := ⟨4, 6⟩
def Fd.pnlCfgHoldt : Fld := ⟨10, 4⟩
def Fd.pnlCfgWorld : Fld := ⟨14, 1⟩
def Fd.pnlCfgClaimed : Fld := ⟨15, 1⟩
def Fd.pnlCfgOut : Fld := ⟨16, 1⟩
def Fd.pnlCfgIn : Fld := ⟨17, 1⟩
def Fd.pnlCfgDuty : Fld := ⟨24, 8⟩
def Fd.pnlTchBase : Fld := ⟨0, 12⟩
def Fd.pnlTchHyst : Fld := ⟨12, 4⟩
def Fd.pnlTchCount : Fld := ⟨16, 12⟩
def Fd.pnlTchOvr : Fld := ⟨28, 1⟩
def Fd.pnlEvqEvent : Fld := ⟨0, 32⟩
def Fd.pnlEvstatLevel : Fld := ⟨0, 6⟩
def Fd.pnlEvstatThresh : Fld := ⟨8, 6⟩
def Fd.pnlEvstatEvirq : Fld := ⟨15, 1⟩
def Fd.pnlEvstatOvf : Fld := ⟨16, 8⟩
def Fd.pnlErrClaimed : Fld := ⟨0, 1⟩
def Fd.pnlErrWorld : Fld := ⟨1, 1⟩
def Fd.pnlErrPair : Fld := ⟨2, 1⟩
def Fd.pnlErrLinked : Fld := ⟨3, 1⟩
def Fd.pnlErrPin : Fld := ⟨16, 5⟩
def Fd.egrGrpCode : Fld := ⟨0, 4⟩
def Fd.egrGrpEar : Fld := ⟨4, 1⟩
def Fd.egrGrpPinhush : Fld := ⟨5, 1⟩
def Fd.egrGrpShush : Fld := ⟨6, 1⟩
def Fd.egrGrpHushed : Fld := ⟨7, 1⟩
def Fd.egrGainGain : Fld := ⟨0, 25⟩
def Fd.egrJgainGain : Fld := ⟨0, 25⟩
def Fd.egrJackSrc : Fld := ⟨0, 2⟩
def Fd.egrJackPin : Fld := ⟨2, 5⟩
def Fd.egrJackPort : Fld := ⟨7, 2⟩
def Fd.egrJackPack : Fld := ⟨9, 4⟩
def Fd.egrJackPlugged : Fld := ⟨13, 1⟩
def Fd.egrJackSettled : Fld := ⟨14, 1⟩
def Fd.egrCntClamps : Fld := ⟨0, 16⟩
def Fd.egrPinsRaw : Fld := ⟨0, 4⟩
def Fd.egrPinsFilt : Fld := ⟨4, 4⟩
def Fd.egrErrClaimed : Fld := ⟨0, 1⟩
def Fd.hstStatRole : Fld := ⟨0, 2⟩
def Fd.hstStatLink : Fld := ⟨2, 1⟩
def Fd.hstStatSpeed : Fld := ⟨3, 3⟩
def Fd.hstStatWidth : Fld := ⟨6, 3⟩
def Fd.hstStatDown : Fld := ⟨9, 1⟩
def Fd.hstStatLinkdowns : Fld := ⟨16, 8⟩
def Fd.hstWinBase : Fld := ⟨0, 14⟩
def Fd.hstWinPlaced : Fld := ⟨14, 1⟩
def Fd.hstStgRgn : Fld := ⟨0, 6⟩
def Fd.hstStgOpen : Fld := ⟨6, 1⟩
def Fd.hstStgArch : Fld := ⟨7, 1⟩
def Fd.hstNoteVec : Fld := ⟨0, 4⟩
def Fd.hstErrWindrop : Fld := ⟨0, 8⟩
def Fd.hstErrMergedrop : Fld := ⟨8, 8⟩
def Fd.hstErrHdrdrop : Fld := ⟨16, 8⟩
def Fd.hstErrStgdrop : Fld := ⟨24, 8⟩
def Fd.hstErr2Stgref : Fld := ⟨0, 1⟩
def Fd.hstErr2Winref : Fld := ⟨1, 1⟩
def Fd.hstRingEn : Fld := ⟨0, 1⟩
def Fd.hstRingDir : Fld := ⟨1, 1⟩
def Fd.hstRingLogn : Fld := ⟨2, 5⟩
def Fd.hstRingLogs : Fld := ⟨7, 3⟩
def Fd.hstRingBase : Fld := ⟨10, 14⟩
def Fd.hstRingVec : Fld := ⟨24, 4⟩
def Fd.hstRingNmode : Fld := ⟨28, 2⟩
def Fd.hstRstatLost : Fld := ⟨0, 16⟩
def Fd.hstRstatPerr : Fld := ⟨16, 8⟩
def Fd.hstRstatDerr : Fld := ⟨24, 8⟩
def Fd.truBootStage : Fld := ⟨0, 3⟩
def Fd.truBootVerified : Fld := ⟨3, 1⟩
def Fd.truBootUnverified : Fld := ⟨4, 1⟩
def Fd.truBootFastwake : Fld := ⟨5, 1⟩
def Fd.truBootSource : Fld := ⟨6, 2⟩
def Fd.truBootFailcode : Fld := ⟨8, 4⟩
def Fd.truBootFailsec : Fld := ⟨12, 8⟩
def Fd.truBootSlot : Fld := ⟨20, 2⟩
def Fd.truBootKpatch : Fld := ⟨22, 1⟩
def Fd.truBootIdbad : Fld := ⟨23, 1⟩
def Fd.truAccAccession : Fld := ⟨0, 32⟩
def Fd.truColdigDigest : Fld := ⟨0, 32⟩
def Fd.truCmdOp : Fld := ⟨0, 4⟩
def Fd.truCmdGo : Fld := ⟨4, 1⟩
def Fd.truCmdBusy : Fld := ⟨5, 1⟩
def Fd.truCmdStatus : Fld := ⟨8, 4⟩
def Fd.truCmdPurpose : Fld := ⟨16, 8⟩
def Fd.truHdlHandle : Fld := ⟨0, 16⟩
def Fd.truArgArg : Fld := ⟨0, 32⟩
def Fd.truSrcAddr : Fld := ⟨0, 32⟩
def Fd.truDstAddr : Fld := ⟨0, 32⟩
def Fd.truLenLen : Fld := ⟨0, 25⟩
def Fd.truFusectlAddr : Fld := ⟨0, 9⟩
def Fd.truFusectlData : Fld := ⟨16, 8⟩
def Fd.truFusectlGo : Fld := ⟨24, 1⟩
def Fd.truFusectlBusy : Fld := ⟨25, 1⟩
def Fd.truFusectlRefused : Fld := ⟨26, 1⟩
def Fd.truLiveOp : Fld := ⟨0, 3⟩
def Fd.truLiveSrc : Fld := ⟨3, 2⟩
def Fd.truLiveQuire : Fld := ⟨5, 6⟩
def Fd.truLiveK : Fld := ⟨11, 5⟩
def Fd.truLiveGo : Fld := ⟨16, 1⟩
def Fd.truLiveBusy : Fld := ⟨17, 1⟩
def Fd.truLiveStatus : Fld := ⟨18, 4⟩
def Fd.truLivePhase : Fld := ⟨22, 3⟩
def Fd.truLiveCurdone : Fld := ⟨25, 1⟩
def Fd.truLiveqLoDone : Fld := ⟨0, 32⟩
def Fd.truLiveqHiDone : Fld := ⟨0, 32⟩
def Fd.truLiveaccAccession : Fld := ⟨0, 32⟩
def Fd.curWcfgRachk : Fld := ⟨0, 1⟩
def Fd.curMsgTile : Fld := ⟨0, 10⟩
def Fd.curMsgSend : Fld := ⟨16, 1⟩
def Fd.curMsgBusy : Fld := ⟨17, 1⟩
def Fd.curMsgDropped : Fld := ⟨18, 1⟩
def Fd.curMsgdData : Fld := ⟨0, 32⟩
def Fd.curNmeEvent : Fld := ⟨0, 5⟩
def Fd.curIrqTile : Fld := ⟨0, 1⟩
def Fd.curIrqSpine : Fld := ⟨1, 1⟩
def Fd.curIrqTick : Fld := ⟨2, 1⟩
def Fd.curIrqMem : Fld := ⟨3, 1⟩
def Fd.curIrqPort : Fld := ⟨4, 1⟩
def Fd.curIrqHost : Fld := ⟨5, 1⟩
def Fd.curIrqSerpnl : Fld := ⟨6, 1⟩
def Fd.curIrqKeeper : Fld := ⟨7, 1⟩
def Fd.curIrqenEn : Fld := ⟨0, 8⟩
def Fd.curStatHalted : Fld := ⟨0, 1⟩
def Fd.curConcCticks : Fld := ⟨0, 16⟩
def Fd.curConcRun : Fld := ⟨16, 8⟩
def Fd.curFlushFlush : Fld := ⟨0, 1⟩
def Fd.curFcntCount : Fld := ⟨0, 16⟩
def Fd.curFcntTick : Fld := ⟨16, 16⟩
def Fd.curElogPend : Fld := ⟨0, 9⟩
def Fd.curElogLost : Fld := ⟨16, 16⟩

/-- The control-space address of a register (R19 and the register tables). -/
def Creg.addr : Creg → Nat
  | .kprClkStat => 0xF00000000
  | .kprClkFail w => 0xF00000004 + 0x4 * w
  | .kprClkSel => 0xF00000010
  | .kprClkRefcnt => 0xF00000020
  | .kprClkKxtcnt => 0xF00000024
  | .kprRstCtl => 0xF00010000
  | .kprRstReq k => 0xF00010010 + 0x4 * k
  | .kprRstPend k => 0xF00010020 + 0x4 * k
  | .kprRstErr w => 0xF00010030 + 0x4 * w
  | .kprRstDrop => 0xF00010040
  | .kprRstCause => 0xF00010050
  | .kprRstAssert => 0xF00010060
  | .kprPwrReq => 0xF00020000
  | .kprPwrWake => 0xF00020004
  | .kprPwrTmr => 0xF00020008
  | .kprPwrStat => 0xF00020010
  | .kprPwrQgate k => 0xF00020020 + 0x4 * k
  | .kprPwrTemp s => 0xF00020040 + 0x4 * s
  | .kprStrapRaw k => 0xF00030000 + 0x4 * k
  | .kprStrapEff k => 0xF00030010 + 0x4 * k
  | .kprStrapUnst => 0xF00030020
  | .kprStrapRsvd => 0xF00030024
  | .kprStrapCond => 0xF00030028
  | .kprWdgCtl w => 0xF00040000 + 0x100 * w
  | .kprWdgKey w => 0xF00040004 + 0x100 * w
  | .kprWdgOpen w => 0xF00040008 + 0x100 * w
  | .kprWdgClose w => 0xF0004000C + 0x100 * w
  | .kprWdgReq w => 0xF00040010 + 0x100 * w
  | .kprWdgChk w => 0xF00040014 + 0x100 * w
  | .kprWdgStat w => 0xF00040018 + 0x100 * w
  | .kprWdgT w => 0xF0004001C + 0x100 * w
  | .kprWdgDup w => 0xF00040020 + 0x100 * w
  | .kprWdgRcnt => 0xF00040400
  | .kprWdgRcnt2 => 0xF00040404
  | .serCfg n => 0xF00060000 + 0x1000 * n
  | .serBaud n => 0xF00060004 + 0x1000 * n
  | .serData n => 0xF00060008 + 0x1000 * n
  | .serLvl n => 0xF0006000C + 0x1000 * n
  | .serFlow n => 0xF00060010 + 0x1000 * n
  | .serStat n => 0xF00060014 + 0x1000 * n
  | .flsCmd c => 0xF00070000 + 0x20 * c
  | .flsAddr c => 0xF00070004 + 0x20 * c
  | .flsSrc c => 0xF00070008 + 0x20 * c
  | .flsStat => 0xF00070100
  | .flsLower => 0xF00070200
  | .flsEcnt b => 0xF00071000 + 0x4 * b
  | .tckCtl => 0xF01000000
  | .tckSrc => 0xF01000004
  | .tckLimit => 0xF01000008
  | .tckOut => 0xF0100000C
  | .tckCountLo => 0xF01000010
  | .tckCountHi => 0xF01000014
  | .tckInitLo => 0xF01000018
  | .tckInitHi => 0xF0100001C
  | .tckPeriod => 0xF01000020
  | .tckPherr => 0xF01000024
  | .tckSteer => 0xF01000028
  | .tckMediaLo => 0xF01000030
  | .tckMediaHi => 0xF01000034
  | .spnSlotcfg s => 0xF01100000 + 0x4 * s
  | .spnErr w => 0xF01140000 + 0x4 * w
  | .spnIconc => 0xF01140008
  | .spnLink q => 0xF01140100 + 0x4 * q
  | .spnConc s => 0xF01180000 + 0x4 * s
  | .spnStsum => 0xF011F0000
  | .spnStsum2 => 0xF011F0004
  | .spnStseed k => 0xF011F0100 + 0x4 * k
  | .spnStabt k => 0xF011F0200 + 0x4 * k
  | .bdgTfolA i => 0xF01200000 + 0x10 * i
  | .bdgTfolB i => 0xF01200004 + 0x10 * i
  | .bdgTfolC i => 0xF01200008 + 0x10 * i
  | .bdgTev i => 0xF0120000C + 0x10 * i
  | .bdgAct a => 0xF01208000 + 0x8 * a
  | .bdgActu a => 0xF01208004 + 0x8 * a
  | .bdgGal h => 0xF01209000 + 0x10 * h
  | .bdgGalu h => 0xF01209004 + 0x10 * h
  | .bdgCur w => 0xF0120A000 + 0x10 * w
  | .bdgCuru w => 0xF0120A004 + 0x10 * w
  | .bdgCap => 0xF0120B000
  | .bdgShare w => 0xF0120B008 + 0x8 * w
  | .bdgSum w => 0xF0120B00C + 0x8 * w
  | .bdgErr w => 0xF0120B020 + 0x4 * w
  | .bdgEv w => 0xF0120B040 + 0x8 * w
  | .bdgEv2 w => 0xF0120B044 + 0x8 * w
  | .qrcRel q => 0xF02000000 + 0x10000 * q
  | .qrcStat q => 0xF02000004 + 0x10000 * q
  | .qrcHovr q => 0xF02000010 + 0x10000 * q
  | .qrcTkov q => 0xF02000018 + 0x10000 * q
  | .qrcMap q => 0xF02000200 + 0x10000 * q
  | .qrcPos q j => 0xF02000100 + 0x10000 * q + 0x4 * j
  | .qrcSubLo q j => 0xF02008000 + 0x10000 * q + 0x8 * j
  | .qrcSubHi q j => 0xF02008004 + 0x10000 * q + 0x8 * j
  | .memCfg => 0xF03000000
  | .memGch => 0xF03000004
  | .memGdup => 0xF03000008
  | .memDuptop => 0xF03000010
  | .memTop => 0xF03000014
  | .memErr w => 0xF03000040 + 0x4 * w
  | .memPclr w => 0xF03000050 + 0x4 * w
  | .memScrub => 0xF03000060
  | .memCh c => 0xF03000100 + 0x10 * c
  | .memChErr c => 0xF03000104 + 0x10 * c
  | .memChRslv c => 0xF03000108 + 0x10 * c
  | .memRgnBase r => 0xF03001000 + 0x10 * r
  | .memRgnLim r => 0xF03001004 + 0x10 * r
  | .memRgnAttr r => 0xF03001008 + 0x10 * r
  | .memRgnSrc r => 0xF0300100C + 0x10 * r
  | .cvsCtl e => 0xF03100000 + 0x40 * e
  | .cvsStart e => 0xF03100004 + 0x40 * e
  | .cvsLen e => 0xF03100008 + 0x40 * e
  | .cvsExp e => 0xF0310000C + 0x40 * e
  | .cvsSeq e => 0xF03100010 + 0x40 * e
  | .cvsRate e => 0xF03100014 + 0x40 * e
  | .cvsStat e => 0xF03100018 + 0x40 * e
  | .cvsFirst e => 0xF0310001C + 0x40 * e
  | .cvsCnt e => 0xF03100020 + 0x40 * e
  | .cvsQstat q => 0xF03101000 + 0x4 * q
  | .mdxCfg p => 0xF04000000 + 0x10000 * p
  | .mdxStat p => 0xF04000004 + 0x10000 * p
  | .mdxErr p => 0xF04000008 + 0x10000 * p
  | .mdxErr2 p => 0xF0400000C + 0x10000 * p
  | .mdxEvq p => 0xF04000010 + 0x10000 * p
  | .mdxEvstat p => 0xF04000014 + 0x10000 * p
  | .mdxTxctln p => 0xF04000140 + 0x10000 * p
  | .mdxTxctl p i => 0xF04000100 + 0x10000 * p + 0x4 * i
  | .mdxTxch p c => 0xF04001000 + 0x10000 * p + 0x4 * c
  | .tdmCfg t => 0xF05000000 + 0x1000 * t
  | .tdmStat t => 0xF05000004 + 0x1000 * t
  | .tdmTxslot t i => 0xF05000100 + 0x1000 * t + 0x4 * i
  | .ethCfg => 0xF05100000
  | .ethMacLo e => 0xF05100010 + 0x8 * e
  | .ethMacHi e => 0xF05100014 + 0x8 * e
  | .ethIp e => 0xF05100020 + 0x4 * e
  | .ethPortstat e => 0xF05100030 + 0x4 * e
  | .ethPtpcfg => 0xF05100040
  | .ethPtpstat => 0xF05100044
  | .ethPtpofs => 0xF05100048
  | .ethErr => 0xF05100060
  | .ethRxsAddr s => 0xF05101000 + 0x10 * s
  | .ethRxsCfg s => 0xF05101004 + 0x10 * s
  | .ethRxsMap s => 0xF05101008 + 0x10 * s
  | .ethRxsCnt s => 0xF0510100C + 0x10 * s
  | .ethTxsAddr s => 0xF05102000 + 0x10 * s
  | .ethTxsCfg s => 0xF05102004 + 0x10 * s
  | .ethTxsMap s => 0xF05102008 + 0x10 * s
  | .ethTxsCnt s => 0xF0510200C + 0x10 * s
  | .ethTxch e c => 0xF05104000 + 0x800 * e + 0x4 * c
  | .ethCrx e => 0xF05108000 + 0x1000 * e
  | .ethCtx e => 0xF0510A000 + 0x1000 * e
  | .pnlCfg k => 0xF05200000 + 0x4 * k
  | .pnlTch j => 0xF05200100 + 0x4 * j
  | .pnlEvq w => 0xF05200300 + 0x8 * w
  | .pnlEvstat w => 0xF05200304 + 0x8 * w
  | .pnlErr w => 0xF05200320 + 0x4 * w
  | .egrGrp g => 0xF05300000 + 0x20 * g
  | .egrGain g => 0xF05300004 + 0x20 * g
  | .egrJgain g => 0xF05300008 + 0x20 * g
  | .egrJack g => 0xF0530000C + 0x20 * g
  | .egrCnt g => 0xF05300010 + 0x20 * g
  | .egrPins => 0xF05300100
  | .egrErr => 0xF05300104
  | .hstStat h => 0xF06000000 + 0x10000 * h
  | .hstWin h => 0xF06000004 + 0x10000 * h
  | .hstStg h => 0xF06000008 + 0x10000 * h
  | .hstNote h => 0xF0600000C + 0x10000 * h
  | .hstErr h => 0xF06000010 + 0x10000 * h
  | .hstErr2 h => 0xF06000014 + 0x10000 * h
  | .hstRing h r => 0xF06000100 + 0x10000 * h + 0x8 * r
  | .hstRstat h r => 0xF06000104 + 0x10000 * h + 0x8 * r
  | .truBoot => 0xF07000000
  | .truAcc k => 0xF07000004 + 0x4 * k
  | .truColdig k => 0xF07000020 + 0x4 * k
  | .truCmd w => 0xF07001000 + 0x100 * w
  | .truHdl w => 0xF07001004 + 0x100 * w
  | .truArg w => 0xF07001008 + 0x100 * w
  | .truSrc w => 0xF0700100C + 0x100 * w
  | .truDst w => 0xF07001010 + 0x100 * w
  | .truLen w => 0xF07001014 + 0x100 * w
  | .truFusectl => 0xF07002000
  | .truLive w => 0xF07003000 + 0x100 * w
  | .truLiveqLo w => 0xF07003004 + 0x100 * w
  | .truLiveqHi w => 0xF07003008 + 0x100 * w
  | .truLiveacc w => 0xF0700300C + 0x100 * w
  | .curWcfg w => 0xF08000000 + 0x1000 * w
  | .curMsg w => 0xF08000004 + 0x1000 * w
  | .curMsgd w => 0xF08000008 + 0x1000 * w
  | .curNme w => 0xF08000010 + 0x1000 * w
  | .curIrq w => 0xF08000014 + 0x1000 * w
  | .curIrqen w => 0xF08000018 + 0x1000 * w
  | .curStat w => 0xF08000020 + 0x1000 * w
  | .curConc w => 0xF08000040 + 0x1000 * w
  | .curFlush w => 0xF08000044 + 0x1000 * w
  | .curFcnt w c => 0xF08000100 + 0x1000 * w + 0x4 * c
  | .curElog => 0xF08002000

/-- The fields of a register: access, reset value and owner (R4, R5). Bits that no field covers are reserved and read 0. DESIGN CHOICE: assumption 2. -/
def Creg.fields : Creg → List FieldD
  | .kprClkStat =>
    [⟨Fd.kprClkStatKrcRdy, .ro, 0, .reg⟩, ⟨Fd.kprClkStatRefclkRdy, .ro, 0, .reg⟩, ⟨Fd.kprClkStatKxtRdy, .ro, 0, .reg⟩, ⟨Fd.kprClkStatCpllLock, .ro, 0, .reg⟩, ⟨Fd.kprClkStatApll0Lock, .ro, 0, .reg⟩, ⟨Fd.kprClkStatApll1Lock, .ro, 0, .reg⟩, ⟨Fd.kprClkStatGpllLock, .ro, 0, .reg⟩, ⟨Fd.kprClkStatSdsMdx, .ro, 0, .reg⟩, ⟨Fd.kprClkStatSdsEth, .ro, 0, .reg⟩, ⟨Fd.kprClkStatSdsHst, .ro, 0, .reg⟩, ⟨Fd.kprClkStatRefActive, .ro, 0, .reg⟩, ⟨Fd.kprClkStatSwitching, .ro, 0, .reg⟩]
  | .kprClkFail _ =>
    [⟨Fd.kprClkFailRefclkFail, .w1c, 0, .reg⟩, ⟨Fd.kprClkFailKxtFail, .w1c, 0, .reg⟩, ⟨Fd.kprClkFailApll0Fail, .w1c, 0, .reg⟩, ⟨Fd.kprClkFailApll1Fail, .w1c, 0, .reg⟩, ⟨Fd.kprClkFailSdsFail, .w1c, 0, .reg⟩]
  | .kprClkSel =>
    [⟨Fd.kprClkSelRefsel, .rw, 0, .prg⟩, ⟨Fd.kprClkSelErrNotready, .w1c, 0, .prg⟩]
  | .kprClkRefcnt =>
    [⟨Fd.kprClkRefcntCount, .ro, 0, .reg⟩]
  | .kprClkKxtcnt =>
    [⟨Fd.kprClkKxtcntCount, .ro, 0, .reg⟩]
  | .kprRstCtl =>
    [⟨Fd.kprRstCtlTimeout, .rw, 10, .kpr⟩]
  | .kprRstReq _ =>
    [⟨Fd.kprRstReqReq, .rw, 0, .reg⟩]
  | .kprRstPend _ =>
    [⟨Fd.kprRstPendPend, .ro, 0, .reg⟩]
  | .kprRstErr _ =>
    [⟨Fd.kprRstErrRefused, .w1c, 0, .reg⟩, ⟨Fd.kprRstErrBlock, .ro, 0, .reg⟩]
  | .kprRstDrop =>
    [⟨Fd.kprRstDropCount, .ro, 0, .reg⟩, ⟨Fd.kprRstDropBlock, .ro, 0, .reg⟩]
  | .kprRstCause =>
    [⟨Fd.kprRstCausePor, .ro, 1, .reg⟩, ⟨Fd.kprRstCausePin, .ro, 0, .reg⟩, ⟨Fd.kprRstCauseWdgPrg, .ro, 0, .reg⟩, ⟨Fd.kprRstCauseWdgGrd, .ro, 0, .reg⟩, ⟨Fd.kprRstCauseWdgKpr, .ro, 0, .reg⟩, ⟨Fd.kprRstCauseKrc, .ro, 0, .reg⟩, ⟨Fd.kprRstCauseCpll, .ro, 0, .reg⟩, ⟨Fd.kprRstCauseKcmd, .ro, 0, .reg⟩, ⟨Fd.kprRstCauseResets, .ro, 0, .reg⟩]
  | .kprRstAssert =>
    [⟨Fd.kprRstAssertKey, .wo, 0, .kpr⟩, ⟨Fd.kprRstAssertGo, .wk, 0, .kpr⟩]
  | .kprPwrReq =>
    [⟨Fd.kprPwrReqSleepPrg, .rw, 0, .prg⟩, ⟨Fd.kprPwrReqSleepGrd, .rw, 0, .grd⟩, ⟨Fd.kprPwrReqTgtPrg, .rw, 1, .prg⟩, ⟨Fd.kprPwrReqTgtGrd, .rw, 1, .grd⟩, ⟨Fd.kprPwrReqGhold, .rw, 0, .prg⟩, ⟨Fd.kprPwrReqRefused, .w1c, 0, .both⟩]
  | .kprPwrWake =>
    [⟨Fd.kprPwrWakeCts0, .rw, 0, .prg⟩, ⟨Fd.kprPwrWakeCts1, .rw, 0, .grd⟩, ⟨Fd.kprPwrWakeCts2, .rw, 0, .prg⟩, ⟨Fd.kprPwrWakeCts3, .rw, 0, .prg⟩, ⟨Fd.kprPwrWakeTmr, .rw, 0, .prg⟩]
  | .kprPwrTmr =>
    [⟨Fd.kprPwrTmrMs, .rw, 0, .prg⟩, ⟨Fd.kprPwrTmrExpired, .w1c, 0, .prg⟩]
  | .kprPwrStat =>
    [⟨Fd.kprPwrStatLast, .ro, 0, .reg⟩, ⟨Fd.kprPwrStatDowngraded, .ro, 0, .reg⟩, ⟨Fd.kprPwrStatWakesrc, .ro, 0, .reg⟩, ⟨Fd.kprPwrStatWakeport, .ro, 0, .reg⟩, ⟨Fd.kprPwrStatPgfail, .ro, 0, .reg⟩, ⟨Fd.kprPwrStatPglost, .ro, 0, .reg⟩, ⟨Fd.kprPwrStatRail, .ro, 0, .reg⟩, ⟨Fd.kprPwrStatOvert, .ro, 0, .reg⟩, ⟨Fd.kprPwrStatTripped, .ro, 0, .reg⟩]
  | .kprPwrQgate _ =>
    [⟨Fd.kprPwrQgateGated, .ro, 0, .reg⟩]
  | .kprPwrTemp _ =>
    [⟨Fd.kprPwrTempTemp, .ro, 0, .reg⟩, ⟨Fd.kprPwrTempMax, .ro, 0, .reg⟩]
  | .kprStrapRaw _ =>
    [⟨Fd.kprStrapRawCodes, .ro, 4294967295, .reg⟩]
  | .kprStrapEff _ =>
    [⟨Fd.kprStrapEffCodes, .ro, 4294967295, .reg⟩]
  | .kprStrapUnst =>
    [⟨Fd.kprStrapUnstPin, .ro, 0, .reg⟩]
  | .kprStrapRsvd =>
    [⟨Fd.kprStrapRsvdPin, .ro, 0, .reg⟩]
  | .kprStrapCond =>
    [⟨Fd.kprStrapCondScanDone, .ro, 1, .reg⟩, ⟨Fd.kprStrapCondNoLead, .ro, 0, .reg⟩, ⟨Fd.kprStrapCondLeadMoved, .ro, 0, .reg⟩, ⟨Fd.kprStrapCondPtpNoEth, .ro, 0, .reg⟩, ⟨Fd.kprStrapCondKxtAbsent, .ro, 0, .reg⟩, ⟨Fd.kprStrapCondOptDefault, .ro, 1, .reg⟩, ⟨Fd.kprStrapCondDbgEff, .ro, 1, .reg⟩, ⟨Fd.kprStrapCondLead, .ro, 0, .reg⟩]
  | .kprWdgCtl _ =>
    [⟨Fd.kprWdgCtlEn, .rw, 1, .reg⟩, ⟨Fd.kprWdgCtlDis, .wk, 0, .reg⟩, ⟨Fd.kprWdgCtlLock, .rw, 0, .reg⟩, ⟨Fd.kprWdgCtlClk, .ro, 0, .reg⟩, ⟨Fd.kprWdgCtlClass, .ro, 1, .reg⟩, ⟨Fd.kprWdgCtlState, .ro, 0, .reg⟩, ⟨Fd.kprWdgCtlHt, .ro, 0, .reg⟩]
  | .kprWdgKey _ =>
    [⟨Fd.kprWdgKeyKey, .wo, 0, .reg⟩]
  | .kprWdgOpen _ =>
    [⟨Fd.kprWdgOpenOpen, .rw, 0, .reg⟩]
  | .kprWdgClose _ =>
    [⟨Fd.kprWdgCloseClose, .rw, 400000, .reg⟩]
  | .kprWdgReq _ =>
    [⟨Fd.kprWdgReqReq, .rw, 1, .reg⟩]
  | .kprWdgChk _ =>
    [⟨Fd.kprWdgChkChk, .wo, 0, .reg⟩]
  | .kprWdgStat _ =>
    [⟨Fd.kprWdgStatDone, .ro, 0, .reg⟩, ⟨Fd.kprWdgStatCause, .ro, 0, .reg⟩, ⟨Fd.kprWdgStatExpired, .w1c, 0, .reg⟩, ⟨Fd.kprWdgStatCfgerr, .w1c, 0, .reg⟩, ⟨Fd.kprWdgStatKeyerr, .w1c, 0, .reg⟩]
  | .kprWdgT _ =>
    [⟨Fd.kprWdgTT, .ro, 0, .reg⟩]
  | .kprWdgDup _ =>
    [⟨Fd.kprWdgDupDup, .rw, 0, .reg⟩, ⟨Fd.kprWdgDupStray, .rw, 0, .reg⟩]
  | .kprWdgRcnt =>
    [⟨Fd.kprWdgRcntPrg, .rw, 0, .prg⟩, ⟨Fd.kprWdgRcntGrd, .rw, 0, .grd⟩]
  | .kprWdgRcnt2 =>
    [⟨Fd.kprWdgRcnt2Kpr, .rw, 0, .kpr⟩]
  | .serCfg n =>
    [⟨Fd.serCfgEn, .rw, (if n < 2 then 1 else 0), .reg⟩, ⟨Fd.serCfgDbits, .rw, 0, .reg⟩, ⟨Fd.serCfgPar, .rw, 0, .reg⟩, ⟨Fd.serCfgStop2, .rw, 0, .reg⟩, ⟨Fd.serCfgFlow, .rw, 0, .reg⟩, ⟨Fd.serCfgRs485, .rw, 0, .reg⟩, ⟨Fd.serCfgWake, .rw, 0, .reg⟩, ⟨Fd.serCfgBrk, .rw, 0, .reg⟩]
  | .serBaud _ =>
    [⟨Fd.serBaudDiv, .rw, 27778, .reg⟩]
  | .serData _ =>
    [⟨Fd.serDataItem, .ro, 0, .reg⟩, ⟨Fd.serDataTx, .wo, 0, .reg⟩, ⟨Fd.serDataEmpty, .ro, 1, .reg⟩]
  | .serLvl _ =>
    [⟨Fd.serLvlRxlvl, .ro, 0, .reg⟩, ⟨Fd.serLvlTxfree, .ro, 16, .reg⟩, ⟨Fd.serLvlRxthr, .rw, 8, .reg⟩, ⟨Fd.serLvlTxthr, .rw, 8, .reg⟩]
  | .serFlow _ =>
    [⟨Fd.serFlowRtshi, .rw, 12, .reg⟩, ⟨Fd.serFlowRtslo, .rw, 8, .reg⟩, ⟨Fd.serFlowTout, .rw, 0, .reg⟩, ⟨Fd.serFlowCts, .ro, 0, .reg⟩, ⟨Fd.serFlowRts, .ro, 0, .reg⟩]
  | .serStat _ =>
    [⟨Fd.serStatRxirq, .w1c, 0, .reg⟩, ⟨Fd.serStatTxirq, .w1c, 0, .reg⟩, ⟨Fd.serStatToirq, .w1c, 0, .reg⟩, ⟨Fd.serStatBrkirq, .w1c, 0, .reg⟩, ⟨Fd.serStatHeld, .ro, 0, .reg⟩, ⟨Fd.serStatWoke, .w1c, 0, .reg⟩, ⟨Fd.serStatOvr, .rw, 0, .reg⟩, ⟨Fd.serStatTxovf, .rw, 0, .reg⟩, ⟨Fd.serStatErrs, .rw, 0, .reg⟩]
  | .flsCmd _ =>
    [⟨Fd.flsCmdOp, .rw, 0, .reg⟩, ⟨Fd.flsCmdGo, .wo, 0, .reg⟩, ⟨Fd.flsCmdBusy, .ro, 0, .reg⟩, ⟨Fd.flsCmdWaiting, .ro, 0, .reg⟩, ⟨Fd.flsCmdDone, .w1c, 0, .reg⟩, ⟨Fd.flsCmdStatus, .ro, 0, .reg⟩]
  | .flsAddr _ =>
    [⟨Fd.flsAddrOffset, .rw, 0, .reg⟩, ⟨Fd.flsAddrSlot, .rw, 0, .reg⟩]
  | .flsSrc _ =>
    [⟨Fd.flsSrcAddr, .rw, 0, .reg⟩]
  | .flsStat =>
    [⟨Fd.flsStatBusy, .ro, 0, .reg⟩, ⟨Fd.flsStatActive, .ro, 1, .reg⟩, ⟨Fd.flsStatClaimch, .ro, 0, .reg⟩, ⟨Fd.flsStatLevel, .ro, 1, .reg⟩, ⟨Fd.flsStatLowering, .ro, 0, .reg⟩, ⟨Fd.flsStatPendres, .ro, 0, .reg⟩, ⟨Fd.flsStatRollback, .ro, 0, .reg⟩]
  | .flsLower =>
    [⟨Fd.flsLowerKey, .wo, 0, .kpr⟩, ⟨Fd.flsLowerGo, .wk, 0, .kpr⟩]
  | .flsEcnt _ =>
    [⟨Fd.flsEcntCount, .ro, 0, .reg⟩, ⟨Fd.flsEcntWorn, .ro, 0, .reg⟩]
  | .tckCtl =>
    [⟨Fd.tckCtlGoPrg, .rw, 0, .prg⟩, ⟨Fd.tckCtlGoGrd, .rw, 0, .grd⟩, ⟨Fd.tckCtlStopPrg, .rw, 0, .prg⟩, ⟨Fd.tckCtlStopGrd, .rw, 0, .grd⟩, ⟨Fd.tckCtlRun, .ro, 0, .reg⟩, ⟨Fd.tckCtlRate, .ro, 3, .reg⟩]
  | .tckSrc =>
    [⟨Fd.tckSrcSel, .rw, 0, .prg⟩, ⟨Fd.tckSrcActive, .ro, 0, .prg⟩, ⟨Fd.tckSrcRdyWc, .ro, 0, .prg⟩, ⟨Fd.tckSrcRdyPtp, .ro, 0, .prg⟩, ⟨Fd.tckSrcHold, .ro, 0, .prg⟩, ⟨Fd.tckSrcSlewing, .ro, 0, .prg⟩, ⟨Fd.tckSrcErrNotready, .w1c, 0, .prg⟩, ⟨Fd.tckSrcErrRate, .w1c, 0, .prg⟩, ⟨Fd.tckSrcFailWc, .w1c, 0, .prg⟩, ⟨Fd.tckSrcFailPtp, .w1c, 0, .prg⟩, ⟨Fd.tckSrcWcBase, .rw, 0, .prg⟩, ⟨Fd.tckSrcMediaValid, .ro, 0, .prg⟩]
  | .tckLimit =>
    [⟨Fd.tckLimitPull, .rw, 100, .prg⟩, ⟨Fd.tckLimitSlew, .rw, 10, .prg⟩, ⟨Fd.tckLimitBw, .rw, 1, .prg⟩]
  | .tckOut =>
    [⟨Fd.tckOutTickEn, .rw, 1, .prg⟩, ⟨Fd.tckOutTickSq, .rw, 0, .prg⟩, ⟨Fd.tckOutWcEn, .rw, 1, .prg⟩, ⟨Fd.tckOutWcBase, .rw, 0, .prg⟩]
  | .tckCountLo =>
    [⟨Fd.tckCountLoCount, .ro, 0, .reg⟩]
  | .tckCountHi =>
    [⟨Fd.tckCountHiCount, .ro, 0, .reg⟩]
  | .tckInitLo =>
    [⟨Fd.tckInitLoInit, .rw, 0, .prg⟩]
  | .tckInitHi =>
    [⟨Fd.tckInitHiInit, .rw, 0, .prg⟩]
  | .tckPeriod =>
    [⟨Fd.tckPeriodLen, .ro, 0, .reg⟩, ⟨Fd.tckPeriodResid, .ro, 0, .reg⟩]
  | .tckPherr =>
    [⟨Fd.tckPherrPherr, .ro, 0, .reg⟩]
  | .tckSteer =>
    [⟨Fd.tckSteerSteer, .ro, 0, .reg⟩]
  | .tckMediaLo =>
    [⟨Fd.tckMediaLoMedia, .ro, 0, .reg⟩]
  | .tckMediaHi =>
    [⟨Fd.tckMediaHiMedia, .ro, 0, .reg⟩]
  | .spnSlotcfg _ =>
    [⟨Fd.spnSlotcfgType, .rw, 0, .reg⟩, ⟨Fd.spnSlotcfgWorld, .ro, 0, .reg⟩, ⟨Fd.spnSlotcfgXw, .rw, 0, .reg⟩, ⟨Fd.spnSlotcfgOwner, .rw, 0, .reg⟩, ⟨Fd.spnSlotcfgPend, .ro, 0, .reg⟩]
  | .spnErr _ =>
    [⟨Fd.spnErrClaimed, .w1c, 0, .reg⟩, ⟨Fd.spnErrWorld, .w1c, 0, .reg⟩, ⟨Fd.spnErrRange, .w1c, 0, .reg⟩, ⟨Fd.spnErrMapdup, .w1c, 0, .reg⟩, ⟨Fd.spnErrSlot, .ro, 0, .reg⟩]
  | .spnIconc =>
    [⟨Fd.spnIconcCount, .ro, 0, .reg⟩, ⟨Fd.spnIconcTick, .ro, 0, .reg⟩]
  | .spnLink _ =>
    [⟨Fd.spnLinkL0Up, .ro, 0, .reg⟩, ⟨Fd.spnLinkL1Up, .ro, 0, .reg⟩, ⟨Fd.spnLinkL0Fail, .w1c, 0, .reg⟩, ⟨Fd.spnLinkL1Fail, .w1c, 0, .reg⟩, ⟨Fd.spnLinkL0Reen, .wo, 0, .reg⟩, ⟨Fd.spnLinkL1Reen, .wo, 0, .reg⟩, ⟨Fd.spnLinkErrcnt, .ro, 0, .reg⟩, ⟨Fd.spnLinkLost, .ro, 0, .reg⟩]
  | .spnConc _ =>
    [⟨Fd.spnConcFmt, .rw, 0, .reg⟩, ⟨Fd.spnConcCnt, .ro, 16, .reg⟩, ⟨Fd.spnConcLastc, .ro, 0, .reg⟩]
  | .spnStsum =>
    [⟨Fd.spnStsumTick, .ro, 0, .reg⟩, ⟨Fd.spnStsumSeeds, .ro, 0, .reg⟩]
  | .spnStsum2 =>
    [⟨Fd.spnStsum2Aborts, .ro, 0, .reg⟩, ⟨Fd.spnStsum2Steps, .ro, 0, .reg⟩, ⟨Fd.spnStsum2Failed, .ro, 0, .reg⟩]
  | .spnStseed _ =>
    [⟨Fd.spnStseedTile, .ro, 0, .reg⟩]
  | .spnStabt _ =>
    [⟨Fd.spnStabtTile, .ro, 0, .reg⟩]
  | .bdgTfolA _ =>
    [⟨Fd.bdgTfolACyc, .rw, 65535, .reg⟩, ⟨Fd.bdgTfolAPis, .rw, 65535, .reg⟩]
  | .bdgTfolB _ =>
    [⟨Fd.bdgTfolBPub, .rw, 65535, .reg⟩, ⟨Fd.bdgTfolBArc, .rw, 65535, .reg⟩]
  | .bdgTfolC i =>
    [⟨Fd.bdgTfolCAct, .rw, (if tfolGuardAtReset i then 48 else 0), .reg⟩]
  | .bdgTev _ =>
    [⟨Fd.bdgTevCycstop, .rw, 0, .reg⟩, ⟨Fd.bdgTevPishold, .rw, 0, .reg⟩, ⟨Fd.bdgTevPubhold, .rw, 0, .reg⟩, ⟨Fd.bdgTevArchold, .rw, 0, .reg⟩]
  | .bdgAct _ =>
    [⟨Fd.bdgActGran, .rw, 0, .reg⟩]
  | .bdgActu _ =>
    [⟨Fd.bdgActuUsed, .ro, 0, .reg⟩, ⟨Fd.bdgActuHcnt, .rw, 0, .reg⟩]
  | .bdgGal _ =>
    [⟨Fd.bdgGalHbytes, .rw, 0, .reg⟩, ⟨Fd.bdgGalAct, .rw, 0, .reg⟩]
  | .bdgGalu _ =>
    [⟨Fd.bdgGaluUsed, .ro, 0, .reg⟩, ⟨Fd.bdgGaluHcnt, .rw, 0, .reg⟩]
  | .bdgCur _ =>
    [⟨Fd.bdgCurCtl, .rw, 65535, .reg⟩, ⟨Fd.bdgCurBulk, .rw, 65535, .reg⟩]
  | .bdgCuru _ =>
    [⟨Fd.bdgCuruUsed, .ro, 0, .reg⟩, ⟨Fd.bdgCuruHcnt, .rw, 0, .reg⟩]
  | .bdgCap =>
    [⟨Fd.bdgCapMemcap, .ro, 232418, .reg⟩]
  | .bdgShare w =>
    [⟨Fd.bdgShareShare, .ro, (if w = 1 then 29052 else 203366), .reg⟩]
  | .bdgSum _ =>
    [⟨Fd.bdgSumSum, .ro, 0, .reg⟩]
  | .bdgErr _ =>
    [⟨Fd.bdgErrOvercommit, .w1c, 0, .reg⟩, ⟨Fd.bdgErrWorld, .w1c, 0, .reg⟩, ⟨Fd.bdgErrOffset, .ro, 0, .reg⟩]
  | .bdgEv _ =>
    [⟨Fd.bdgEvBudstop, .rw, 0, .reg⟩, ⟨Fd.bdgEvBudcl, .rw, 0, .reg⟩]
  | .bdgEv2 _ =>
    [⟨Fd.bdgEv2Memhold, .rw, 0, .reg⟩]
  | .qrcRel _ =>
    [⟨Fd.qrcRelRel, .rw, 0, .reg⟩]
  | .qrcStat _ =>
    [⟨Fd.qrcStatRun, .ro, 0, .reg⟩, ⟨Fd.qrcStatImg, .ro, 0, .reg⟩, ⟨Fd.qrcStatPwr, .ro, 0, .reg⟩, ⟨Fd.qrcStatNoReserve, .ro, 0, .reg⟩, ⟨Fd.qrcStatLoading, .ro, 0, .reg⟩, ⟨Fd.qrcStatRsvRun, .ro, 0, .reg⟩]
  | .qrcHovr _ =>
    [⟨Fd.qrcHovrK, .rw, 0, .reg⟩, ⟨Fd.qrcHovrGo, .wo, 0, .reg⟩, ⟨Fd.qrcHovrLoadres, .wo, 0, .reg⟩, ⟨Fd.qrcHovrArmed, .ro, 0, .reg⟩, ⟨Fd.qrcHovrDone, .w1c, 0, .reg⟩, ⟨Fd.qrcHovrErr, .w1c, 0, .reg⟩]
  | .qrcTkov _ =>
    [⟨Fd.qrcTkovCount, .ro, 0, .reg⟩, ⟨Fd.qrcTkovLast, .ro, 0, .reg⟩, ⟨Fd.qrcTkovTick, .ro, 0, .reg⟩]
  | .qrcMap _ =>
    [⟨Fd.qrcMapIndex, .rw, 0, .reg⟩, ⟨Fd.qrcMapImg, .ro, 0, .reg⟩, ⟨Fd.qrcMapLed, .ro, 0, .reg⟩]
  | .qrcPos _ j =>
    [⟨Fd.qrcPosRole, .ro, j, .reg⟩, ⟨Fd.qrcPosFailed, .w1c, 0, .reg⟩, ⟨Fd.qrcPosReadmit, .wo, 0, .reg⟩, ⟨Fd.qrcPosTestFail, .ro, 0, .reg⟩, ⟨Fd.qrcPosFailtick, .ro, 0, .reg⟩]
  | .qrcSubLo _ _ =>
    [⟨Fd.qrcSubLoSlot, .rw, 0, .reg⟩, ⟨Fd.qrcSubLoFirm, .rw, 0, .reg⟩, ⟨Fd.qrcSubLoValid, .rw, 0, .reg⟩, ⟨Fd.qrcSubLoDup, .ro, 0, .reg⟩, ⟨Fd.qrcSubLoInact, .ro, 0, .reg⟩]
  | .qrcSubHi _ _ =>
    [⟨Fd.qrcSubHiMask, .rw, 0, .reg⟩]
  | .memCfg =>
    [⟨Fd.memCfgChans, .ro, 8, .reg⟩, ⟨Fd.memCfgDens, .ro, 0, .reg⟩, ⟨Fd.memCfgRate, .ro, 1, .reg⟩, ⟨Fd.memCfgDupk, .ro, 2, .reg⟩]
  | .memGch =>
    [⟨Fd.memGchCount, .ro, 7456540, .reg⟩]
  | .memGdup =>
    [⟨Fd.memGdupCount, .ro, 1864135, .reg⟩]
  | .memDuptop =>
    [⟨Fd.memDuptopAddr, .ro, 74565404, .reg⟩]
  | .memTop =>
    [⟨Fd.memTopAddr, .ro, 119304644, .reg⟩]
  | .memErr _ =>
    [⟨Fd.memErrClaimed, .w1c, 0, .reg⟩, ⟨Fd.memErrOverlap, .w1c, 0, .reg⟩, ⟨Fd.memErrRange, .w1c, 0, .reg⟩, ⟨Fd.memErrEntry, .ro, 0, .reg⟩]
  | .memPclr _ =>
    [⟨Fd.memPclrGath, .wo, 0, .reg⟩]
  | .memScrub =>
    [⟨Fd.memScrubIndex, .ro, 0, .reg⟩, ⟨Fd.memScrubPasses, .ro, 0, .reg⟩]
  | .memCh _ =>
    [⟨Fd.memChState, .ro, 0, .reg⟩, ⟨Fd.memChPd, .ro, 0, .reg⟩, ⟨Fd.memChRetrainPrg, .wo, 0, .prg⟩, ⟨Fd.memChRetrainGrd, .wo, 0, .grd⟩, ⟨Fd.memChCause, .ro, 0, .reg⟩]
  | .memChErr _ =>
    [⟨Fd.memChErrCorr, .rw, 0, .both⟩, ⟨Fd.memChErrUncorr, .ro, 0, .both⟩]
  | .memChRslv _ =>
    [⟨Fd.memChRslvNext, .ro, 0, .reg⟩]
  | .memRgnBase _ =>
    [⟨Fd.memRgnBaseAddr, .rw, 0, .reg⟩]
  | .memRgnLim _ =>
    [⟨Fd.memRgnLimAddr, .rw, 0, .reg⟩]
  | .memRgnAttr _ =>
    [⟨Fd.memRgnAttrType, .rw, 0, .reg⟩, ⟨Fd.memRgnAttrWorld, .ro, 0, .reg⟩, ⟨Fd.memRgnAttrDuplex, .ro, 0, .reg⟩, ⟨Fd.memRgnAttrZeroing, .ro, 0, .reg⟩, ⟨Fd.memRgnAttrPend, .ro, 0, .reg⟩]
  | .memRgnSrc _ =>
    [⟨Fd.memRgnSrcOffset, .ro, 0, .reg⟩]
  | .cvsCtl _ =>
    [⟨Fd.cvsCtlEn, .rw, 0, .reg⟩, ⟨Fd.cvsCtlMode, .rw, 0, .reg⟩, ⟨Fd.cvsCtlPoly, .rw, 0, .reg⟩, ⟨Fd.cvsCtlRepeat, .rw, 0, .reg⟩, ⟨Fd.cvsCtlBsize, .rw, 0, .reg⟩, ⟨Fd.cvsCtlAct, .rw, 0, .reg⟩, ⟨Fd.cvsCtlRelease, .wo, 0, .reg⟩, ⟨Fd.cvsCtlBusy, .ro, 0, .reg⟩, ⟨Fd.cvsCtlWorld, .ro, 0, .reg⟩, ⟨Fd.cvsCtlClaimed, .ro, 0, .reg⟩]
  | .cvsStart _ =>
    [⟨Fd.cvsStartAddr, .rw, 0, .reg⟩]
  | .cvsLen _ =>
    [⟨Fd.cvsLenBlocks, .rw, 0, .reg⟩]
  | .cvsExp _ =>
    [⟨Fd.cvsExpAddr, .rw, 0, .reg⟩]
  | .cvsSeq _ =>
    [⟨Fd.cvsSeqSeq, .rw, 0, .reg⟩]
  | .cvsRate _ =>
    [⟨Fd.cvsRateGran, .rw, 65535, .reg⟩]
  | .cvsStat _ =>
    [⟨Fd.cvsStatDone, .w1c, 0, .reg⟩, ⟨Fd.cvsStatMismatch, .w1c, 0, .reg⟩, ⟨Fd.cvsStatUnc, .w1c, 0, .reg⟩, ⟨Fd.cvsStatFault, .w1c, 0, .reg⟩, ⟨Fd.cvsStatPasses, .ro, 0, .reg⟩]
  | .cvsFirst _ =>
    [⟨Fd.cvsFirstBlock, .ro, 0, .reg⟩]
  | .cvsCnt _ =>
    [⟨Fd.cvsCntCount, .rw, 0, .reg⟩]
  | .cvsQstat _ =>
    [⟨Fd.cvsQstatPsmis, .rw, 0, .reg⟩, ⟨Fd.cvsQstatImgmis, .rw, 0, .reg⟩, ⟨Fd.cvsQstatPasses, .ro, 0, .reg⟩]
  | .mdxCfg _ =>
    [⟨Fd.mdxCfgEn, .rw, 0, .reg⟩, ⟨Fd.mdxCfgLoop, .rw, 0, .reg⟩, ⟨Fd.mdxCfgTxnch, .rw, 0, .reg⟩, ⟨Fd.mdxCfgEvw, .rw, 0, .reg⟩]
  | .mdxStat _ =>
    [⟨Fd.mdxStatState, .ro, 0, .reg⟩, ⟨Fd.mdxStatLos, .ro, 0, .reg⟩, ⟨Fd.mdxStatPaired, .ro, 0, .reg⟩, ⟨Fd.mdxStatPairup, .ro, 0, .reg⟩, ⟨Fd.mdxStatLasttick, .ro, 0, .reg⟩]
  | .mdxErr _ =>
    [⟨Fd.mdxErrBad, .rw, 0, .reg⟩, ⟨Fd.mdxErrLate, .rw, 0, .reg⟩, ⟨Fd.mdxErrWtick, .rw, 0, .reg⟩, ⟨Fd.mdxErrLoscnt, .rw, 0, .reg⟩]
  | .mdxErr2 _ =>
    [⟨Fd.mdxErr2Blkloss, .rw, 0, .reg⟩, ⟨Fd.mdxErr2Downs, .rw, 0, .reg⟩, ⟨Fd.mdxErr2Rej, .rw, 0, .reg⟩]
  | .mdxEvq _ =>
    [⟨Fd.mdxEvqEvent, .ro, 0, .reg⟩]
  | .mdxEvstat _ =>
    [⟨Fd.mdxEvstatLevel, .ro, 0, .reg⟩, ⟨Fd.mdxEvstatThresh, .rw, 0, .reg⟩, ⟨Fd.mdxEvstatEvirq, .w1c, 0, .reg⟩, ⟨Fd.mdxEvstatOvf, .rw, 0, .reg⟩]
  | .mdxTxctln _ =>
    [⟨Fd.mdxTxctlnN, .rw, 0, .reg⟩]
  | .mdxTxctl _ _ =>
    [⟨Fd.mdxTxctlData, .rw, 0, .reg⟩]
  | .mdxTxch _ _ =>
    [⟨Fd.mdxTxchSlot, .rw, 0, .reg⟩, ⟨Fd.mdxTxchEn, .rw, 0, .reg⟩, ⟨Fd.mdxTxchFmt, .rw, 0, .reg⟩, ⟨Fd.mdxTxchWorld, .ro, 0, .reg⟩, ⟨Fd.mdxTxchClaimed, .ro, 0, .reg⟩]
  | .tdmCfg _ =>
    [⟨Fd.tdmCfgFormat, .rw, 0, .reg⟩, ⟨Fd.tdmCfgSlots, .rw, 2, .reg⟩, ⟨Fd.tdmCfgDwidth, .rw, 0, .reg⟩, ⟨Fd.tdmCfgDelay, .rw, 1, .reg⟩, ⟨Fd.tdmCfgBpol, .rw, 0, .reg⟩, ⟨Fd.tdmCfgFspol, .rw, 0, .reg⟩, ⟨Fd.tdmCfgEn, .rw, 0, .reg⟩, ⟨Fd.tdmCfgMaster, .ro, 0, .reg⟩]
  | .tdmStat _ =>
    [⟨Fd.tdmStatClkok, .ro, 0, .reg⟩, ⟨Fd.tdmStatSlip, .rw, 0, .reg⟩, ⟨Fd.tdmStatMiss, .rw, 0, .reg⟩, ⟨Fd.tdmStatRej, .rw, 0, .reg⟩]
  | .tdmTxslot _ _ =>
    [⟨Fd.tdmTxslotSlot, .rw, 0, .reg⟩, ⟨Fd.tdmTxslotEn, .rw, 0, .reg⟩, ⟨Fd.tdmTxslotFmt, .rw, 0, .reg⟩, ⟨Fd.tdmTxslotWorld, .ro, 0, .reg⟩, ⟨Fd.tdmTxslotClaimed, .ro, 0, .reg⟩]
  | .ethCfg =>
    [⟨Fd.ethCfgFec, .rw, 0, .prg⟩, ⟨Fd.ethCfgEn, .rw, 0, .prg⟩, ⟨Fd.ethCfgVid, .rw, 0, .prg⟩, ⟨Fd.ethCfgVlan, .rw, 0, .prg⟩, ⟨Fd.ethCfgPcp, .rw, 0, .prg⟩, ⟨Fd.ethCfgDscp, .rw, 34, .prg⟩]
  | .ethMacLo _ =>
    [⟨Fd.ethMacLoMac, .rw, 0, .prg⟩]
  | .ethMacHi _ =>
    [⟨Fd.ethMacHiMac, .rw, 0, .prg⟩]
  | .ethIp _ =>
    [⟨Fd.ethIpAddr, .rw, 0, .prg⟩]
  | .ethPortstat _ =>
    [⟨Fd.ethPortstatLink, .ro, 0, .prg⟩, ⟨Fd.ethPortstatMode, .ro, 0, .prg⟩, ⟨Fd.ethPortstatPause, .rw, 0, .prg⟩, ⟨Fd.ethPortstatDrop, .rw, 0, .prg⟩, ⟨Fd.ethPortstatFcserr, .rw, 0, .prg⟩]
  | .ethPtpcfg =>
    [⟨Fd.ethPtpcfgPort, .rw, 0, .prg⟩, ⟨Fd.ethPtpcfgOnestep, .rw, 0, .prg⟩, ⟨Fd.ethPtpcfgPrio1, .rw, 128, .prg⟩, ⟨Fd.ethPtpcfgPrio2, .rw, 128, .prg⟩, ⟨Fd.ethPtpcfgLogsync, .rw, 13, .prg⟩, ⟨Fd.ethPtpcfgLogann, .rw, 1, .prg⟩, ⟨Fd.ethPtpcfgSlaveonly, .rw, 1, .prg⟩]
  | .ethPtpstat =>
    [⟨Fd.ethPtpstatState, .ro, 0, .prg⟩, ⟨Fd.ethPtpstatLocked, .ro, 0, .prg⟩, ⟨Fd.ethPtpstatLosses, .rw, 0, .prg⟩]
  | .ethPtpofs =>
    [⟨Fd.ethPtpofsOffset, .ro, 0, .prg⟩]
  | .ethErr =>
    [⟨Fd.ethErrRefuse, .w1c, 0, .prg⟩, ⟨Fd.ethErrStream, .ro, 0, .prg⟩]
  | .ethRxsAddr _ =>
    [⟨Fd.ethRxsAddrDest, .rw, 0, .prg⟩]
  | .ethRxsCfg _ =>
    [⟨Fd.ethRxsCfgUdp, .rw, 0, .prg⟩, ⟨Fd.ethRxsCfgPt, .rw, 96, .prg⟩, ⟨Fd.ethRxsCfgFmt, .rw, 0, .prg⟩, ⟨Fd.ethRxsCfgPtime, .rw, 0, .prg⟩, ⟨Fd.ethRxsCfgPort, .rw, 0, .prg⟩, ⟨Fd.ethRxsCfgEn, .rw, 0, .prg⟩]
  | .ethRxsMap _ =>
    [⟨Fd.ethRxsMapNch, .rw, 1, .prg⟩, ⟨Fd.ethRxsMapBase, .rw, 0, .prg⟩, ⟨Fd.ethRxsMapOffset, .rw, 0, .prg⟩]
  | .ethRxsCnt _ =>
    [⟨Fd.ethRxsCntLate, .rw, 0, .prg⟩, ⟨Fd.ethRxsCntMiss, .rw, 0, .prg⟩]
  | .ethTxsAddr _ =>
    [⟨Fd.ethTxsAddrDest, .rw, 0, .prg⟩]
  | .ethTxsCfg _ =>
    [⟨Fd.ethTxsCfgUdp, .rw, 0, .prg⟩, ⟨Fd.ethTxsCfgPt, .rw, 96, .prg⟩, ⟨Fd.ethTxsCfgFmt, .rw, 0, .prg⟩, ⟨Fd.ethTxsCfgPtime, .rw, 0, .prg⟩, ⟨Fd.ethTxsCfgPort, .rw, 0, .prg⟩, ⟨Fd.ethTxsCfgEn, .rw, 0, .prg⟩]
  | .ethTxsMap _ =>
    [⟨Fd.ethTxsMapNch, .rw, 1, .prg⟩, ⟨Fd.ethTxsMapBase, .rw, 0, .prg⟩]
  | .ethTxsCnt _ =>
    [⟨Fd.ethTxsCntRej, .rw, 0, .prg⟩, ⟨Fd.ethTxsCntMiss, .rw, 0, .prg⟩]
  | .ethTxch _ _ =>
    [⟨Fd.ethTxchSlot, .rw, 0, .reg⟩, ⟨Fd.ethTxchEn, .rw, 0, .reg⟩, ⟨Fd.ethTxchFmt, .rw, 0, .reg⟩, ⟨Fd.ethTxchWorld, .ro, 0, .reg⟩, ⟨Fd.ethTxchClaimed, .ro, 0, .reg⟩]
  | .ethCrx _ =>
    [⟨Fd.ethCrxLevel, .ro, 0, .prg⟩, ⟨Fd.ethCrxLen, .ro, 0, .prg⟩, ⟨Fd.ethCrxPop, .wo, 0, .prg⟩]
  | .ethCtx _ =>
    [⟨Fd.ethCtxLen, .rw, 0, .prg⟩, ⟨Fd.ethCtxSend, .wo, 0, .prg⟩, ⟨Fd.ethCtxFull, .ro, 0, .prg⟩]
  | .pnlCfg _ =>
    [⟨Fd.pnlCfgMode, .rw, 0, .reg⟩, ⟨Fd.pnlCfgPol, .rw, 0, .reg⟩, ⟨Fd.pnlCfgDeb, .rw, 9, .reg⟩, ⟨Fd.pnlCfgHoldt, .rw, 4, .reg⟩, ⟨Fd.pnlCfgWorld, .ro, 0, .reg⟩, ⟨Fd.pnlCfgClaimed, .ro, 0, .reg⟩, ⟨Fd.pnlCfgOut, .rw, 0, .reg⟩, ⟨Fd.pnlCfgIn, .ro, 0, .reg⟩, ⟨Fd.pnlCfgDuty, .rw, 0, .reg⟩]
  | .pnlTch _ =>
    [⟨Fd.pnlTchBase, .rw, 0, .reg⟩, ⟨Fd.pnlTchHyst, .rw, 4, .reg⟩, ⟨Fd.pnlTchCount, .ro, 0, .reg⟩, ⟨Fd.pnlTchOvr, .ro, 0, .reg⟩]
  | .pnlEvq _ =>
    [⟨Fd.pnlEvqEvent, .ro, 0, .reg⟩]
  | .pnlEvstat _ =>
    [⟨Fd.pnlEvstatLevel, .ro, 0, .reg⟩, ⟨Fd.pnlEvstatThresh, .rw, 0, .reg⟩, ⟨Fd.pnlEvstatEvirq, .w1c, 0, .reg⟩, ⟨Fd.pnlEvstatOvf, .rw, 0, .reg⟩]
  | .pnlErr _ =>
    [⟨Fd.pnlErrClaimed, .w1c, 0, .reg⟩, ⟨Fd.pnlErrWorld, .w1c, 0, .reg⟩, ⟨Fd.pnlErrPair, .w1c, 0, .reg⟩, ⟨Fd.pnlErrLinked, .w1c, 0, .reg⟩, ⟨Fd.pnlErrPin, .ro, 0, .reg⟩]
  | .egrGrp _ =>
    [⟨Fd.egrGrpCode, .ro, 15, .grd⟩, ⟨Fd.egrGrpEar, .ro, 1, .grd⟩, ⟨Fd.egrGrpPinhush, .ro, 0, .grd⟩, ⟨Fd.egrGrpShush, .rw, 0, .grd⟩, ⟨Fd.egrGrpHushed, .ro, 0, .grd⟩]
  | .egrGain _ =>
    [⟨Fd.egrGainGain, .ro, 16777216, .grd⟩]
  | .egrJgain _ =>
    [⟨Fd.egrJgainGain, .ro, 16777216, .grd⟩]
  | .egrJack _ =>
    [⟨Fd.egrJackSrc, .rw, 0, .grd⟩, ⟨Fd.egrJackPin, .rw, 0, .grd⟩, ⟨Fd.egrJackPort, .rw, 0, .grd⟩, ⟨Fd.egrJackPack, .rw, 0, .grd⟩, ⟨Fd.egrJackPlugged, .ro, 0, .grd⟩, ⟨Fd.egrJackSettled, .ro, 0, .grd⟩]
  | .egrCnt _ =>
    [⟨Fd.egrCntClamps, .rw, 0, .grd⟩]
  | .egrPins =>
    [⟨Fd.egrPinsRaw, .ro, 0, .grd⟩, ⟨Fd.egrPinsFilt, .ro, 0, .grd⟩]
  | .egrErr =>
    [⟨Fd.egrErrClaimed, .w1c, 0, .grd⟩]
  | .hstStat h =>
    [⟨Fd.hstStatRole, .ro, (if h = 0 then 3 else 1), .reg⟩, ⟨Fd.hstStatLink, .ro, 0, .reg⟩, ⟨Fd.hstStatSpeed, .ro, 0, .reg⟩, ⟨Fd.hstStatWidth, .ro, 0, .reg⟩, ⟨Fd.hstStatDown, .ro, 1, .reg⟩, ⟨Fd.hstStatLinkdowns, .rw, 0, .reg⟩]
  | .hstWin _ =>
    [⟨Fd.hstWinBase, .rw, 0, .reg⟩, ⟨Fd.hstWinPlaced, .rw, 0, .reg⟩]
  | .hstStg _ =>
    [⟨Fd.hstStgRgn, .rw, 0, .reg⟩, ⟨Fd.hstStgOpen, .rw, 0, .reg⟩, ⟨Fd.hstStgArch, .ro, 1, .reg⟩]
  | .hstNote _ =>
    [⟨Fd.hstNoteVec, .wo, 0, .reg⟩]
  | .hstErr _ =>
    [⟨Fd.hstErrWindrop, .rw, 0, .reg⟩, ⟨Fd.hstErrMergedrop, .rw, 0, .reg⟩, ⟨Fd.hstErrHdrdrop, .rw, 0, .reg⟩, ⟨Fd.hstErrStgdrop, .rw, 0, .reg⟩]
  | .hstErr2 _ =>
    [⟨Fd.hstErr2Stgref, .w1c, 0, .reg⟩, ⟨Fd.hstErr2Winref, .w1c, 0, .reg⟩]
  | .hstRing _ _ =>
    [⟨Fd.hstRingEn, .rw, 0, .reg⟩, ⟨Fd.hstRingDir, .rw, 0, .reg⟩, ⟨Fd.hstRingLogn, .rw, 1, .reg⟩, ⟨Fd.hstRingLogs, .rw, 0, .reg⟩, ⟨Fd.hstRingBase, .rw, 1, .reg⟩, ⟨Fd.hstRingVec, .rw, 0, .reg⟩, ⟨Fd.hstRingNmode, .rw, 0, .reg⟩]
  | .hstRstat _ _ =>
    [⟨Fd.hstRstatLost, .rw, 0, .reg⟩, ⟨Fd.hstRstatPerr, .rw, 0, .reg⟩, ⟨Fd.hstRstatDerr, .rw, 0, .reg⟩]
  | .truBoot =>
    [⟨Fd.truBootStage, .ro, 0, .reg⟩, ⟨Fd.truBootVerified, .ro, 0, .reg⟩, ⟨Fd.truBootUnverified, .ro, 0, .reg⟩, ⟨Fd.truBootFastwake, .ro, 0, .reg⟩, ⟨Fd.truBootSource, .ro, 0, .reg⟩, ⟨Fd.truBootFailcode, .ro, 0, .reg⟩, ⟨Fd.truBootFailsec, .ro, 0, .reg⟩, ⟨Fd.truBootSlot, .ro, 0, .reg⟩, ⟨Fd.truBootKpatch, .ro, 0, .reg⟩, ⟨Fd.truBootIdbad, .ro, 0, .reg⟩]
  | .truAcc _ =>
    [⟨Fd.truAccAccession, .ro, 0, .reg⟩]
  | .truColdig _ =>
    [⟨Fd.truColdigDigest, .ro, 0, .reg⟩]
  | .truCmd _ =>
    [⟨Fd.truCmdOp, .rw, 0, .reg⟩, ⟨Fd.truCmdGo, .wo, 0, .reg⟩, ⟨Fd.truCmdBusy, .ro, 0, .reg⟩, ⟨Fd.truCmdStatus, .ro, 0, .reg⟩, ⟨Fd.truCmdPurpose, .rw, 0, .reg⟩]
  | .truHdl _ =>
    [⟨Fd.truHdlHandle, .rw, 0, .reg⟩]
  | .truArg _ =>
    [⟨Fd.truArgArg, .rw, 0, .reg⟩]
  | .truSrc _ =>
    [⟨Fd.truSrcAddr, .rw, 0, .reg⟩]
  | .truDst _ =>
    [⟨Fd.truDstAddr, .rw, 0, .reg⟩]
  | .truLen _ =>
    [⟨Fd.truLenLen, .rw, 0, .reg⟩]
  | .truFusectl =>
    [⟨Fd.truFusectlAddr, .rw, 0, .kpr⟩, ⟨Fd.truFusectlData, .rw, 0, .kpr⟩, ⟨Fd.truFusectlGo, .wo, 0, .kpr⟩, ⟨Fd.truFusectlBusy, .ro, 0, .kpr⟩, ⟨Fd.truFusectlRefused, .w1c, 0, .kpr⟩]
  | .truLive _ =>
    [⟨Fd.truLiveOp, .rw, 0, .reg⟩, ⟨Fd.truLiveSrc, .rw, 0, .reg⟩, ⟨Fd.truLiveQuire, .rw, 0, .reg⟩, ⟨Fd.truLiveK, .rw, 0, .reg⟩, ⟨Fd.truLiveGo, .wo, 0, .reg⟩, ⟨Fd.truLiveBusy, .ro, 0, .reg⟩, ⟨Fd.truLiveStatus, .ro, 0, .reg⟩, ⟨Fd.truLivePhase, .ro, 0, .reg⟩, ⟨Fd.truLiveCurdone, .ro, 0, .reg⟩]
  | .truLiveqLo _ =>
    [⟨Fd.truLiveqLoDone, .ro, 0, .reg⟩]
  | .truLiveqHi _ =>
    [⟨Fd.truLiveqHiDone, .ro, 0, .reg⟩]
  | .truLiveacc _ =>
    [⟨Fd.truLiveaccAccession, .ro, 0, .reg⟩]
  | .curWcfg _ =>
    [⟨Fd.curWcfgRachk, .rw, 0, .reg⟩]
  | .curMsg _ =>
    [⟨Fd.curMsgTile, .rw, 0, .reg⟩, ⟨Fd.curMsgSend, .wo, 0, .reg⟩, ⟨Fd.curMsgBusy, .w1c, 0, .reg⟩, ⟨Fd.curMsgDropped, .w1c, 0, .reg⟩]
  | .curMsgd _ =>
    [⟨Fd.curMsgdData, .rw, 0, .reg⟩]
  | .curNme _ =>
    [⟨Fd.curNmeEvent, .w1c, 0, .reg⟩]
  | .curIrq _ =>
    [⟨Fd.curIrqTile, .ro, 0, .reg⟩, ⟨Fd.curIrqSpine, .ro, 0, .reg⟩, ⟨Fd.curIrqTick, .ro, 0, .reg⟩, ⟨Fd.curIrqMem, .ro, 0, .reg⟩, ⟨Fd.curIrqPort, .ro, 0, .reg⟩, ⟨Fd.curIrqHost, .ro, 0, .reg⟩, ⟨Fd.curIrqSerpnl, .ro, 0, .reg⟩, ⟨Fd.curIrqKeeper, .ro, 0, .reg⟩]
  | .curIrqen _ =>
    [⟨Fd.curIrqenEn, .rw, 0, .reg⟩]
  | .curStat _ =>
    [⟨Fd.curStatHalted, .ro, 0, .reg⟩]
  | .curConc _ =>
    [⟨Fd.curConcCticks, .rw, 0, .reg⟩, ⟨Fd.curConcRun, .rw, 0, .reg⟩]
  | .curFlush _ =>
    [⟨Fd.curFlushFlush, .wo, 0, .reg⟩]
  | .curFcnt _ _ =>
    [⟨Fd.curFcntCount, .rw, 0, .reg⟩, ⟨Fd.curFcntTick, .ro, 0, .reg⟩]
  | .curElog =>
    [⟨Fd.curElogPend, .ro, 0, .kpr⟩, ⟨Fd.curElogLost, .ro, 0, .kpr⟩]

/-- `a` is element `i` of an array of `n` registers at `base` with the given stride. -/
def elemAt (base stride n a : Nat) : Option Nat :=
  if base ≤ a ∧ a < base + stride * n ∧ (a - base) % stride = 0 then some ((a - base) / stride) else none

/-- `a` is element `(i, j)` of a two-dimensional array of registers. -/
def elemAt2 (base s1 n1 s2 n2 a : Nat) : Option (Nat × Nat) :=
  if base ≤ a ∧ a < base + s1 * n1 then
    let i := (a - base) / s1
    let o := (a - base) % s1
    if o < s2 * n2 ∧ o % s2 = 0 then some (i, o / s2) else none
  else none

/-- One register array to try against an address. -/
def Creg.try1 (f : Nat → Creg) (o : Option Nat) (k : Option Creg) : Option Creg :=
  match o with
  | some i => some (f i)
  | none => k

/-- One two-dimensional register array to try against an address. -/
def Creg.try2 (f : Nat → Nat → Creg) (o : Option (Nat × Nat)) (k : Option Creg) : Option Creg :=
  match o with
  | some (i, j) => some (f i j)
  | none => k

/-- Registers of the control-space range from 0xF00000000. -/
def Creg.decodeF000 (a : Nat) : Option Creg :=
  if a = 0xF00000000 then some .kprClkStat else
  Creg.try1 .kprClkFail (elemAt 0xF00000004 0x4 2 a) <|
  if a = 0xF00000010 then some .kprClkSel else
  if a = 0xF00000020 then some .kprClkRefcnt else
  if a = 0xF00000024 then some .kprClkKxtcnt else
  if a = 0xF00010000 then some .kprRstCtl else
  Creg.try1 .kprRstReq (elemAt 0xF00010010 0x4 4 a) <|
  Creg.try1 .kprRstPend (elemAt 0xF00010020 0x4 4 a) <|
  Creg.try1 .kprRstErr (elemAt 0xF00010030 0x4 2 a) <|
  if a = 0xF00010040 then some .kprRstDrop else
  if a = 0xF00010050 then some .kprRstCause else
  if a = 0xF00010060 then some .kprRstAssert else
  if a = 0xF00020000 then some .kprPwrReq else
  if a = 0xF00020004 then some .kprPwrWake else
  if a = 0xF00020008 then some .kprPwrTmr else
  if a = 0xF00020010 then some .kprPwrStat else
  Creg.try1 .kprPwrQgate (elemAt 0xF00020020 0x4 2 a) <|
  Creg.try1 .kprPwrTemp (elemAt 0xF00020040 0x4 16 a) <|
  Creg.try1 .kprStrapRaw (elemAt 0xF00030000 0x4 3 a) <|
  Creg.try1 .kprStrapEff (elemAt 0xF00030010 0x4 3 a) <|
  if a = 0xF00030020 then some .kprStrapUnst else
  if a = 0xF00030024 then some .kprStrapRsvd else
  if a = 0xF00030028 then some .kprStrapCond else
  Creg.try1 .kprWdgCtl (elemAt 0xF00040000 0x100 3 a) <|
  Creg.try1 .kprWdgKey (elemAt 0xF00040004 0x100 3 a) <|
  Creg.try1 .kprWdgOpen (elemAt 0xF00040008 0x100 3 a) <|
  Creg.try1 .kprWdgClose (elemAt 0xF0004000C 0x100 3 a) <|
  Creg.try1 .kprWdgReq (elemAt 0xF00040010 0x100 3 a) <|
  Creg.try1 .kprWdgChk (elemAt 0xF00040014 0x100 3 a) <|
  Creg.try1 .kprWdgStat (elemAt 0xF00040018 0x100 3 a) <|
  Creg.try1 .kprWdgT (elemAt 0xF0004001C 0x100 3 a) <|
  Creg.try1 .kprWdgDup (elemAt 0xF00040020 0x100 3 a) <|
  if a = 0xF00040400 then some .kprWdgRcnt else
  if a = 0xF00040404 then some .kprWdgRcnt2 else
  Creg.try1 .serCfg (elemAt 0xF00060000 0x1000 4 a) <|
  Creg.try1 .serBaud (elemAt 0xF00060004 0x1000 4 a) <|
  Creg.try1 .serData (elemAt 0xF00060008 0x1000 4 a) <|
  Creg.try1 .serLvl (elemAt 0xF0006000C 0x1000 4 a) <|
  Creg.try1 .serFlow (elemAt 0xF00060010 0x1000 4 a) <|
  Creg.try1 .serStat (elemAt 0xF00060014 0x1000 4 a) <|
  Creg.try1 .flsCmd (elemAt 0xF00070000 0x20 3 a) <|
  Creg.try1 .flsAddr (elemAt 0xF00070004 0x20 3 a) <|
  Creg.try1 .flsSrc (elemAt 0xF00070008 0x20 3 a) <|
  if a = 0xF00070100 then some .flsStat else
  if a = 0xF00070200 then some .flsLower else
  Creg.try1 .flsEcnt (elemAt 0xF00071000 0x4 256 a) <|
  none

/-- Registers of the control-space range from 0xF01000000. -/
def Creg.decodeF010 (a : Nat) : Option Creg :=
  if a = 0xF01000000 then some .tckCtl else
  if a = 0xF01000004 then some .tckSrc else
  if a = 0xF01000008 then some .tckLimit else
  if a = 0xF0100000C then some .tckOut else
  if a = 0xF01000010 then some .tckCountLo else
  if a = 0xF01000014 then some .tckCountHi else
  if a = 0xF01000018 then some .tckInitLo else
  if a = 0xF0100001C then some .tckInitHi else
  if a = 0xF01000020 then some .tckPeriod else
  if a = 0xF01000024 then some .tckPherr else
  if a = 0xF01000028 then some .tckSteer else
  if a = 0xF01000030 then some .tckMediaLo else
  if a = 0xF01000034 then some .tckMediaHi else
  none

/-- Registers of the control-space range from 0xF01100000. -/
def Creg.decodeF011 (a : Nat) : Option Creg :=
  Creg.try1 .spnSlotcfg (elemAt 0xF01100000 0x4 65536 a) <|
  Creg.try1 .spnErr (elemAt 0xF01140000 0x4 2 a) <|
  if a = 0xF01140008 then some .spnIconc else
  Creg.try1 .spnLink (elemAt 0xF01140100 0x4 64 a) <|
  Creg.try1 .spnConc (elemAt 0xF01180000 0x4 65536 a) <|
  if a = 0xF011F0000 then some .spnStsum else
  if a = 0xF011F0004 then some .spnStsum2 else
  Creg.try1 .spnStseed (elemAt 0xF011F0100 0x4 34 a) <|
  Creg.try1 .spnStabt (elemAt 0xF011F0200 0x4 34 a) <|
  none

/-- Registers of the control-space range from 0xF01200000. -/
def Creg.decodeF012 (a : Nat) : Option Creg :=
  Creg.try1 .bdgTfolA (elemAt 0xF01200000 0x10 1088 a) <|
  Creg.try1 .bdgTfolB (elemAt 0xF01200004 0x10 1088 a) <|
  Creg.try1 .bdgTfolC (elemAt 0xF01200008 0x10 1088 a) <|
  Creg.try1 .bdgTev (elemAt 0xF0120000C 0x10 1088 a) <|
  Creg.try1 .bdgAct (elemAt 0xF01208000 0x8 64 a) <|
  Creg.try1 .bdgActu (elemAt 0xF01208004 0x8 64 a) <|
  Creg.try1 .bdgGal (elemAt 0xF01209000 0x10 4 a) <|
  Creg.try1 .bdgGalu (elemAt 0xF01209004 0x10 4 a) <|
  Creg.try1 .bdgCur (elemAt 0xF0120A000 0x10 2 a) <|
  Creg.try1 .bdgCuru (elemAt 0xF0120A004 0x10 2 a) <|
  if a = 0xF0120B000 then some .bdgCap else
  Creg.try1 .bdgShare (elemAt 0xF0120B008 0x8 2 a) <|
  Creg.try1 .bdgSum (elemAt 0xF0120B00C 0x8 2 a) <|
  Creg.try1 .bdgErr (elemAt 0xF0120B020 0x4 2 a) <|
  Creg.try1 .bdgEv (elemAt 0xF0120B040 0x8 2 a) <|
  Creg.try1 .bdgEv2 (elemAt 0xF0120B044 0x8 2 a) <|
  none

/-- Registers of the control-space range from 0xF02000000. -/
def Creg.decodeF020 (a : Nat) : Option Creg :=
  Creg.try1 .qrcRel (elemAt 0xF02000000 0x10000 64 a) <|
  Creg.try1 .qrcStat (elemAt 0xF02000004 0x10000 64 a) <|
  Creg.try1 .qrcHovr (elemAt 0xF02000010 0x10000 64 a) <|
  Creg.try1 .qrcTkov (elemAt 0xF02000018 0x10000 64 a) <|
  Creg.try1 .qrcMap (elemAt 0xF02000200 0x10000 64 a) <|
  Creg.try2 .qrcPos (elemAt2 0xF02000100 0x10000 64 0x4 17 a) <|
  Creg.try2 .qrcSubLo (elemAt2 0xF02008000 0x10000 64 0x8 4096 a) <|
  Creg.try2 .qrcSubHi (elemAt2 0xF02008004 0x10000 64 0x8 4096 a) <|
  none

/-- Registers of the control-space range from 0xF03000000. -/
def Creg.decodeF030 (a : Nat) : Option Creg :=
  if a = 0xF03000000 then some .memCfg else
  if a = 0xF03000004 then some .memGch else
  if a = 0xF03000008 then some .memGdup else
  if a = 0xF03000010 then some .memDuptop else
  if a = 0xF03000014 then some .memTop else
  Creg.try1 .memErr (elemAt 0xF03000040 0x4 2 a) <|
  Creg.try1 .memPclr (elemAt 0xF03000050 0x4 2 a) <|
  if a = 0xF03000060 then some .memScrub else
  Creg.try1 .memCh (elemAt 0xF03000100 0x10 8 a) <|
  Creg.try1 .memChErr (elemAt 0xF03000104 0x10 8 a) <|
  Creg.try1 .memChRslv (elemAt 0xF03000108 0x10 8 a) <|
  Creg.try1 .memRgnBase (elemAt 0xF03001000 0x10 64 a) <|
  Creg.try1 .memRgnLim (elemAt 0xF03001004 0x10 64 a) <|
  Creg.try1 .memRgnAttr (elemAt 0xF03001008 0x10 64 a) <|
  Creg.try1 .memRgnSrc (elemAt 0xF0300100C 0x10 64 a) <|
  none

/-- Registers of the control-space range from 0xF03100000. -/
def Creg.decodeF031 (a : Nat) : Option Creg :=
  Creg.try1 .cvsCtl (elemAt 0xF03100000 0x40 8 a) <|
  Creg.try1 .cvsStart (elemAt 0xF03100004 0x40 8 a) <|
  Creg.try1 .cvsLen (elemAt 0xF03100008 0x40 8 a) <|
  Creg.try1 .cvsExp (elemAt 0xF0310000C 0x40 8 a) <|
  Creg.try1 .cvsSeq (elemAt 0xF03100010 0x40 8 a) <|
  Creg.try1 .cvsRate (elemAt 0xF03100014 0x40 8 a) <|
  Creg.try1 .cvsStat (elemAt 0xF03100018 0x40 8 a) <|
  Creg.try1 .cvsFirst (elemAt 0xF0310001C 0x40 8 a) <|
  Creg.try1 .cvsCnt (elemAt 0xF03100020 0x40 8 a) <|
  Creg.try1 .cvsQstat (elemAt 0xF03101000 0x4 64 a) <|
  none

/-- Registers of the control-space range from 0xF04000000. -/
def Creg.decodeF040 (a : Nat) : Option Creg :=
  Creg.try1 .mdxCfg (elemAt 0xF04000000 0x10000 32 a) <|
  Creg.try1 .mdxStat (elemAt 0xF04000004 0x10000 32 a) <|
  Creg.try1 .mdxErr (elemAt 0xF04000008 0x10000 32 a) <|
  Creg.try1 .mdxErr2 (elemAt 0xF0400000C 0x10000 32 a) <|
  Creg.try1 .mdxEvq (elemAt 0xF04000010 0x10000 32 a) <|
  Creg.try1 .mdxEvstat (elemAt 0xF04000014 0x10000 32 a) <|
  Creg.try1 .mdxTxctln (elemAt 0xF04000140 0x10000 32 a) <|
  Creg.try2 .mdxTxctl (elemAt2 0xF04000100 0x10000 32 0x4 16 a) <|
  Creg.try2 .mdxTxch (elemAt2 0xF04001000 0x10000 32 0x4 256 a) <|
  none

/-- Registers of the control-space range from 0xF05000000. -/
def Creg.decodeF050 (a : Nat) : Option Creg :=
  Creg.try1 .tdmCfg (elemAt 0xF05000000 0x1000 16 a) <|
  Creg.try1 .tdmStat (elemAt 0xF05000004 0x1000 16 a) <|
  Creg.try2 .tdmTxslot (elemAt2 0xF05000100 0x1000 16 0x4 16 a) <|
  none

/-- Registers of the control-space range from 0xF05100000. -/
def Creg.decodeF051 (a : Nat) : Option Creg :=
  if a = 0xF05100000 then some .ethCfg else
  Creg.try1 .ethMacLo (elemAt 0xF05100010 0x8 2 a) <|
  Creg.try1 .ethMacHi (elemAt 0xF05100014 0x8 2 a) <|
  Creg.try1 .ethIp (elemAt 0xF05100020 0x4 2 a) <|
  Creg.try1 .ethPortstat (elemAt 0xF05100030 0x4 2 a) <|
  if a = 0xF05100040 then some .ethPtpcfg else
  if a = 0xF05100044 then some .ethPtpstat else
  if a = 0xF05100048 then some .ethPtpofs else
  if a = 0xF05100060 then some .ethErr else
  Creg.try1 .ethRxsAddr (elemAt 0xF05101000 0x10 64 a) <|
  Creg.try1 .ethRxsCfg (elemAt 0xF05101004 0x10 64 a) <|
  Creg.try1 .ethRxsMap (elemAt 0xF05101008 0x10 64 a) <|
  Creg.try1 .ethRxsCnt (elemAt 0xF0510100C 0x10 64 a) <|
  Creg.try1 .ethTxsAddr (elemAt 0xF05102000 0x10 64 a) <|
  Creg.try1 .ethTxsCfg (elemAt 0xF05102004 0x10 64 a) <|
  Creg.try1 .ethTxsMap (elemAt 0xF05102008 0x10 64 a) <|
  Creg.try1 .ethTxsCnt (elemAt 0xF0510200C 0x10 64 a) <|
  Creg.try2 .ethTxch (elemAt2 0xF05104000 0x800 2 0x4 512 a) <|
  Creg.try1 .ethCrx (elemAt 0xF05108000 0x1000 2 a) <|
  Creg.try1 .ethCtx (elemAt 0xF0510A000 0x1000 2 a) <|
  none

/-- Registers of the control-space range from 0xF05200000. -/
def Creg.decodeF052 (a : Nat) : Option Creg :=
  Creg.try1 .pnlCfg (elemAt 0xF05200000 0x4 32 a) <|
  Creg.try1 .pnlTch (elemAt 0xF05200100 0x4 16 a) <|
  Creg.try1 .pnlEvq (elemAt 0xF05200300 0x8 2 a) <|
  Creg.try1 .pnlEvstat (elemAt 0xF05200304 0x8 2 a) <|
  Creg.try1 .pnlErr (elemAt 0xF05200320 0x4 2 a) <|
  none

/-- Registers of the control-space range from 0xF05300000. -/
def Creg.decodeF053 (a : Nat) : Option Creg :=
  Creg.try1 .egrGrp (elemAt 0xF05300000 0x20 8 a) <|
  Creg.try1 .egrGain (elemAt 0xF05300004 0x20 8 a) <|
  Creg.try1 .egrJgain (elemAt 0xF05300008 0x20 8 a) <|
  Creg.try1 .egrJack (elemAt 0xF0530000C 0x20 8 a) <|
  Creg.try1 .egrCnt (elemAt 0xF05300010 0x20 8 a) <|
  if a = 0xF05300100 then some .egrPins else
  if a = 0xF05300104 then some .egrErr else
  none

/-- Registers of the control-space range from 0xF06000000. -/
def Creg.decodeF060 (a : Nat) : Option Creg :=
  Creg.try1 .hstStat (elemAt 0xF06000000 0x10000 4 a) <|
  Creg.try1 .hstWin (elemAt 0xF06000004 0x10000 4 a) <|
  Creg.try1 .hstStg (elemAt 0xF06000008 0x10000 4 a) <|
  Creg.try1 .hstNote (elemAt 0xF0600000C 0x10000 4 a) <|
  Creg.try1 .hstErr (elemAt 0xF06000010 0x10000 4 a) <|
  Creg.try1 .hstErr2 (elemAt 0xF06000014 0x10000 4 a) <|
  Creg.try2 .hstRing (elemAt2 0xF06000100 0x10000 4 0x8 16 a) <|
  Creg.try2 .hstRstat (elemAt2 0xF06000104 0x10000 4 0x8 16 a) <|
  none

/-- Registers of the control-space range from 0xF07000000. -/
def Creg.decodeF070 (a : Nat) : Option Creg :=
  if a = 0xF07000000 then some .truBoot else
  Creg.try1 .truAcc (elemAt 0xF07000004 0x4 3 a) <|
  Creg.try1 .truColdig (elemAt 0xF07000020 0x4 8 a) <|
  Creg.try1 .truCmd (elemAt 0xF07001000 0x100 2 a) <|
  Creg.try1 .truHdl (elemAt 0xF07001004 0x100 2 a) <|
  Creg.try1 .truArg (elemAt 0xF07001008 0x100 2 a) <|
  Creg.try1 .truSrc (elemAt 0xF0700100C 0x100 2 a) <|
  Creg.try1 .truDst (elemAt 0xF07001010 0x100 2 a) <|
  Creg.try1 .truLen (elemAt 0xF07001014 0x100 2 a) <|
  if a = 0xF07002000 then some .truFusectl else
  Creg.try1 .truLive (elemAt 0xF07003000 0x100 2 a) <|
  Creg.try1 .truLiveqLo (elemAt 0xF07003004 0x100 2 a) <|
  Creg.try1 .truLiveqHi (elemAt 0xF07003008 0x100 2 a) <|
  Creg.try1 .truLiveacc (elemAt 0xF0700300C 0x100 2 a) <|
  none

/-- Registers of the control-space range from 0xF08000000. -/
def Creg.decodeF080 (a : Nat) : Option Creg :=
  Creg.try1 .curWcfg (elemAt 0xF08000000 0x1000 2 a) <|
  Creg.try1 .curMsg (elemAt 0xF08000004 0x1000 2 a) <|
  Creg.try1 .curMsgd (elemAt 0xF08000008 0x1000 2 a) <|
  Creg.try1 .curNme (elemAt 0xF08000010 0x1000 2 a) <|
  Creg.try1 .curIrq (elemAt 0xF08000014 0x1000 2 a) <|
  Creg.try1 .curIrqen (elemAt 0xF08000018 0x1000 2 a) <|
  Creg.try1 .curStat (elemAt 0xF08000020 0x1000 2 a) <|
  Creg.try1 .curConc (elemAt 0xF08000040 0x1000 2 a) <|
  Creg.try1 .curFlush (elemAt 0xF08000044 0x1000 2 a) <|
  Creg.try2 .curFcnt (elemAt2 0xF08000100 0x1000 2 0x4 32 a) <|
  if a = 0xF08002000 then some .curElog else
  none

/-- The register at a control-space address; `none` where no block decodes it (R16). -/
def Creg.decode (a : Nat) : Option Creg :=
  if 0xF00000000 ≤ a ∧ a < 0xF00071400 then Creg.decodeF000 a else
  if 0xF01000000 ≤ a ∧ a < 0xF01000038 then Creg.decodeF010 a else
  if 0xF01100000 ≤ a ∧ a < 0xF011F0288 then Creg.decodeF011 a else
  if 0xF01200000 ≤ a ∧ a < 0xF0120B050 then Creg.decodeF012 a else
  if 0xF02000000 ≤ a ∧ a < 0xF02400000 then Creg.decodeF020 a else
  if 0xF03000000 ≤ a ∧ a < 0xF03001400 then Creg.decodeF030 a else
  if 0xF03100000 ≤ a ∧ a < 0xF03101100 then Creg.decodeF031 a else
  if 0xF04000000 ≤ a ∧ a < 0xF041F1400 then Creg.decodeF040 a else
  if 0xF05000000 ≤ a ∧ a < 0xF0500F140 then Creg.decodeF050 a else
  if 0xF05100000 ≤ a ∧ a < 0xF0510B004 then Creg.decodeF051 a else
  if 0xF05200000 ≤ a ∧ a < 0xF05200328 then Creg.decodeF052 a else
  if 0xF05300000 ≤ a ∧ a < 0xF05300108 then Creg.decodeF053 a else
  if 0xF06000000 ≤ a ∧ a < 0xF06030180 then Creg.decodeF060 a else
  if 0xF07000000 ≤ a ∧ a < 0xF07003110 then Creg.decodeF070 a else
  if 0xF08000000 ≤ a ∧ a < 0xF08002004 then Creg.decodeF080 a else
  none

/-- The reset word of a register: its fields' reset values in place. -/
def Creg.resetWord (r : Creg) : Word :=
  r.fields.foldl (fun w d => d.fld.put w (BitVec.ofNat 32 d.reset)) 0

end Sys2Proof.Machine
end

