-- ==== Sys2Proof/Machine/CoreRegs.lean ====
section
/-! DEFINITION. The core control registers of a Limdon core (R220): names, CCR indices, fields with access code, reset
value, and whether a field is writable only at supervisor level (S in the register tables, R205). -/

namespace Sys2Proof.Machine

/-- One field of a core control register. -/
structure CcrD where
  fld : Fld
  acc : Acc
  reset : Nat
  sup : Bool
deriving DecidableEq, Repr

/-- The core control registers (R220). -/
inductive Ccr where
  | cstat
  | mode
  | vbar
  | ecause
  | eaddr
  | irq
  | efp
  | cmsg
  | uosp
  | ursp
  | sosp
  | srsp
  | uwin
  | swin
  | shsp
  | shwin
  | ls (l : Nat)
  | le (l : Nat)
  | lc (l : Nat)
  | tstat
  | loopst
  | gflag
  | cfpf
  | apb (d : Nat)
  | apl (d : Nat)
  | apa (d : Nat)
  | tickLo
  | tickHi
  | prsFlags
  | prsFen
  | prsFlagp
  | prsStat
  | prsWmiss
  | prsCf
  | prsDkey
  | prsUcver
  | prsAgbase (g : Nat)
  | prsAgptr (g : Nat)
  | prsAgstr (g : Nat)
  | prsAglen (g : Nat)
  | prsLc
  | prsXaddr
  | pipeCnt
  | pipeCntp
deriving DecidableEq, Repr

/-- The named fields of the core control registers. -/
def Fd.cCstatLevel : Fld := ⟨0, 1⟩
def Fd.cCstatIe : Fld := ⟨1, 1⟩
def Fd.cCstatNmip : Fld := ⟨2, 1⟩
def Fd.cCstatWorld : Fld := ⟨3, 1⟩
def Fd.cModePrecise : Fld := ⟨0, 1⟩
def Fd.cModeRachk : Fld := ⟨1, 1⟩
def Fd.cVbarBase : Fld := ⟨6, 26⟩
def Fd.cEcauseVector : Fld := ⟨0, 4⟩
def Fd.cEcauseCode : Fld := ⟨8, 8⟩
def Fd.cEaddrAddr : Fld := ⟨0, 32⟩
def Fd.cIrqTtcyc : Fld := ⟨0, 16⟩
def Fd.cIrqTten : Fld := ⟨16, 1⟩
def Fd.cIrqCmen : Fld := ⟨17, 1⟩
def Fd.cIrqTtp : Fld := ⟨24, 1⟩
def Fd.cIrqCmp : Fld := ⟨25, 1⟩
def Fd.cEfpFrame : Fld := ⟨0, 32⟩
def Fd.cCmsgData : Fld := ⟨0, 32⟩
def Fd.cUospPtr : Fld := ⟨0, 32⟩
def Fd.cUrspPtr : Fld := ⟨0, 32⟩
def Fd.cSospPtr : Fld := ⟨0, 32⟩
def Fd.cSrspPtr : Fld := ⟨0, 32⟩
def Fd.cUwinBase : Fld := ⟨0, 14⟩
def Fd.cUwinLimit : Fld := ⟨16, 14⟩
def Fd.cSwinBase : Fld := ⟨0, 14⟩
def Fd.cSwinLimit : Fld := ⟨16, 14⟩
def Fd.cShspPtr : Fld := ⟨0, 32⟩
def Fd.cShwinBase : Fld := ⟨0, 14⟩
def Fd.cShwinLimit : Fld := ⟨16, 14⟩
def Fd.cLsStart : Fld := ⟨1, 31⟩
def Fd.cLeEnd : Fld := ⟨1, 31⟩
def Fd.cLcCount : Fld := ⟨0, 32⟩
def Fd.cTstatCause : Fld := ⟨0, 4⟩
def Fd.cTstatSelf : Fld := ⟨4, 8⟩
def Fd.cTstatDepth : Fld := ⟨12, 4⟩
def Fd.cTstatTick : Fld := ⟨16, 16⟩
def Fd.cLoopstDepth : Fld := ⟨0, 3⟩
def Fd.cLoopstFloor : Fld := ⟨3, 3⟩
def Fd.cGflagFlags : Fld := ⟨0, 12⟩
def Fd.cCfpfNv : Fld := ⟨0, 1⟩
def Fd.cCfpfDz : Fld := ⟨1, 1⟩
def Fd.cCfpfOf : Fld := ⟨2, 1⟩
def Fd.cCfpfUf : Fld := ⟨3, 1⟩
def Fd.cApbBase : Fld := ⟨4, 28⟩
def Fd.cAplSize : Fld := ⟨0, 17⟩
def Fd.cApaValid : Fld := ⟨0, 1⟩
def Fd.cApaUr : Fld := ⟨1, 1⟩
def Fd.cApaUw : Fld := ⟨2, 1⟩
def Fd.cApaSr : Fld := ⟨3, 1⟩
def Fd.cApaSw : Fld := ⟨4, 1⟩
def Fd.cTickLoTick : Fld := ⟨0, 32⟩
def Fd.cTickHiTick : Fld := ⟨0, 32⟩
def Fd.cPrsFlagsFlags : Fld := ⟨0, 10⟩
def Fd.cPrsFenRinv : Fld := ⟨0, 1⟩
def Fd.cPrsFenEn : Fld := ⟨1, 8⟩
def Fd.cPrsFenIll : Fld := ⟨9, 1⟩
def Fd.cPrsFlagpFlags : Fld := ⟨0, 10⟩
def Fd.cPrsStatBusy : Fld := ⟨0, 1⟩
def Fd.cPrsStatHeld : Fld := ⟨1, 1⟩
def Fd.cPrsStatAbandoned : Fld := ⟨2, 1⟩
def Fd.cPrsStatWaiting : Fld := ⟨3, 1⟩
def Fd.cPrsStatNext : Fld := ⟨16, 11⟩
def Fd.cPrsWmissLanes : Fld := ⟨0, 16⟩
def Fd.cPrsCfCf : Fld := ⟨0, 4⟩
def Fd.cPrsDkeyKey : Fld := ⟨0, 32⟩
def Fd.cPrsUcverAccession : Fld := ⟨0, 32⟩
def Fd.cPrsAgbaseBase : Fld := ⟨0, 15⟩
def Fd.cPrsAgbaseMirror : Fld := ⟨15, 1⟩
def Fd.cPrsAgptrPtr : Fld := ⟨0, 16⟩
def Fd.cPrsAgstrStride : Fld := ⟨0, 16⟩
def Fd.cPrsAgstrLstr : Fld := ⟨16, 8⟩
def Fd.cPrsAglenLen : Fld := ⟨0, 16⟩
def Fd.cPrsLcLc0 : Fld := ⟨0, 13⟩
def Fd.cPrsLcLc1 : Fld := ⟨16, 13⟩
def Fd.cPrsXaddrUaddr : Fld := ⟨0, 11⟩
def Fd.cPipeCntPairs : Fld := ⟨0, 16⟩
def Fd.cPipeCntStalls : Fld := ⟨16, 16⟩
def Fd.cPipeCntpPairs : Fld := ⟨0, 16⟩
def Fd.cPipeCntpStalls : Fld := ⟨16, 16⟩

/-- The CCR index of a register (R220). -/
def Ccr.idx : Ccr → Nat
  | .cstat => 0x0
  | .mode => 0x1
  | .vbar => 0x2
  | .ecause => 0x3
  | .eaddr => 0x4
  | .irq => 0x5
  | .efp => 0x6
  | .cmsg => 0x7
  | .uosp => 0x8
  | .ursp => 0x9
  | .sosp => 0xA
  | .srsp => 0xB
  | .uwin => 0xC
  | .swin => 0xD
  | .shsp => 0xE
  | .shwin => 0xF
  | .ls l => 0x10 + l
  | .le l => 0x14 + l
  | .lc l => 0x18 + l
  | .tstat => 0x1C
  | .loopst => 0x1D
  | .gflag => 0x1E
  | .cfpf => 0x1F
  | .apb d => 0x20 + d
  | .apl d => 0x28 + d
  | .apa d => 0x30 + d
  | .tickLo => 0x38
  | .tickHi => 0x39
  | .prsFlags => 0x40
  | .prsFen => 0x41
  | .prsFlagp => 0x42
  | .prsStat => 0x43
  | .prsWmiss => 0x44
  | .prsCf => 0x45
  | .prsDkey => 0x46
  | .prsUcver => 0x47
  | .prsAgbase g => 0x48 + 4 * g
  | .prsAgptr g => 0x49 + 4 * g
  | .prsAgstr g => 0x4A + 4 * g
  | .prsAglen g => 0x4B + 4 * g
  | .prsLc => 0x54
  | .prsXaddr => 0x55
  | .pipeCnt => 0x58
  | .pipeCntp => 0x59

/-- The fields of a core control register. Bits that no field covers are reserved and read 0 (R6), bit 15 of PRS_AG0BASE and
PRS_AG2BASE among them, where MIRROR is reserved. -/
def Ccr.fields : Ccr → List CcrD
  | .cstat => [⟨Fd.cCstatLevel, .rw, 1, true⟩, ⟨Fd.cCstatIe, .rw, 0, true⟩, ⟨Fd.cCstatNmip, .ro, 0, false⟩, ⟨Fd.cCstatWorld, .ro, 0, false⟩]
  | .mode => [⟨Fd.cModePrecise, .rw, 0, true⟩, ⟨Fd.cModeRachk, .ro, 0, false⟩]
  | .vbar => [⟨Fd.cVbarBase, .rw, 0, true⟩]
  | .ecause => [⟨Fd.cEcauseVector, .rw, 0, true⟩, ⟨Fd.cEcauseCode, .rw, 0, true⟩]
  | .eaddr => [⟨Fd.cEaddrAddr, .rw, 0, true⟩]
  | .irq => [⟨Fd.cIrqTtcyc, .rw, 0, true⟩, ⟨Fd.cIrqTten, .rw, 0, true⟩, ⟨Fd.cIrqCmen, .rw, 0, true⟩, ⟨Fd.cIrqTtp, .w1c, 0, false⟩, ⟨Fd.cIrqCmp, .w1c, 0, false⟩]
  | .efp => [⟨Fd.cEfpFrame, .rw, 0, true⟩]
  | .cmsg => [⟨Fd.cCmsgData, .ro, 0, false⟩]
  | .uosp => [⟨Fd.cUospPtr, .rw, 0, true⟩]
  | .ursp => [⟨Fd.cUrspPtr, .rw, 0, true⟩]
  | .sosp => [⟨Fd.cSospPtr, .rw, 0, true⟩]
  | .srsp => [⟨Fd.cSrspPtr, .rw, 0, true⟩]
  | .uwin => [⟨Fd.cUwinBase, .rw, 0, true⟩, ⟨Fd.cUwinLimit, .rw, 0, true⟩]
  | .swin => [⟨Fd.cSwinBase, .rw, 0, true⟩, ⟨Fd.cSwinLimit, .rw, 0, true⟩]
  | .shsp => [⟨Fd.cShspPtr, .rw, 0, true⟩]
  | .shwin => [⟨Fd.cShwinBase, .rw, 0, true⟩, ⟨Fd.cShwinLimit, .rw, 0, true⟩]
  | .ls _ => [⟨Fd.cLsStart, .rw, 0, false⟩]
  | .le _ => [⟨Fd.cLeEnd, .rw, 0, false⟩]
  | .lc _ => [⟨Fd.cLcCount, .rw, 0, false⟩]
  | .tstat => [⟨Fd.cTstatCause, .ro, 0, false⟩, ⟨Fd.cTstatSelf, .ro, 0, false⟩, ⟨Fd.cTstatDepth, .ro, 0, false⟩, ⟨Fd.cTstatTick, .ro, 0, false⟩]
  | .loopst => [⟨Fd.cLoopstDepth, .rw, 0, false⟩, ⟨Fd.cLoopstFloor, .rw, 0, true⟩]
  | .gflag => [⟨Fd.cGflagFlags, .ro, 0, false⟩]
  | .cfpf => [⟨Fd.cCfpfNv, .w1c, 0, false⟩, ⟨Fd.cCfpfDz, .w1c, 0, false⟩, ⟨Fd.cCfpfOf, .w1c, 0, false⟩, ⟨Fd.cCfpfUf, .w1c, 0, false⟩]
  | .apb _ => [⟨Fd.cApbBase, .rw, 0, true⟩]
  | .apl _ => [⟨Fd.cAplSize, .rw, 0, true⟩]
  | .apa _ => [⟨Fd.cApaValid, .rw, 0, true⟩, ⟨Fd.cApaUr, .rw, 0, true⟩, ⟨Fd.cApaUw, .rw, 0, true⟩, ⟨Fd.cApaSr, .rw, 0, true⟩, ⟨Fd.cApaSw, .rw, 0, true⟩]
  | .tickLo => [⟨Fd.cTickLoTick, .ro, 0, false⟩]
  | .tickHi => [⟨Fd.cTickHiTick, .ro, 0, false⟩]
  | .prsFlags => [⟨Fd.cPrsFlagsFlags, .w1c, 0, false⟩]
  | .prsFen => [⟨Fd.cPrsFenRinv, .ro, 1, false⟩, ⟨Fd.cPrsFenEn, .rw, 20, true⟩, ⟨Fd.cPrsFenIll, .ro, 1, false⟩]
  | .prsFlagp => [⟨Fd.cPrsFlagpFlags, .ro, 0, false⟩]
  | .prsStat => [⟨Fd.cPrsStatBusy, .ro, 0, false⟩, ⟨Fd.cPrsStatHeld, .ro, 0, false⟩, ⟨Fd.cPrsStatAbandoned, .w1c, 0, false⟩, ⟨Fd.cPrsStatWaiting, .ro, 0, false⟩, ⟨Fd.cPrsStatNext, .ro, 0, false⟩]
  | .prsWmiss => [⟨Fd.cPrsWmissLanes, .ro, 0, false⟩]
  | .prsCf => [⟨Fd.cPrsCfCf, .rw, 0, false⟩]
  | .prsDkey => [⟨Fd.cPrsDkeyKey, .rw, 0, false⟩]
  | .prsUcver => [⟨Fd.cPrsUcverAccession, .ro, 0, false⟩]
  | .prsAgbase g => ⟨Fd.cPrsAgbaseBase, .rw, 0, false⟩ :: (if g = 1 then [⟨Fd.cPrsAgbaseMirror, .rw, 0, false⟩] else [])
  | .prsAgptr _ => [⟨Fd.cPrsAgptrPtr, .rw, 0, false⟩]
  | .prsAgstr _ => [⟨Fd.cPrsAgstrStride, .rw, 0, false⟩, ⟨Fd.cPrsAgstrLstr, .rw, 1, false⟩]
  | .prsAglen _ => [⟨Fd.cPrsAglenLen, .rw, 0, false⟩]
  | .prsLc => [⟨Fd.cPrsLcLc0, .rw, 0, false⟩, ⟨Fd.cPrsLcLc1, .rw, 0, false⟩]
  | .prsXaddr => [⟨Fd.cPrsXaddrUaddr, .ro, 0, false⟩]
  | .pipeCnt => [⟨Fd.cPipeCntPairs, .ro, 0, false⟩, ⟨Fd.cPipeCntStalls, .ro, 0, false⟩]
  | .pipeCntp => [⟨Fd.cPipeCntpPairs, .ro, 0, false⟩, ⟨Fd.cPipeCntpStalls, .ro, 0, false⟩]

/-- The register at a CCR index; `none` where none is decoded (R205, R220). -/
def Ccr.decode (i : Nat) : Option Ccr :=
  if i = 0x0 then some .cstat else
  if i = 0x1 then some .mode else
  if i = 0x2 then some .vbar else
  if i = 0x3 then some .ecause else
  if i = 0x4 then some .eaddr else
  if i = 0x5 then some .irq else
  if i = 0x6 then some .efp else
  if i = 0x7 then some .cmsg else
  if i = 0x8 then some .uosp else
  if i = 0x9 then some .ursp else
  if i = 0xA then some .sosp else
  if i = 0xB then some .srsp else
  if i = 0xC then some .uwin else
  if i = 0xD then some .swin else
  if i = 0xE then some .shsp else
  if i = 0xF then some .shwin else
  if 0x10 ≤ i ∧ i < 0x14 then some (.ls (i - 0x10)) else
  if 0x14 ≤ i ∧ i < 0x18 then some (.le (i - 0x14)) else
  if 0x18 ≤ i ∧ i < 0x1C then some (.lc (i - 0x18)) else
  if i = 0x1C then some .tstat else
  if i = 0x1D then some .loopst else
  if i = 0x1E then some .gflag else
  if i = 0x1F then some .cfpf else
  if 0x20 ≤ i ∧ i < 0x28 then some (.apb (i - 0x20)) else
  if 0x28 ≤ i ∧ i < 0x30 then some (.apl (i - 0x28)) else
  if 0x30 ≤ i ∧ i < 0x38 then some (.apa (i - 0x30)) else
  if i = 0x38 then some .tickLo else
  if i = 0x39 then some .tickHi else
  if i = 0x40 then some .prsFlags else
  if i = 0x41 then some .prsFen else
  if i = 0x42 then some .prsFlagp else
  if i = 0x43 then some .prsStat else
  if i = 0x44 then some .prsWmiss else
  if i = 0x45 then some .prsCf else
  if i = 0x46 then some .prsDkey else
  if i = 0x47 then some .prsUcver else
  if i = 0x54 then some .prsLc else
  if i = 0x55 then some .prsXaddr else
  if i = 0x58 then some .pipeCnt else
  if i = 0x59 then some .pipeCntp else
  if 0x48 ≤ i ∧ i < 0x54 then
    let g := (i - 0x48) / 4
    match (i - 0x48) % 4 with
    | 0 => some (.prsAgbase g)
    | 1 => some (.prsAgptr g)
    | 2 => some (.prsAgstr g)
    | _ => some (.prsAglen g)
  else none

/-- The reset word of a core control register. -/
def Ccr.resetWord (r : Ccr) : Word :=
  r.fields.foldl (fun w d => d.fld.put w (BitVec.ofNat 32 d.reset)) 0

end Sys2Proof.Machine
end

