-- ==== Sys2Proof/Machine/Flags.lean ====
section
/-! DEFINITION. Arithmetic: binary32 with its flags (R153, R198), EXP2 and LOG2 (R199), conditions (R200), integer
operations (R197), exact products and readout of the press accumulators (R146, R150), dither (R151). -/

namespace Sys2Proof.Machine

/-! ### binary32 -/

/-- The quiet NaN that every NaN result takes (R153, R198). -/
def f32NaN : Word := 0x7FC00000#32
def f32Sign (w : Word) : Bool := w.getLsbD 31
def f32Exp (w : Word) : Nat := (w.toNat / 2 ^ 23) % 256
def f32Frac (w : Word) : Nat := w.toNat % 2 ^ 23
def f32IsNaN (w : Word) : Bool := f32Exp w == 255 && f32Frac w != 0
def f32IsSNaN (w : Word) : Bool := f32IsNaN w && decide (f32Frac w < 2 ^ 22)
def f32IsInf (w : Word) : Bool := f32Exp w == 255 && f32Frac w == 0
def f32IsZero (w : Word) : Bool := w.toNat % 2 ^ 31 == 0
def f32IsFinite (w : Word) : Bool := f32Exp w != 255
def f32Inf (neg : Bool) : Word := if neg then 0xFF800000#32 else 0x7F800000#32
def f32Zero (neg : Bool) : Word := if neg then 0x80000000#32 else 0#32

/-- The magnitude of a finite value is `f32Mant · 2^f32Pow`. -/
def f32Mant (w : Word) : Nat := if f32Exp w = 0 then f32Frac w else f32Frac w + 2 ^ 23
def f32Pow (w : Word) : Int := if f32Exp w = 0 then -149 else (f32Exp w : Int) - 150

/-- The signed mantissa of a finite value. -/
def f32Int (w : Word) : Int := if f32Sign w then -(f32Mant w : Int) else (f32Mant w : Int)

/-- A result with the IEEE conditions it raised (R198): invalid, division by zero, overflow, underflow. -/
structure FRes where
  val : Word
  nv : Bool := false
  dz : Bool := false
  of : Bool := false
  uf : Bool := false
deriving DecidableEq, Repr

/-- Number of bits of a natural number. -/
def bitLen (n : Nat) : Nat := if n = 0 then 0 else Nat.log2 n + 1

/-- `n · 2^−sh` rounded to the nearest integer, ties to even. -/
def roundShift (n sh : Nat) : Nat :=
  let q := n / 2 ^ sh
  let r := 2 * (n % 2 ^ sh)
  if r < 2 ^ sh then q else if r > 2 ^ sh then q + 1 else q + q % 2

/-- The binary32 nearest to `±n · 2^e`, ties to even, subnormals kept; underflow is a tiny result that is also inexact,
tininess judged on the rounded result (R153). A zero `n` gives the zero of the sign. -/
def f32Round (neg : Bool) (n : Nat) (e : Int) : FRes :=
  if n = 0 then ⟨f32Zero neg, false, false, false, false⟩ else
  let top : Int := (bitLen n : Int) - 1 + e
  let q : Int := max (top - 23) (-149)
  let sh : Int := q - e
  let r : Nat := if sh ≤ 0 then n * 2 ^ (-sh).toNat else roundShift n sh.toNat
  let inexact : Bool := decide (0 < sh) && n % 2 ^ sh.toNat != 0
  let mag : Nat := (q + 149).toNat * 2 ^ 23 + r
  let s : Nat := if neg then 2 ^ 31 else 0
  if 0x7F800000 ≤ mag then ⟨f32Inf neg, false, false, true, false⟩
  else ⟨BitVec.ofNat 32 (mag + s), false, false, false, inexact && decide (mag < 0x00800000)⟩

/-- The binary32 nearest to `m · 2^e`; an exact zero gives +0. -/
def f32RoundInt (m : Int) (e : Int) : FRes := f32Round (decide (m < 0)) m.natAbs e

/-- Addition with one rounding (R198, R153). -/
def f32Add (a b : Word) : FRes :=
  if f32IsNaN a || f32IsNaN b then ⟨f32NaN, f32IsSNaN a || f32IsSNaN b, false, false, false⟩
  else if f32IsInf a then
    if f32IsInf b && f32Sign a != f32Sign b then ⟨f32NaN, true, false, false, false⟩ else ⟨a, false, false, false, false⟩
  else if f32IsInf b then ⟨b, false, false, false, false⟩
  else
    let e := min (f32Pow a) (f32Pow b)
    let m := f32Int a * 2 ^ (f32Pow a - e).toNat + f32Int b * 2 ^ (f32Pow b - e).toNat
    if m = 0 then ⟨f32Zero (f32IsZero a && f32IsZero b && f32Sign a && f32Sign b), false, false, false, false⟩
    else f32RoundInt m e

/-- The word with its sign changed, without rounding. -/
def f32Neg (a : Word) : Word := a ^^^ 0x80000000#32

/-- Subtraction with one rounding; a NaN operand is judged as it stands (R153). -/
def f32Sub (a b : Word) : FRes :=
  if f32IsNaN b then f32Add a b else f32Add a (f32Neg b)

/-- Multiplication with one rounding. -/
def f32Mul (a b : Word) : FRes :=
  let s := f32Sign a != f32Sign b
  if f32IsNaN a || f32IsNaN b then ⟨f32NaN, f32IsSNaN a || f32IsSNaN b, false, false, false⟩
  else if f32IsInf a || f32IsInf b then
    if f32IsZero a || f32IsZero b then ⟨f32NaN, true, false, false, false⟩ else ⟨f32Inf s, false, false, false, false⟩
  else f32Round s (f32Mant a * f32Mant b) (f32Pow a + f32Pow b)

/-- Division with one rounding. -/
def f32Div (a b : Word) : FRes :=
  let s := f32Sign a != f32Sign b
  if f32IsNaN a || f32IsNaN b then ⟨f32NaN, f32IsSNaN a || f32IsSNaN b, false, false, false⟩
  else if f32IsInf a then
    if f32IsInf b then ⟨f32NaN, true, false, false, false⟩ else ⟨f32Inf s, false, false, false, false⟩
  else if f32IsInf b then ⟨f32Zero s, false, false, false, false⟩
  else if f32IsZero b then
    if f32IsZero a then ⟨f32NaN, true, false, false, false⟩ else ⟨f32Inf s, false, true, false, false⟩
  else
    let num := f32Mant a * 2 ^ 64
    let q := num / f32Mant b
    let st := if num % f32Mant b = 0 then 0 else 1
    f32Round s (2 * q + st) (f32Pow a - f32Pow b - 65)

/-- The integer square root by digits, from bit `k − 1` down. -/
def isqrtFrom (n : Nat) : Nat → Nat → Nat
  | 0, r => r
  | k + 1, r => isqrtFrom n k (if (r + 2 ^ k) * (r + 2 ^ k) ≤ n then r + 2 ^ k else r)

/-- The integer square root of a number below `2^(2k)`. -/
def isqrt (k n : Nat) : Nat := isqrtFrom n k 0

/-- Square root; √−0 is −0, and a value below zero gives NaN with NV. -/
def f32Sqrt (a : Word) : FRes :=
  if f32IsNaN a then ⟨f32NaN, f32IsSNaN a, false, false, false⟩
  else if f32IsZero a then ⟨a, false, false, false, false⟩
  else if f32Sign a then ⟨f32NaN, true, false, false, false⟩
  else if f32IsInf a then ⟨a, false, false, false, false⟩
  else
    let odd : Nat := (f32Pow a % 2).toNat
    let n := f32Mant a * 2 ^ (60 + odd)
    let r := isqrt 44 n
    let st := if r * r = n then 0 else 1
    f32Round false (2 * r + st) ((f32Pow a - odd - 60) / 2 - 1)

/-- `√(2^(2p)·…)` chain: from `x ≈ 2^y · 2^p` the number for half the exponent. -/
def sqrtFix (p x : Nat) : Nat := isqrt (p + 2) (x * 2 ^ p)

/-- The product over the set bits of a fraction: `acc` times 2 to the power `f · 2^−k`, in fixed point with `p` bits;
`c` is the constant for the next lower bit. -/
def exp2Frac (p f : Nat) : Nat → Nat → Nat → Nat
  | 0, _, acc => acc
  | k + 1, c, acc =>
    let c' := sqrtFix p c
    exp2Frac p f k c' (if f / 2 ^ k % 2 = 1 then acc * c' / 2 ^ p else acc)

/-- EXP2 (R199): correctly rounded 2^a, computed to 128 fraction bits (assumption 12). -/
def f32Exp2 (a : Word) : FRes :=
  if f32IsNaN a then ⟨f32NaN, f32IsSNaN a, false, false, false⟩
  else if f32IsInf a then ⟨if f32Sign a then 0#32 else a, false, false, false, false⟩
  else if f32IsZero a then ⟨0x3F800000#32, false, false, false, false⟩
  else if 140 ≤ f32Exp a then
    if f32Sign a then ⟨0#32, false, false, false, true⟩ else ⟨f32Inf false, false, false, true, false⟩
  else if f32Exp a < 98 then ⟨0x3F800000#32, false, false, false, false⟩
  else
    let x : Int := f32Int a * 2 ^ (f32Pow a + 64).toNat
    let i : Int := x / 2 ^ 64
    let f : Nat := (x % 2 ^ 64).toNat
    if f = 0 then f32Round false 1 i
    else f32Round false (2 * exp2Frac 128 f 64 (2 ^ 129) (2 ^ 128) + 1) (i - 129)

/-- Digits of the binary logarithm of `y · 2^−p`, `1 ≤ y · 2^−p < 2`, by repeated squaring. -/
def log2Digits (p : Nat) : Nat → Nat → Nat → Nat
  | 0, _, d => d
  | k + 1, y, d =>
    let y2 := y * y / 2 ^ p
    if 2 ^ (p + 1) ≤ y2 then log2Digits p k (y2 / 2) (2 * d + 1) else log2Digits p k y2 (2 * d)

/-- LOG2 (R199): correctly rounded log2 a, computed to 100 digits (assumption 12). -/
def f32Log2 (a : Word) : FRes :=
  if f32IsNaN a then ⟨f32NaN, f32IsSNaN a, false, false, false⟩
  else if f32IsZero a then ⟨f32Inf true, false, true, false, false⟩
  else if f32Sign a then ⟨f32NaN, true, false, false, false⟩
  else if f32IsInf a then ⟨a, false, false, false, false⟩
  else
    let len := bitLen (f32Mant a)
    let e : Int := f32Pow a + (len : Int) - 1
    let y := f32Mant a * 2 ^ (256 - (len - 1))
    if y = 2 ^ 256 then f32RoundInt e 0
    else f32RoundInt (2 * (e * 2 ^ 100 + (log2Digits 256 100 y 0 : Int)) + 1) (-101)

/-- Value order of two binary32 numbers that are not NaN: −0 equals +0. -/
def f32Key (w : Word) : Int :=
  if f32Sign w then -((w.toNat % 2 ^ 31 : Nat) : Int) else ((w.toNat % 2 ^ 31 : Nat) : Int)
def f32Eq (a b : Word) : Bool := !f32IsNaN a && !f32IsNaN b && f32Key a == f32Key b
def f32Lt (a b : Word) : Bool := !f32IsNaN a && !f32IsNaN b && decide (f32Key a < f32Key b)

/-- The lesser or greater operand, −0 below +0; one NaN gives the other operand, two give the quiet NaN (R153). -/
def f32MinMax (wantMax : Bool) (a b : Word) : FRes :=
  let nv := f32IsSNaN a || f32IsSNaN b
  if f32IsNaN a && f32IsNaN b then ⟨f32NaN, nv, false, false, false⟩
  else if f32IsNaN a then ⟨b, nv, false, false, false⟩
  else if f32IsNaN b then ⟨a, nv, false, false, false⟩
  else
    let less := f32Lt a b || (f32Key a == f32Key b && f32Sign a && !f32Sign b)
    ⟨if less != wantMax then a else b, false, false, false, false⟩

/-! ### Integer operations (R197) -/

def shlW (a n : Word) : Word := if 32 ≤ n.toNat then 0#32 else a <<< n.toNat
def shrW (a n : Word) : Word := if 32 ≤ n.toNat then 0#32 else a >>> n.toNat
def sarW (a n : Word) : Word := a.sshiftRight (min n.toNat 31)
/-- Bits [63:32] of the signed 64-bit product. -/
def mulhW (a b : Word) : Word := BitVec.ofInt 32 (a.toInt * b.toInt / 2 ^ 32)
/-- Signed quotient, truncated toward zero, with DZ for a zero divisor. -/
def divW (a b : Word) : FRes :=
  if b = 0#32 then ⟨0#32, false, true, false, false⟩
  else ⟨BitVec.ofInt 32 (a.toInt.tdiv b.toInt), false, false, false, false⟩
/-- Signed remainder, with the sign of the dividend. -/
def remW (a b : Word) : FRes :=
  if b = 0#32 then ⟨a, false, true, false, false⟩
  else ⟨BitVec.ofInt 32 (a.toInt.tmod b.toInt), false, false, false, false⟩


/-- Whether a condition holds, and NV for a signalling-NaN operand of a floating-point condition (R200). -/
def condEval (c : Cond) (a b : Word) : Bool × Bool :=
  let sn := f32IsSNaN a || f32IsSNaN b
  match c with
  | .eq => (a == b, false)
  | .ne => (a != b, false)
  | .lt => (a.slt b, false)
  | .ge => (b.sle a, false)
  | .gt => (b.slt a, false)
  | .le => (a.sle b, false)
  | .ltu => (a.ult b, false)
  | .geu => (b.ule a, false)
  | .gtu => (b.ult a, false)
  | .leu => (a.ule b, false)
  | .feq => (f32Eq a b, sn)
  | .flt => (f32Lt a b, sn)
  | .fle => (f32Lt a b || f32Eq a b, sn)
  | .fun_ => (f32IsNaN a || f32IsNaN b, sn)
  | .fne => (!f32Eq a b, sn)

/-! ### Exact accumulation (R145–R150) -/

/-- An accumulator: state bits INV and CLIP and the 272-bit integer E (R145). -/
structure Accum where
  e : BitVec 272 := 0
  inv : Bool := false
  clip : Bool := false
deriving DecidableEq, Repr

/-- The product of two finite binary32 values on the window grid (R146): the integer p × 2^190 after truncation toward
minus infinity and clipping, and whether it was clipped. -/
def exactProduct (a b : Word) : Int × Bool :=
  let m := f32Int a * f32Int b
  let sh := f32Pow a + f32Pow b + 190
  let p : Int := if 0 ≤ sh then m * 2 ^ sh.toNat else m / 2 ^ (-sh).toNat
  if 2 ^ 255 ≤ p then (2 ^ 255, true) else if p ≤ -(2 ^ 255) then (-(2 ^ 255), true) else (p, false)

/-- One exact multiply-accumulate: the new accumulator, AINV and CLIP (R146, R147). -/
def Accum.mac (x : Accum) (a b : Word) : Accum × Bool × Bool :=
  if f32IsFinite a && f32IsFinite b then
    let (p, c) := exactProduct a b
    (⟨if x.inv then x.e else x.e + BitVec.ofInt 272 p, x.inv, x.clip || c⟩, false, c)
  else (⟨x.e, true, x.clip⟩, true, false)

/-- Adds an image or another lane's accumulator (R149); an invalid accumulator keeps its E (R147). -/
def Accum.merge (x y : Accum) : Accum :=
  ⟨if x.inv then x.e else x.e + y.e, x.inv || y.inv, x.clip || y.clip⟩

/-- The value read out: E limited to the window, and WSAT (R150 step 2). -/
def Accum.window (x : Accum) : Int × Bool :=
  let v := x.e.toInt
  if 2 ^ 255 ≤ v then (2 ^ 255 - 1, true) else if v < -(2 ^ 255) then (-(2 ^ 255), true) else (v, false)

/-- Nearest integer to `m · 2^−sh`, ties to even. -/
def roundIntShift (m : Int) (sh : Nat) : Int :=
  if m < 0 then -((roundShift m.natAbs sh : Nat) : Int) else ((roundShift m.natAbs sh : Nat) : Int)

/-- The binary32 readout of a window value (R150, RMODE 1): a non-zero value that rounds to zero keeps its sign. -/
def readoutF32 (v : Int) : Word := (f32RoundInt v (-190)).val

/-- The scaled-integer readout (R150, RMODE 2): `V × 2^S + d` with the dither given as an integer of 2^−32 LSB units,
rounded once and saturated; and ISAT. -/
def readoutInt (v : Int) (s : Nat) (d : Int) : Word × Bool :=
  let i := roundIntShift (v * 2 ^ s + d * 2 ^ 158) 190
  let t := max (-(2 ^ 31)) (min (2 ^ 31 - 1) i)
  (BitVec.ofInt 32 t, t != i)

/-- The mixing function of the dither (R151). -/
def ditherMix (z : BitVec 64) : BitVec 64 :=
  let z1 := (z ^^^ (z >>> 31)) * 0x7FB5D329728EA185#64
  let z2 := (z1 ^^^ (z1 >>> 27)) * 0x81DADEF4BC2DD44D#64
  z2 ^^^ (z2 >>> 33)

/-- The dither in units of 2^−32 output LSB, for channel key, tick number and dither width (R151). -/
def dither (key : Word) (n : BitVec 64) (dw : Nat) : Int :=
  let w := ditherMix ((key.setWidth 64 <<< 32) ^^^ n)
  (((w.toNat % 2 ^ 32 + w.toNat / 2 ^ 32 : Nat) : Int) - 2 ^ 32 + 1) * 2 ^ dw

/-! ### Press flags (R163) -/

/-- The press flags of PRS_FLAGS. -/
inductive PFlag where
  | rinv | ainv | clip | wsat | isat | vnv | vof | vuf | wto | ill
deriving DecidableEq, Repr

/-- The bit of a press flag. -/
def PFlag.bit : PFlag → Nat
  | .rinv => 0 | .ainv => 1 | .clip => 2 | .wsat => 3 | .isat => 4
  | .vnv => 5 | .vof => 6 | .vuf => 7 | .wto => 8 | .ill => 9

/-- The flag word of a condition: the flag's bit when it holds. -/
def PFlag.when (f : PFlag) (b : Bool) : Word := if b then 1#32 <<< f.bit else 0#32

/-- The press flags of a vector result: VNV, VOF, VUF (R153). -/
def FRes.pflags (r : FRes) : Word :=
  PFlag.when .vnv r.nv ||| PFlag.when .vof r.of ||| PFlag.when .vuf r.uf

/-- The CFPF bits of a core result: NV, DZ, OF, UF (R198). -/
def FRes.cfpf (r : FRes) : Word :=
  (if r.nv then 1#32 else 0) ||| (if r.dz then 2#32 else 0) ||| (if r.of then 4#32 else 0) ||| (if r.uf then 8#32 else 0)

end Sys2Proof.Machine
end

