-- ==== Sys2Proof/Machine/State.lean ====
section
/-! DEFINITION. The state of the block as plain data, the reasons to stop, and the state after reset. -/

namespace Sys2Proof.Machine

/-! ### Limdon cores -/

/-- A cell of the operand cache: a value, or pending on the result of an operation in flight (R180–R182). -/
inductive Cell where
  | val (w : Word)
  | pend (id : Nat)
deriving DecidableEq, Repr

/-- One level's bank of cached cells (R227), newest first: operand cells, return addresses and shadow entries. -/
structure Bank where
  cells : List Cell := []
  rets : List Word := []
  shs : List Word := []
deriving DecidableEq, Repr

/-- Why a core stands at an instruction that has issued and not completed (R77, R87, R91, R209). -/
inductive CoreWait where
  | none | wft | seal | stitch | press
deriving DecidableEq, Repr

/-- A side-unit operation in flight (R179): the result it will write and the CFPF bits it will set. -/
structure SideOp where
  id : Nat
  res : Word
  fl : Word
deriving DecidableEq, Repr

/-- What an outstanding LDF or GET will return (R181). -/
inductive LoadSrc where
  /-- A word already taken, with the GFLAG word of a GET, and whether its message was lost (R119). -/
  | word (w : Word) (gflag : Option Word) (lost : Bool)
  /-- A far load from memory at a folded address; `ea` is the address popped. -/
  | far (a : Nat) (ea : Word)
  /-- A GET in mode WAIT whose entry has not shown a value (R113). -/
  | wait (entry : Nat)
deriving DecidableEq, Repr

/-- An outstanding LDF or GET. -/
structure Load where
  id : Nat
  src : LoadSrc
deriving DecidableEq, Repr

/-- A far store issued and not yet acknowledged (R181): its place in issue order, the address popped, the folded address
and the data. -/
structure FarStore where
  id : Nat
  ea : Word
  addr : Nat
  data : Word
  /-- The store took effect when it issued (R129). -/
  landed : Bool := false
deriving DecidableEq, Repr

/-- An issued microword that has not written back (R143): its address, the flags it will set and the producers whose
provisional values it read (R114). -/
structure Uop where
  addr : Nat
  flags : Word
  deps : List (Nat × Nat × Nat)
deriving DecidableEq, Repr

/-- The state of a press beyond its core control registers (R142, R145). DESIGN CHOICE: assumption 2. -/
structure Press where
  /-- Accumulators by 8 × lane + number; an unlisted one is zero. -/
  acc : SMap Accum := []
  /-- Vector registers by 16 × register + lane. -/
  v : SMap Word := []
  /-- Issued microwords, oldest first. -/
  flight : List Uop := []
deriving DecidableEq, Repr

/-- An exception that is decided and whose entry waits for the pending cells of the supervisor bank (R229, step 1): its
vector, code, EADDR and EPC, and whether the operand on top reads 0 in its handler (R203, R205). -/
structure Entry where
  vec : Nat
  code : Nat
  ea : Word
  epc : Word
  zero : Bool
deriving DecidableEq, Repr

/-- Transaction states of a tile (R76); `idle` is outside any transaction. -/
inductive TxState where
  | idle | open_ | stitched | aborting | stopped
deriving DecidableEq, Repr

/-- A slot published in the tick (R83). -/
structure Pub where
  value : Word
  conc : Bool
  sealed_ : Bool
deriving DecidableEq, Repr

/-- The tick transaction of a tile. -/
structure Tx where
  st : TxState := .idle
  /-- Cause codes that have fallen on the tile this tick (R79, R99). -/
  causes : NSet := []
  self : Nat := 0
  /-- Fault class of the read or message behind cause UNCORR (R101), and the unit of that class where it is not the tile's or the
  quire's (R261). -/
  ucls : Nat := 0
  uunit : Option Nat := none
  /-- STITCH has completed (R78). -/
  closed : Bool := false
  /-- Consumed-from vector: the set of its bits (R85). -/
  cons : NSet := []
  depth : Nat := 0
  frozen : Bool := false
  maxDepth : Nat := 0
  /-- A SEAL completed at or after the first deckle cycle (R115). -/
  deckleSeal : Bool := false
  pubs : SMap Pub := []
  /-- Ledger granules stored to this tick (R92). -/
  dirty : NSet := []
  /-- Ledger granules waiting for write-through, oldest first (R126). -/
  wtq : List Nat := []
  /-- A granule of the write-through was lost on the way (R122): it stays unacknowledged. -/
  wtLost : Bool := false
  /-- Microwords, PUTs and bulk granules charged this tick (R246). -/
  pis : Nat := 0
  pub : Nat := 0
  arc : Nat := 0
  /-- A press, publish or bulk request was held this tick (R258). -/
  heldPis : Bool := false
  heldPub : Bool := false
  heldArc : Bool := false
  /-- A far access of the tile to a logical tile, by its consumed-from index, is held under R15. -/
  farHeld : Option Nat := none
  /-- The cycle folio ran out and the core holds (R81). -/
  hold : Bool := false
  /-- The tile was in service at the edge that opened the tick, so its quire start opens its transaction (R139, R140). -/
  ready : Bool := false
  /-- The tile takes part in the running tick (R76). -/
  part : Bool := false
  /-- The tile was released before tick start, and its quire has not started since: it runs (R140). -/
  early : Bool := false
  /-- The cycle from TE at which the cycle folio began to count (R62, R251). -/
  since : Nat := 0
  /-- TSTAT for the next quire start (R100). -/
  verdict : Word := 0
  /-- Ledger restore queued by the last stitch (R93). -/
  restore : NSet := []
deriving DecidableEq, Repr

/-- A Limdon core with its bank, registers, press and transaction. DESIGN CHOICE: assumption 2. -/
structure Core where
  /-- Released or restarted, and not halted. -/
  on : Bool := false
  /-- Halted by a failed entry, or failed. -/
  halted : Bool := false
  pc : Word := 0
  user : Bank := {}
  sup : Bank := {}
  ccr : SMap Word := []
  /-- LOOPST with the last valid DEPTH and FLOOR (R6). -/
  loopEff : Word := 0
  /-- The keeper core's non-maskable event is pending (R239). -/
  nmePend : Bool := false
  latch : Bool := false
  wait : CoreWait := .none
  side : List SideOp := []
  loads : List Load := []
  unack : List FarStore := []
  nextId : Nat := 0
  /-- The shadow of TICK_HI (R64). -/
  tickHi : Word := 0
  /-- The tick the tile executes, which changes at the quire start (R220). -/
  tick : BitVec 64 := 0
  press : Press := {}
  tx : Tx := {}
  /-- A store scanner dooms the tile's next tick (R306). -/
  doomNext : Bool := false
  /-- The image slot from which the tile's press store was loaded (R171). -/
  slot : Nat := 0
  /-- An exception that waits for pending cells (R229). -/
  entry : Option Entry := none
  /-- The instruction that retired last is slot 1 of a pair whose slot 2 is the next command (R175). -/
  paired : Bool := false
  /-- Old words of registers that a CCRW has changed since the last SYNC, by index (R189). -/
  stale : SMap Word := []
  /-- The bytes of the fetch words that the loop buffer holds, from the first to the end (R185). -/
  lbuf : Option (Nat × Nat) := none
deriving DecidableEq, Repr

/-! ### The tick and the spine -/

/-- The tick generator's state that no register holds (R54, R57, R64). -/
structure Tick where
  count : BitVec 64 := 0
  resid : Nat := 0
  period : Nat := 0
  /-- The latest cycle from TE that an event of the tick has named. -/
  cycle : Nat := 0
  deadline : Bool := false
  deckle : Bool := false
  frozen : Bool := false
  /-- Quires started in this tick. -/
  started : NSet := []
  /-- High halves latched for each curator (R64). -/
  shPrg : Word := 0
  shGrd : Word := 0
  mediaShPrg : Word := 0
  mediaShGrd : Word := 0
  media : BitVec 64 := 0
  /-- The offset of the last lock of the PTP servo: media count minus TCK_COUNT (R67, R336). -/
  ptpOfs : BitVec 64 := 0
  /-- A tick has run since reset: a restart carries n + 1 (R63). -/
  ran : Bool := false
  /-- Both STOP bits stood at the stitch: the next edge is the final one (R66). -/
  last : Bool := false
  /-- The strap-selected source has been adopted (R65). -/
  adopted : Bool := false
  /-- The part of a step that the steering's rate limit has gathered, in 0.01 ppm × 2,000,000,000 (R67). -/
  slew : Nat := 0
  /-- TICK_OUT and WCLK_OUT rose at the last edge (R72). -/
  tickOut : Bool := false
  wclkOut : Bool := false
deriving DecidableEq, Repr

/-- A slot or SEAL message (R105). -/
structure Msg where
  slot : Nat
  value : Word
  conc : Bool
  prov : Bool
  isSeal : Bool
  depth : Nat
  src : Nat
  world : World
  xw : Bool
  tpar : Bool
deriving DecidableEq, Repr

/-- A place of a quire mirror (R109–R115). -/
structure Place where
  /-- A value of the current tick has been delivered. -/
  has : Bool := false
  value : Word := 0
  conc : Bool := false
  prov : Bool := false
  depth : Nat := 0
  src : Nat := 0
  lost : Bool := false
  /-- The slot's most recent sealed or committed value. -/
  hasLast : Bool := false
  last : Word := 0
  lastConc : Bool := false
deriving DecidableEq, Repr

/-- The spine. -/
structure Spine where
  /-- Messages of this tick by injector, in issue order (R106). -/
  log : SMap (List Msg) := []
  /-- Messages delivered to quire q from injector i, at 65q + i. -/
  cursor : SMap Nat := []
  /-- Mirror places by 4096q + entry. -/
  place : SMap Place := []
  /-- Ingress slots whose frame has published them in this tick. -/
  ingress : SMap Pub := []
  /-- Check failures of each link this tick, at 2q + l. -/
  fails : SMap Nat := []
  /-- Links, as 2q + l, whose return is requested at the next edge and that have lock. -/
  reen : NSet := []
  /-- Links, as 2q + l, that are retired (R120). -/
  retired : NSet := []
  /-- Packets in the replay buffer of each link, at 2q + l, oldest first (R120). -/
  replay : SMap (List Packet) := []
  /-- The latched copy of the slot table, subscription maps, concealment formats, folios and region table, by address
  (R104, R244, R263, R290). -/
  lat : SMap Word := []
deriving DecidableEq, Repr

/-- The concealment history of a slot (R263). -/
structure Hist where
  h1 : Word := 0
  h2 : Word := 0
  cnt : Nat := 16
  lastc : Bool := false
deriving DecidableEq, Repr

/-- What the stitch committed for a slot: the value, and whether it is a concealment candidate, which egress flags (R265,
R331). -/
structure Committed where
  value : Word
  cand : Bool
deriving DecidableEq, Repr

/-- The concealment engine. -/
structure Conceal where
  hist : SMap Hist := []
  /-- A stitch has happened: every slot that no entry lists was concealed in it. -/
  stitched : Bool := false
  /-- Committed values of the last stitch by slot; an unlisted slot is a concealed 0. -/
  out : SMap Committed := []
  /-- Length of the run of concealed stitches in progress, programme and guard (R265's CUR_CONC). -/
  runPrg : Nat := 0
  runGrd : Nat := 0
deriving DecidableEq, Repr

/-- A load that a quire controller is making (R131, R134, R139). -/
inductive QLoad where
  | takeover (j : Nat) (k : Nat)
  /-- A LOADRES of an image slot and a ledger pair, as the maps named them at the write (R134). -/
  | loadres (slot pair : Nat)
deriving DecidableEq, Repr

/-- A quire controller (R127, R130–R136). -/
structure Quire where
  /-- IMGMAP and LEDMAP where they differ from the identity, by index 0–16. -/
  imgMap : SMap Nat := []
  ledMap : SMap Nat := []
  /-- Ledger granules whose selector names copy B, at 512 × pair + granule. -/
  sel : NSet := []
  load : Option QLoad := none
  /-- The load has begun: at once, or at the edge after the event that asked for it. -/
  loadOn : Bool := false
  /-- The reserve is released at the quire start of the next tick (R134). -/
  rsvNext : Bool := false
  /-- The logical tile of the armed handover (R135). -/
  armed : Option Nat := none
  /-- Curator messages held through a takeover load, with their logical numbers, in order (R236). -/
  heldMsg : List (Nat × Word) := []
  /-- Image slots that hold a verified image (R134). -/
  verified : NSet := []
  /-- Accession of the last patch written to an image slot since the bundle load (R171). -/
  patch : SMap Word := []
  /-- Whole ticks for which the quire has been idle, and whether it has been in use in the running tick (R449). -/
  idle : Nat := 0
  busy : Bool := false
  /-- Positions whose failure the curator has been told of (R267, R274), and those that failed at the stitch that has just run
  (R136). -/
  told : NSet := []
  fresh : NSet := []
  /-- Failed positions whose test begins at the next edge, and the roles that tested positions take there (R130, R133). -/
  readmit : NSet := []
  tested : SMap Nat := []
  /-- The quire has reached its power stage since the main die left reset (R436). -/
  raised : Bool := false
deriving DecidableEq, Repr

/-! ### Budgets, evidence, memory -/

/-- A request that a spent folio holds, to be charged and served at the next tick edge in issue order (R248): a curator's
write, read or bulk transfer of the control space, or a host's access to BAR2 or to the staging region, a doorbell or a release,
behind which the port's credits are withheld (R256). -/
inductive HeldReq where
  | wr (w : World) (a : Nat) (v : Word)
  | rd (w : World) (a : Nat)
  | bulk (w : World) (op left : Nat)
  | engine (e granule : Nat) (err err2 : List Nat)
  | flash (c op left : Nat)
  | host (h bar off : Nat) (op : HostOp) (g : Nat) (err err2 : List Nat)
  | page (h : Nat) (op : PageOp) (v : Word)
  | release (h : Nat) (len : Word)
deriving DecidableEq, Repr

/-- Whether a held request is one of a world's curator, whose core then stalls (R257). -/
def HeldReq.by (w : World) : HeldReq → Bool
  | .wr v _ _ | .rd v _ => v == w
  | _ => false

/-- The host port that a held request came from. -/
def HeldReq.port : HeldReq → Option Nat
  | .host h _ _ _ _ _ _ | .page h _ _ | .release h _ => some h
  | _ => none

/-- The budget enforcers' counters that no register shows (R246, R258). -/
structure Budget where
  /-- Granules charged this tick, at 8 × activity + channel. -/
  act : SMap Nat := []
  heldAct : NSet := []
  /-- Host-stream units charged this tick, by port. -/
  gal : SMap Nat := []
  heldGal : NSet := []
  /-- Control-space accesses and bulk granules this tick, by world number. -/
  ctl : SMap Nat := []
  bulk : SMap Nat := []
  heldCur : NSet := []
  /-- Requests held by a spent folio, in issue order. -/
  held : List HeldReq := []
deriving DecidableEq, Repr

/-- An evidence record (R272), without its CRC, which is computed. -/
structure EvRec where
  tick : Word
  cls : Nat
  flags : Nat
  unit : Nat
  detail : Nat
  count : Nat
deriving DecidableEq, Repr

/-- The evidence ring of the keeper core (R273): held records of a page being programmed, then staged records. -/
structure Evidence where
  held : List EvRec := []
  staged : List EvRec := []
  /-- A page was called for while another is being programmed: it follows it. -/
  due : Bool := false
deriving DecidableEq, Repr

/-- A GDDR7 channel's state that no register shows (R298–R301). -/
structure Chan where
  /-- Whole ticks without a request, and whether the running tick has had one (R298). -/
  idle : Nat := 0
  busy : Bool := false
  /-- Gatherings found detected-uncorrectable in the current window. -/
  badGath : NSet := []
  /-- Corrected reads this tick. -/
  corr : Nat := 0
  /-- Cause of a retirement that is due (R299), 0 for none. -/
  due : Nat := 0
  /-- The patrol's next gathering. -/
  patrol : Nat := 0
  /-- The step of the recalibration cycle that the next slice adjusts (R296): 0 WCK phase, 1 read eye, 2 write eye, 3 PAM3 levels. -/
  setting : Nat := 0
  /-- Data bits that miscorrections left wrong in this channel's copy of a granule, by its address (R281, R293). -/
  wrong : SMap (List Nat) := []
deriving DecidableEq, Repr

/-- The memory controller. -/
structure MemSys where
  chan : SMap Chan := []
  /-- Tick count of the start of the 65,536-tick window. -/
  window : Nat := 0
  /-- Freed ranges still being zeroed, oldest first: the entry, the first byte and the byte after the last (R290). -/
  zeroing : List (Nat × Nat × Nat) := []
  /-- The channel whose recalibration slice is next, and whether the tick has had its slice (R296). -/
  turn : Nat := 0
  sliced : Bool := false
deriving DecidableEq, Repr

/-! ### Stage ports and network ports -/

/-- The content of a Maldex egress frame, as latched at a stitch (R316). -/
structure TxFrame where
  tick : Nat
  hold : Bool
  nch : Nat
  chans : List Word
  cmap : NSet
  ctl : List Byte
deriving DecidableEq, Repr

/-- The content of an accepted Maldex ingress frame (R314). -/
structure RxFrame where
  chans : List Word
  cmap : NSet
  ctl : List Byte
deriving DecidableEq, Repr

/-- A Maldex port's state that no register shows (R317–R323). -/
structure MdxPort where
  /-- The EN bit has taken effect (R319). -/
  live : Bool := false
  /-- An accepted frame in the running tick, and one held for the next. -/
  got : Bool := false
  gotNext : Bool := false
  /-- The port's or the pair's frame of the running and of the next tick has been taken (R320). -/
  took : Bool := false
  tookNext : Bool := false
  /-- Consecutive ticks with, and without, an accepted frame (R318). -/
  good : Nat := 0
  empty : Nat := 0
  /-- The control event queue, oldest first (R321). -/
  evq : List Word := []
  /-- The last valid N since the latch (R323). -/
  txn : Nat := 0
  /-- The frame latched at the last stitch. -/
  frame : Option TxFrame := none
  /-- The bytes of the last frame sent. -/
  sent : List Byte := []
deriving DecidableEq, Repr

/-- A TDM port's state that no register shows (R325, R326). -/
structure TdmPort where
  /-- A frame of the running tick's window has completed, and one of the next tick's. -/
  got : Bool := false
  gotNext : Bool := false
  heldNext : List Word := []
  /-- The words latched at the last stitch, and how often they have been sent. -/
  latch : Option (List Word) := none
  sends : Nat := 0
  /-- The words of the last frame sent. -/
  sent : List Word := []
deriving DecidableEq, Repr

/-- The stage ports and the egress stage (R313–R332). -/
structure Stage where
  mdx : SMap MdxPort := []
  /-- Frames accepted for the next tick, in order of completion, with their port identity. -/
  held : List (Nat × RxFrame) := []
  /-- What the next edges publish, in order of frame completion: a Maldex identity below 32, 32 and a TDM port, or 64 and a
  receive stream with the first media count of its packet and how many it covers (R106). -/
  order : List (Nat × Nat × Nat) := []
  tdm : SMap TdmPort := []
  /-- Hush pins sampled low at the last edge, and pins whose filtered state is low (R329). -/
  hushPrev : NSet := []
  hushLow : NSet := []
  /-- Plugged packs, as 16 × port + pack, from plug events (R322, R330). -/
  plugs : NSet := []
  /-- Frames latched at the last stitch have not begun yet. -/
  frameDue : Bool := false
deriving DecidableEq, Repr

/-- A transmit stream (R339): the first media count, the values gathered, and packets (timestamp and payload). -/
structure TxStream where
  base : BitVec 64 := 0
  vals : List (List Word) := []
  /-- The packet that the stitch completed, the one due at the edge, and the last one sent, with its tag. -/
  made : Option (Word × List Byte) := none
  ready : Option (Word × List Byte) := none
  sent : Option (Option Nat × Word × List Byte) := none
deriving DecidableEq, Repr

/-- An Ethernet port's queues (R340). -/
structure EthPort where
  crx : List (List Byte) := []
  ctx : List (List Byte) := []
  /-- Control frames sent at the last edge. -/
  sent : List (List Byte) := []
  /-- The transmit window, by word. -/
  win : SMap Word := []
deriving DecidableEq, Repr

/-- The network ports (R333–R341). -/
structure Eth where
  port : SMap EthPort := []
  /-- Received samples waiting for their tick, by stream: at 64 × media count (modulo 2^32) + channel. -/
  rx : SMap (SMap Word) := []
  /-- Samples published in the running tick, as 64 × stream + channel. -/
  now : NSet := []
  tx : SMap TxStream := []
  /-- Consecutive offsets within ±250 ns, and beyond ±1 µs (R336). -/
  good : Nat := 0
  bad : Nat := 0
  /-- Timestamps of the last event message received and sent (R335). -/
  stampRx : BitVec 64 := 0
  stampTx : BitVec 64 := 0
  /-- correctionField of the last event message sent, and whether its UDP checksum was sent as 0 (R335). -/
  corrTx : BitVec 64 := 0
  noSum : Bool := false
deriving DecidableEq, Repr

/-! ### Scan engines and store scanners -/

/-- A scan engine's progress (R308, R309). -/
structure Engine where
  block : Nat := 0
  /-- Granules of the block moved so far, and granules moved in this tick. -/
  moved : Nat := 0
  rate : Nat := 0
  /-- A granule of the block could not be read; the bytes of the block as they were read. -/
  bad : Bool := false
  data : List Byte := []
  /-- The latched entries of the target's region and of the expected table's as the start found them, and which of the two (0, 1)
  has been freed or re-latched since (R310). -/
  rgns : List (List Nat) := []
  cut : NSet := []
deriving DecidableEq, Repr

/-- The scanners (R303–R310). -/
structure Scan where
  engine : SMap Engine := []
  /-- Expected values of image-slot blocks, at 4096 × quire + 160 × slot + block (R305). -/
  expected : SMap Word := []
  /-- Image slots that hold an image, as 17 × quire + slot, and the logical tile whose image it is where that is not the
  slot's own number (0 for slot 16). -/
  holds : NSet := []
  img : SMap Nat := []
  /-- Scans made by each quire's scanner, modulo 160. -/
  count : SMap Nat := []
deriving DecidableEq, Repr

/-! ### Panel and serial ports -/

/-- A panel pin's state that no register shows (R344–R347). -/
structure PanelPin where
  /-- The accepted state: pressed or plugged. -/
  active : Bool := false
  /-- Consecutive samples in the other state. -/
  run : Nat := 0
  /-- A press whose held event has not been given. -/
  holding : Bool := false
  /-- Level of the last touch event of the pair that begins at this pin. -/
  level : Nat := 0
  /-- The level that stands on the pin from outside, as last sampled. -/
  ext : Bool := false
deriving DecidableEq, Repr

/-- The panel (R342–R349): pins, and the event queue of each world by its number. -/
structure Panel where
  pin : SMap PanelPin := []
  evq : SMap (List Word) := []
deriving DecidableEq, Repr

/-- A UART's state that no register shows (R350–R358). -/
structure Uart where
  /-- Receive items, oldest first. -/
  rx : List Word := []
  /-- Characters waiting to be sent, oldest first. -/
  tx : List Byte := []
  /-- The bits on the line of the character in the transmit shifter, from its start bit. -/
  shift : Option (List Bool) := none
  /-- The divisor of the last character in each direction, 0 until the first (R352), and the divisors that writes of SER_BAUD have
  replaced since the last received character, newest first. -/
  rxDiv : Nat := 0
  txDiv : Nat := 0
  divs : List Nat := []
  /-- The last character received was a break (R357). -/
  broke : Bool := false
  /-- The idle timer of R355 runs. -/
  idle : Bool := false
  /-- The next character is the one that woke the device (R358). -/
  wake : Bool := false
  /-- The bits of the last character sent. -/
  sent : Option (List Bool) := none
  /-- Firmware has written SER_CFGn (R44, R506). -/
  conf : Bool := false
deriving DecidableEq, Repr


/-! ### Host ports -/

/-- A host port's state that no register shows (R360–R373). -/
structure HostPort where
  /-- The last accepted doorbell value of each ring. -/
  db : SMap Word := []
  /-- Device-side index writes that have landed and are not yet applied, oldest first: ring, writing core, value. -/
  idx : List (Nat × Nat × Word) := []
  /-- Vectors that are due a notice at the next edge. -/
  due : NSet := []
  /-- MSI-X enable, masked vectors, pending bits, and the vectors of the last messages sent. -/
  msix : Bool := false
  /-- Bus Master Enable and the D3hot state of the configuration header, and whether AER holds a poisoned completion (R360). -/
  bme : Bool := false
  d3 : Bool := false
  aer : Bool := false
  mask : NSet := []
  pba : NSet := []
  /-- Address and data words of the MSI-X table, by word number, and the BAR registers as the host wrote them. -/
  table : SMap Word := []
  bars : SMap Word := []
  sent : List Nat := []
  /-- HSTATUS.RELERR, and HSTATUS as last shown to the host. -/
  relErr : Nat := 0
  shown : Nat := 0
  /-- The data of the last completed host read, and whether they were completed with EP set. -/
  rd : List Byte := []
  ep : Bool := false
deriving DecidableEq, Repr

/-! ### Boot and trust -/

/-- An entry of a world's handle table (R388). -/
structure Handle where
  used : Bool := false
  gen : Nat := 0
  purpose : Nat := 0
  acc : Word := 0
deriving DecidableEq, Repr

/-- What a vitrine command has made and writes when its data has moved (R389): its status, the bytes for DST, and the new LEN. -/
structure TruOut where
  status : Nat := 0
  bytes : List Byte := []
  len : Option Nat := none
deriving DecidableEq, Repr

/-- The trust path (R374–R397). -/
structure Trust where
  /-- The fuse map: bytes that are not 0; and its pin entries as the last reset applied them (R29, R30, R47). -/
  fuses : SMap Byte := []
  pinMap : SMap Byte := []
  /-- Fuse bytes 0x080–0x100 as read when verification started (R379). -/
  snap : List Byte := []
  /-- Flash slot being staged: 1 A, 2 B, 0 none. -/
  staging : Nat := 0
  /-- The vitrine is open (R386), and its handles by 64 × world + entry. -/
  vitrine : Bool := false
  handles : SMap Handle := []
  /-- Seeds of the per-boot key, and the boot certificate (R392). -/
  seed : List Byte := []
  cert : List Byte := []
  /-- The identity key is usable (R391). -/
  ident : Bool := false
  /-- Bytes staged, then TOTAL of the bundle being loaded or running. -/
  total : Nat := 0
  /-- SLOT of its colophon, and its SHA-256 at its last verification (R376, R394). -/
  slot : Byte := 0
  digest : List Byte := []
  /-- Results of vitrine commands that wait for their transfers, by world. -/
  out : SMap TruOut := []
  /-- The TAP halts these cores, lets these of them run one instruction, and has read this word (R396). -/
  tapHalt : NSet := []
  tapStep : NSet := []
  tapData : Word := 0
deriving DecidableEq, Repr

/-- A standalone press patch held pending for a quire (R482). -/
structure PendPatch where
  q : Nat
  acc : Word
  start : Nat
  words : List Byte
  slots : NSet
deriving DecidableEq, Repr

/-- A replacement in progress (R476–R482). -/
structure LiveOffer where
  world : Option World
  port : Nat
  slot : Nat
  base : Nat
  staged : Nat
deriving DecidableEq, Repr

/-- Live service (R475–R482). -/
structure Live where
  world : Option World := none
  /-- Flash slot of the source (1 A, 2 B), 0 for the staging region; its address and TOTAL. -/
  slot : Nat := 0
  base : Nat := 0
  total : Nat := 0
  /-- Region entries that the loader claimed at acceptance. -/
  rgns : NSet := []
  /-- Image slots that hold the new image, as 17 × quire + slot. -/
  done : NSet := []
  patches : List PendPatch := []
  /-- Standalone patches that image slots carry. -/
  kept : List PendPatch := []
  /-- An offer under verification: the curator that made it, none for a RELEASE of the host port given; its slot, address and
  staged length (R476). -/
  offer : Option LiveOffer := none
  /-- The SHA-256 of the offered bundle at its verification. -/
  digest : List Byte := []
  /-- A curator whose block reset reloads it from the source (R479). -/
  cur : Option World := none
deriving DecidableEq, Repr

/-! ### Flash -/

/-- One array operation. -/
inductive FlashPrim where
  | program (off : Nat) (data : List Byte)
  /-- An option record, whose page is the next one when the bank starts it (R411). -/
  | append (rec : List Byte)
  | erase (b : Nat)
  | blank (off : Nat)
deriving DecidableEq, Repr

/-- A command's array operations in order (R405): its channel, whether FLS_CMD shows it, and how many operations end the
command. -/
structure FlashJob where
  ch : Nat
  reg : Bool
  /-- A job of the controller's own: the resolution of the activation log (R415) or the lowering sequence (R412). -/
  log : Bool := false
  ops : List FlashPrim
  left : Nat
  started : Bool := false
  /-- The slot that the command makes active when it ends (R416), 0 for none. -/
  act : Nat := 0
deriving DecidableEq, Repr

/-- The flash controller (R398–R420). -/
structure Flash where
  jobs : List FlashJob := []
  /-- Pages programmed since their block was erased, and pages left undefined (R407), by offset / 4096. -/
  prog : NSet := []
  undef : NSet := []
  /-- Granules programmed at the start of a page whose rest stays blank (R413), where they are fewer than 128. -/
  short : SMap Nat := []
  /-- The lowering sequence: 0 none, 1 the erase of every block but 126 and 127, 2 their erase, 3 its record (R412). -/
  lower : Nat := 0
  /-- Writes to the activation log that wait for the verification of the boot (R415). -/
  logOps : List FlashPrim := []
  /-- The 64 bytes of the option record in force, none for the defaults of R50. -/
  opt : Option (List Byte) := none
  /-- Words of the lowering key taken (R412). -/
  key : Nat := 0
  /-- Page, by offset / 4096, that the evidence log writes next (R418). -/
  evPage : Nat := 15360
deriving DecidableEq, Repr

/-! ### Clocks, reset, power, watchdogs -/

/-- Reset, rails and sleep (R421–R460). -/
structure Power where
  /-- PWR_EN outputs driven high, and rails whose PG has risen. -/
  en : NSet := [0]
  good : NSet := []
  /-- Failed attempts to raise the rails (R443). -/
  tries : Nat := 0
  /-- The main die stays off until the next reset. -/
  dead : Bool := false
  /-- The main die has left reset; quires that have reached their power stage show it in QRC_STAT.PWR. -/
  up : Bool := false
  /-- The sleep state: 0 none, 1 Standby, 2 Deep sleep; a wake latched; a wake under way. -/
  sleep : Nat := 0
  wake : Bool := false
  waking : Bool := false
  /-- GDDR7 has been held in self-refresh since sleep entry. -/
  held : Bool := false
  /-- The device is in reset, and the cause for which it drives nRESET itself (a bit of KPR_RST_CAUSE). -/
  inReset : Bool := false
  drive : Option Nat := none
  /-- VDD_STBY is lost. -/
  off : Bool := false
  /-- The key of KPR_RST_ASSERT has been written. -/
  key : Bool := false
  /-- The reference the switch in progress goes to. -/
  switchTo : Nat := 0
  /-- Driven sleep-state pin entries, as counted when the fuse map was applied (R455). -/
  driven : Nat := 0
  /-- Channels that pass the fast-wake check of the wake under way (R395). -/
  chk : Nat := 0
deriving DecidableEq, Repr

/-- A watchdog's state that no register shows: the window and mask in force, and words of the disable key taken. -/
structure Watch where
  openNow : Word := 0
  closeNow : Word := 400000
  reqNow : Word := 1
  key : Nat := 0
deriving DecidableEq, Repr


/-! ### The machine -/

/-- Why a step stops with a fault. Every exception, refusal and error flag of the hardware is a next state, so the model
faults for one reason only. -/
inductive Fault where
  /-- Raised by `step` for a command whose operands are not well formed (`Instr.wf`): no such command exists on the
  hardware. Safe: the machine stops where the hardware is never asked. -/
  | illFormed
deriving DecidableEq, Repr

/-- Why a step is refused. -/
inductive Refusal where
  /-- Raised by `exec` for a command that has no meaning yet, by its mnemonic. Safe. -/
  | notModelled (mnemonic : String)
deriving DecidableEq, Repr

/-- The state of the block. -/
structure State where
  /-- Commands waiting, first in first out (the model's own queue). -/
  pending : List Instr := []
  /-- How many free values have been drawn (the model's own counter). -/
  free : Nat := 0
  /-- The control space (R19): words that differ from their reset words, by address. -/
  ctl : SMap Word := []
  /-- Words of last valid field values, for registers with reserved values (R6), by address. -/
  eff : SMap Word := []
  /-- All memories under the binder code (R277) and the flash array, by folded address; an unlisted byte reads as
  `memDefault`. -/
  mem : List Host.Cell := []
  /-- Granules stored with poison set (R282), by folded address. -/
  poison : NSet := []
  /-- Codeword positions in which a stored granule differs from the codeword last written to it, by folded address
(R277, R281). -/
  upsets : SMap (List Nat) := []
  /-- Limdon cores by `CoreId.key`. -/
  cores : SMap Core := []
  tick : Tick := {}
  spine : Spine := {}
  conceal : Conceal := {}
  quires : SMap Quire := []
  budget : Budget := {}
  evidence : Evidence := {}
  memSys : MemSys := {}
  stage : Stage := {}
  eth : Eth := {}
  scan : Scan := {}
  panel : Panel := {}
  uart : SMap Uart := []
  host : SMap HostPort := []
  trust : Trust := {}
  live : Live := {}
  flash : Flash := {}
  power : Power := {}
  watch : SMap Watch := []
deriving DecidableEq, Repr

/-- The machine right after reset: the state a power-on reset leaves once its strap scan has ended, on a board whose VAL
pins are all open, with blank fuses and erased flash (assumptions 1 and 2): the keeper core runs at its ROM vector, its
watchdog counts (R463), and the reset cause word in retained memory says POR (R433). -/
def State.reset : State :=
  { ctl := [(0x0F00040200, 0x51#32)]
    mem := [(0x0F0005EFF8, 1#8)]
    cores := [(1090, { on := true })] }

end Sys2Proof.Machine
end

