-- ==== Sys2Proof/Machine/Ops.lean ====
section
/-! DEFINITION. The named operations over the state: cores, registers, memory, worlds, roles, evidence, events. -/

namespace Sys2Proof.Machine

/-- Outcome of a command. -/
abbrev Out := Host.Outcome State Fault Refusal

/-! ### Cores and their registers -/

/-- The key of a core: tiles by position 17q + j, then the curators, then the keeper core. -/
def coreKey : CoreId → Nat
  | .tile q j => 17 * q.val + j.val
  | .curator .prg => 1088
  | .curator .grd => 1089
  | .keeper => 1090

/-- The core of a quire position given by numbers. -/
def tileId (q j : Nat) : CoreId := .tile (Fin.ofNat 64 q) (Fin.ofNat 17 j)

def getCore (s : State) (c : CoreId) : Core := s.cores.get (coreKey c) {}
def setCore (s : State) (c : CoreId) (k : Core) : State := { s with cores := s.cores.set (coreKey c) k {} }
def modCore (s : State) (c : CoreId) (f : Core → Core) : State := setCore s c (f (getCore s c))

/-- The word of a core control register as the core holds it. -/
def ccr (k : Core) (r : Ccr) : Word := k.ccr.get r.idx r.resetWord
def setCcr (k : Core) (r : Ccr) (w : Word) : Core := { k with ccr := k.ccr.set r.idx w r.resetWord }
def ccrF (k : Core) (r : Ccr) (f : Fld) : Nat := f.get (ccr k r)
def setCcrF (k : Core) (r : Ccr) (f : Fld) (v : Nat) : Core := setCcr k r (f.putN (ccr k r) v)

/-- The level of a core (R222): supervisor or user. -/
def isSup (k : Core) : Bool := ccrF k .cstat Fd.cCstatLevel == 1

/-- Draws a free value: the state with the counter advanced. DESIGN CHOICE: assumption 3. -/
def drawFree (s : State) : Word × State := (Config.freeWord s.free, { s with free := s.free + 1 })

/-! ### The control space -/

/-- The word of a control register as the block holds it. -/
def reg (s : State) (r : Creg) : Word := s.ctl.get r.addr r.resetWord
def setReg (s : State) (r : Creg) (w : Word) : State := { s with ctl := s.ctl.set r.addr w r.resetWord }
def regF (s : State) (r : Creg) (f : Fld) : Nat := f.get (reg s r)
def setRegF (s : State) (r : Creg) (f : Fld) (v : Nat) : State := setReg s r (f.putN (reg s r) v)
/-- Raises a field by a number, saturating at its width. -/
def incRegF (s : State) (r : Creg) (f : Fld) (n : Nat) : State :=
  setRegF s r f (min (2 ^ f.len - 1) (regF s r f + n))

/-- Whether a block takes no new requests: its REQ bit is set, and the sequencer waits for it to be idle (R437, R438). DESIGN CHOICE: assumption 41. -/
def blockStopped (s : State) (b : Nat) : Bool := (reg s (.kprRstReq (b / 32))).getLsbD (b % 32)

/-- Whether the tick runs (R65). -/
def running (s : State) : Bool := regF s .tckCtl Fd.tckCtlRun == 1

/-- Addresses of the registers that each tick edge latches: the slot table and formats, the subscription maps, the
folios, the region table, the media streams, the host windows and rings (R104, R244, R263, R290, R341, R373). -/
def latched (a : Nat) : Bool :=
  (0x0F06000000 ≤ a && a < 0x0F06040000 && (a % 0x10000 == 4 || (0x100 ≤ a % 0x10000 && a % 0x10000 < 0x180 && a % 8 == 0))) ||
  (0x0F01100000 ≤ a && a < 0x0F01140000) || (0x0F01180000 ≤ a && a < 0x0F011C0000) ||
  (0x0F01200000 ≤ a && a < 0x0F0120B000) || (0x0F03001000 ≤ a && a < 0x0F03001400) ||
  (0x0F02000000 ≤ a && a < 0x0F02400000 && 0x8000 ≤ a % 0x10000) ||
  (0x0F05101000 ≤ a && a < 0x0F05101400) || (0x0F05102000 ≤ a && a < 0x0F05102400)

/-- The word of last valid field values (R6), for a register that can hold reserved values. -/
def regEff (s : State) (r : Creg) : Word := s.eff.get r.addr r.resetWord
def regEffF (s : State) (r : Creg) (f : Fld) : Nat := f.get (regEff s r)

/-- The latched registers that can hold reserved values (R6): stream maps and host rings. -/
def latchedEff (a : Nat) : Bool :=
  latched a && (decide (0x0F06000000 ≤ a) || (decide (0x0F05101000 ≤ a) && a % 16 == 8)) && a % 0x10000 != 4

/-- The word a latched register acts with: the latched copy while the tick runs, the register itself otherwise. DESIGN CHOICE: assumption 26. -/
def regLat (s : State) (r : Creg) : Word :=
  if running s then s.spine.lat.get r.addr r.resetWord
  else if latchedEff r.addr then regEff s r else reg s r
def regLatF (s : State) (r : Creg) (f : Fld) : Nat := f.get (regLat s r)

/-! ### Straps and worlds -/

/-- The code in force of strap VALm (R42). -/
def strap (s : State) (m : Nat) : Nat :=
  (reg s (.kprStrapEff (m / 8))).toNat / 2 ^ (4 * (m % 8)) % 16

/-- The number G of guard quires (R20, R36). -/
def guardQuires (s : State) : Nat :=
  match strap s 4 with
  | 0 => 4
  | 2 => 12
  | 3 => 16
  | _ => 8

/-- The world of a quire (R20). -/
def quireWorld (s : State) (q : Nat) : World := if 64 - guardQuires s ≤ q then .grd else .prg

/-- The world of a core; the keeper core belongs to neither. -/
def coreWorld (s : State) : CoreId → Option World
  | .tile q _ => some (quireWorld s q.val)
  | .curator w => some w
  | .keeper => none

/-- The world of a consumed-from index (R85, R243). -/
def indexWorld (s : State) (i : Nat) : World := quireWorld s (if i < 1024 then i / 16 else i - 1024)

/-- The world of a writer of control registers. -/
def writerWorld : Writer → Option World
  | .cur w => some w
  | .kpr => none

/-! ### Quires, roles and indices -/

def getQuire (s : State) (q : Nat) : Quire := s.quires.get q {}
def setQuire (s : State) (q : Nat) (x : Quire) : State := { s with quires := s.quires.set q x {} }
def modQuire (s : State) (q : Nat) (f : Quire → Quire) : State := setQuire s q (f (getQuire s q))
def imgMap (s : State) (q k : Nat) : Nat := (getQuire s q).imgMap.get k k
def ledMap (s : State) (q k : Nat) : Nat := (getQuire s q).ledMap.get k k

/-- The role of a position (R130). -/
def role (s : State) (q j : Nat) : Nat := regF s (.qrcPos q j) Fd.qrcPosRole

/-- The position that holds logical number `k` of a quire, or the reserve for `k = 16` (R14, R130). -/
def holder (s : State) (q k : Nat) : Option Nat := (List.range 17).find? (fun j => role s q j == k)

/-- The consumed-from index of a position (R85): its logical number, or 1024 + q for the reserve. -/
def consIndex (s : State) (q j : Nat) : Nat :=
  if role s q j < 16 then 16 * q + role s q j else 1024 + q

/-- The map-mask bit of a position (R109). -/
def maskBit (s : State) (q j : Nat) : Nat := min (role s q j) 16

/-- The position of a consumed-from index. -/
def indexHolder (s : State) (i : Nat) : Option (Nat × Nat) :=
  if i < 1024 then (holder s (i / 16) (i % 16)).map (fun j => (i / 16, j))
  else (holder s (i - 1024) 16).map (fun j => (i - 1024, j))

/-- The folio index of a tile core (R243). -/
def folioIndex (s : State) (q j : Nat) : Nat := consIndex s q j

/-- Whether a position is released and in service: RUN for a logical tile, RSV_RUN for the reserve. -/
def inService (s : State) (q j : Nat) : Bool :=
  let r := role s q j
  if r < 16 then (regF s (.qrcStat q) Fd.qrcStatRun) / 2 ^ r % 2 == 1
  else if r = 16 then regF s (.qrcStat q) Fd.qrcStatRsvRun == 1 else false

def setRun (s : State) (q k : Nat) (b : Bool) : State :=
  let w := regF s (.qrcStat q) Fd.qrcStatRun
  let base := if w / 2 ^ k % 2 = 1 then w - 2 ^ k else w
  setRegF s (.qrcStat q) Fd.qrcStatRun (if b then base + 2 ^ k else base)

/-! ### Memory -/

/-- What an unlisted byte reads as: 0xFF in the flash array (erased), 0 elsewhere (assumption 4). -/
def memDefault (a : Nat) : Byte := if 0x0F80000000 ≤ a && a < 0x0F84000000 then 0xFF else 0

/-- DESIGN CHOICE: assumption 4. -/
def memByte (s : State) (a : Nat) : Byte := SMap.get s.mem a (memDefault a)
def setByte (s : State) (a : Nat) (b : Byte) : State := { s with mem := SMap.set s.mem a b (memDefault a) }

/-- A little-endian number of `n` bytes. -/
def memNat (s : State) (a : Nat) : Nat → Nat
  | 0 => 0
  | n + 1 => (memByte s a).toNat + 256 * memNat s (a + 1) n

/-- Writes `n` bytes of a number, least significant first. -/
def setNat (s : State) (a : Nat) (v : Nat) : Nat → State
  | 0 => s
  | n + 1 => setNat (setByte s a (BitVec.ofNat 8 v)) (a + 1) (v / 256) n

def memWord (s : State) (a : Nat) : Word := BitVec.ofNat 32 (memNat s a 4)
def setWord (s : State) (a : Nat) (w : Word) : State := setNat s a w.toNat 4

/-- Bytes of memory as a list. -/
def memBytes (s : State) (a : Nat) : Nat → List Byte
  | 0 => []
  | n + 1 => memByte s a :: memBytes s (a + 1) n

def setBytes (s : State) (a : Nat) : List Byte → State
  | [] => s
  | b :: l => setBytes (setByte s a b) (a + 1) l

/-- The number of little-endian bytes in a list. -/
def leNat : List Byte → Nat
  | [] => 0
  | b :: l => b.toNat + 256 * leNat l

/-- The first byte of the granule of an address. -/
def granule (a : Nat) : Nat := a / 32 * 32

def getChan (s : State) (c : Nat) : Chan := s.memSys.chan.get c {}
def modChan (s : State) (c : Nat) (f : Chan → Chan) : State :=
  { s with memSys := { s.memSys with chan := s.memSys.chan.set c (f (getChan s c)) {} } }

/-- Whether an address lies in a range. -/
def inSpan (a n x : Nat) : Bool := decide (a ≤ x) && decide (x < a + n)

/-- The granules of a range are written whole: no channel's copy of them stands wrong any more (R281, R284). -/
def clearWrong (a n : Nat) (s : State) : State :=
  (s.memSys.chan.filter (fun e => e.2.wrong.any (fun x => inSpan a n x.1))).foldl (fun t e =>
    modChan t e.1 (fun y => { y with wrong := y.wrong.filter (fun x => !inSpan a n x.1) })) s

/-- Zeroes a range: unlisted bytes below the flash array read 0. -/
def zeroRange (s0 : State) (a n : Nat) : State :=
  let s := clearWrong a n s0
  { s with mem := s.mem.filter (fun e => decide (e.1 < a) || decide (a + n ≤ e.1))
           poison := s.poison.filter (fun g => decide (g < a) || decide (a + n ≤ g))
           upsets := s.upsets.filter (fun e => decide (e.1 < a) || decide (a + n ≤ e.1)) }

/-- Copies a range between memories whose unlisted bytes read alike; poison marks move with their granules. -/
def copyRange (s0 : State) (src dst n : Nat) : State :=
  let s := clearWrong dst n s0
  let cells := (s.mem.filter (fun e => decide (src ≤ e.1) && decide (e.1 < src + n))).map (fun e => (e.1 - src + dst, e.2))
  { s with mem := s.mem.filter (fun e => decide (e.1 < dst)) ++ cells ++ s.mem.filter (fun e => decide (dst + n ≤ e.1))
           poison := NSet.addAll (s.poison.filter (fun g => decide (g < dst) || decide (dst + n ≤ g)))
             ((s.poison.filter (fun g => decide (src ≤ g) && decide (g < src + n))).map (fun g => g - src + dst))
           upsets := s.upsets.filter (fun e => decide (e.1 < dst) || decide (dst + n ≤ e.1)) }

/-- Copies a range from any memory, the flash array included, into one whose unlisted bytes read 0; the destination's
granules are written whole. -/
def copyAny (s : State) (src dst n : Nat) : State :=
  if src < 0x0F80000000 then copyRange s src dst n
  else
    let t := clearWrong dst n s
    setBytes { t with
      poison := t.poison.filter (fun g => decide (g < dst) || decide (dst + n ≤ g))
      upsets := t.upsets.filter (fun e => decide (e.1 < dst) || decide (dst + n ≤ e.1)) } dst (memBytes s src n)

/-- Base of a tile position's SRAM in the folded space (R277); its press store stands 0x2_0000 above. -/
def tileBase (q j : Nat) : Nat := 0x0100000000 + (17 * q + j) * 0x40000
/-- Base of a quire archive. -/
def archBase (q : Nat) : Nat := 0x0200000000 + q * 0x400000
/-- Base of an image slot in an archive (R128). -/
def imgBase (q slot : Nat) : Nat := archBase q + slot * 0x28000
/-- Base of a ledger pair in an archive (R128). -/
def ledBase (q pair : Nat) : Nat := archBase q + 0x2A8000 + pair * 0x8000
/-- Base of a core's local memory. -/
def localBase : CoreId → Nat
  | .tile q j => tileBase q.val j.val
  | .curator .prg => 0x0E00000000
  | .curator .grd => 0x0E00040000
  | .keeper => 0x0E00100000
def retBase : Nat := 0x0F00050000
def flashBase : Nat := 0x0F80000000
def gddrBase : Nat := 0x0400000000

/-- Whether copy B of a ledger granule is the committed one (R127). -/
def selB (s : State) (q pair g : Nat) : Bool := (getQuire s q).sel.contains (512 * pair + g)
/-- Address of the committed copy of a ledger granule. -/
def committedAt (s : State) (q pair g : Nat) : Nat := ledBase q pair + (if selB s q pair g then 0x4000 else 0) + 32 * g
/-- Address of the in-flight copy of a ledger granule. -/
def inflightAt (s : State) (q pair g : Nat) : Nat := ledBase q pair + (if selB s q pair g then 0 else 0x4000) + 32 * g

/-! ### GDDR7 geometry (R286–R288) -/

def memChans (s : State) : Nat := regF s .memCfg Fd.memCfgChans
def gDup (s : State) : Nat := regF s .memGdup Fd.memGdupCount
def gCh (s : State) : Nat := regF s .memGch Fd.memGchCount
def dupTop (s : State) : Nat := 256 * regF s .memDuptop Fd.memDuptopAddr
def memTop (s : State) : Nat := 256 * regF s .memTop Fd.memTopAddr
def inDup (s : State) (a : Nat) : Bool := decide (a < dupTop s)

/-- The lane of a logical gathering among `2^w` lanes: the XOR fold of four groups of `w` bits (R288). -/
def laneFold (w x : Nat) : Nat :=
  (x % 2 ^ w) ^^^ (x / 2 ^ w % 2 ^ w) ^^^ (x / 2 ^ (2 * w) % 2 ^ w) ^^^ (x / 2 ^ (3 * w) % 2 ^ w)

/-- Where a data-space address stands: its channel (the lower one of a pair), its channel gathering index and the data
granule within the gathering (R288). -/
def gddrDecode (s : State) (a : Nat) : Nat × Nat × Nat :=
  let c := memChans s
  if inDup s a then
    let x := (a - gddrBase) / 256
    let w := Nat.log2 (c / 2)
    (laneFold w x, x / 2 ^ w, (a - gddrBase) % 256 / 32)
  else
    let x := (a - dupTop s) / 256
    let w := Nat.log2 c
    (laneFold w x, gDup s + x / 2 ^ w, (a - dupTop s) % 256 / 32)

/-- The data-space address of a data granule of a channel gathering: the inverse of `gddrDecode`. -/
def gddrEncode (s : State) (ch index gran : Nat) : Nat :=
  let c := memChans s
  if index < gDup s then
    let n := c / 2
    let w := Nat.log2 n
    let hi := index * 2 ^ w
    gddrBase + 256 * (hi + (laneFold w hi ^^^ (ch % n))) + 32 * gran
  else
    let w := Nat.log2 c
    let hi := (index - gDup s) * 2 ^ w
    dupTop s + 256 * (hi + (laneFold w hi ^^^ ch)) + 32 * gran

def chanState (s : State) (c : Nat) : Nat := regF s (.memCh c) Fd.memChState
/-- Whether a channel serves requests for a gathering (R299, R300): active, or resilvering past it. -/
def chanServes (s : State) (c index : Nat) : Bool :=
  chanState s c == 2 || (chanState s c == 5 && decide (index < regF s (.memChRslv c) Fd.memChRslvNext)) ||
    (chanState s c == 5 && decide (gDup s ≤ index))

/-- The four bytes of a word. -/
def wordBytes (w : Word) : List Byte :=
  [BitVec.ofNat 8 w.toNat, BitVec.ofNat 8 (w.toNat / 256), BitVec.ofNat 8 (w.toNat / 65536), BitVec.ofNat 8 (w.toNat / 16777216)]

/-- CRC-32 with the IEEE 802.3 polynomial, over a byte list, from a running remainder (R50, R272). -/
def crc32Byte (c : Nat) (b : Byte) : Nat :=
  (List.range 8).foldl (fun x _ => if x % 2 = 1 then (x / 2) ^^^ 0xEDB88320 else x / 2) (c ^^^ b.toNat)
def crc32 (bs : List Byte) : Nat := (bs.foldl crc32Byte 0xFFFFFFFF) ^^^ 0xFFFFFFFF

/-- `n` little-endian bytes of a number. -/
def leBytes : Nat → Nat → List Byte
  | 0, _ => []
  | n + 1, v => BitVec.ofNat 8 v :: leBytes n (v / 256)

/-! ### The flash array (R398, R405) -/

def primBank : FlashPrim → Nat
  | .program off _ => off / 0x2000000
  | .append _ => 0
  | .erase b => b / 128
  | .blank off => off / 0x2000000

/-- The bank of a job's next operation; 2 when it has none. -/
def jobBank (j : FlashJob) : Nat := match j.ops with | p :: _ => primBank p | [] => 2

/-- Whether a bank has an operation in progress. -/
def bankBusy (s : State) (k : Nat) : Bool := s.flash.jobs.any (fun j => j.started && jobBank j == k)

/-- FLS_STAT.BUSY and each channel's WAITING bit. -/
def showFlash (s : State) : State :=
  let t := setRegF s .flsStat Fd.flsStatBusy ((if bankBusy s 0 then 1 else 0) + (if bankBusy s 1 then 2 else 0))
  [0, 1, 2].foldl (fun u c =>
    setRegF u (.flsCmd c) Fd.flsCmdWaiting (if s.flash.jobs.any (fun j => j.reg && j.ch == c && !j.started && decide (0 < j.left)) then 1 else 0)) t

/-- An erase starts: the block's counter rises (R402, R406). -/
def eraseCount (b : Nat) (s : State) : State :=
  let t := incRegF s (.flsEcnt b) Fd.flsEcntCount 1
  if 10000 ≤ regF t (.flsEcnt b) Fd.flsEcntCount then setRegF t (.flsEcnt b) Fd.flsEcntWorn 1 else t

/-- Whether the flash controller runs: the keeper die is powered, and its clock runs in every state but Deep sleep (R11). -/
def flashAlive (s : State) : Bool := !s.power.off && s.power.sleep != 2

def pageAddr (p : Nat) : Nat := flashBase + 4096 * p

/-- The cells and marks of a range of pages go: the pages are blank. -/
def clearPages (p n : Nat) (s : State) : State :=
  let lo := pageAddr p
  let hi := pageAddr (p + n)
  let out (q : Nat) : Bool := decide (q < p) || decide (p + n ≤ q)
  { s with mem := s.mem.filter (fun e => decide (e.1 < lo) || decide (hi ≤ e.1))
           poison := s.poison.filter (fun g => decide (g < lo) || decide (hi ≤ g))
           upsets := s.upsets.filter (fun e => decide (e.1 < lo) || decide (hi ≤ e.1))
           flash := { s.flash with prog := s.flash.prog.filter out, undef := s.flash.undef.filter out
                                   short := s.flash.short.filter (fun e => out e.1) } }

/-- What four reads of an undefined page find, in a view of the array (R407, R408, assumption 3): it may be stable-blank, stable-good
with free bytes, or unstable with free bytes. -/
def resolvePage (s : State) (p : Nat) : State :=
  let k := Config.freeNat s.free % 3
  let t := clearPages p 1 { s with free := s.free + 1 }
  if k = 0 then t else
    let bytes := (List.range 1024).flatMap (fun i => wordBytes (Config.freeWord (t.free + i)))
    let undef := if k = 1 then t.flash.undef else NSet.add t.flash.undef p
    setBytes { t with free := t.free + 1024, flash := { t.flash with prog := NSet.add t.flash.prog p, undef := undef } } (pageAddr p) bytes

/-- The array as a reader of the undefined pages of a range finds it, beside the state with its draws taken. -/
def drawUndef (s : State) (a n : Nat) : State × State :=
  let v := (s.flash.undef.filter (fun p => decide (pageAddr p < a + n) && decide (a < pageAddr (p + 1)))).foldl resolvePage s
  (v, { s with free := v.free })

/-- Whether a granule of the array is blank: its page is, or what was programmed there ends below it (R400, R413). -/
def granuleBlank (s : State) (a : Nat) : Bool :=
  let off := a - flashBase
  !s.flash.prog.contains (off / 4096) || decide (SMap.get s.flash.short (off / 4096) 128 ≤ off % 4096 / 32)

/-- Whether a page reads blank; an undefined page may read either way each time (R407, assumption 3). -/
def pageBlank (s : State) (p : Nat) : Bool × State :=
  if s.flash.undef.contains p then (Config.freeNat s.free % 2 == 1, { s with free := s.free + 1 })
  else (!s.flash.prog.contains p, s)

/-- The checks of R403 on a page: 0 when it may be programmed, NOT_BLANK, or ORDER. -/
def programCheck (s : State) (p : Nat) : Nat × State :=
  let (b0, s0) := pageBlank s p
  let (b1, s1) := if p % 64 = 0 then (false, s0) else pageBlank s0 (p - 1)
  let (b2, s2) := if p % 64 = 63 then (true, s1) else pageBlank s1 (p + 1)
  (if !b0 then 1 else if b1 || !b2 then 2 else 0, s2)

/-- A channel's command ends with a status (R405). -/
def flashDone (c st : Nat) (s : State) : State :=
  let t := setRegF (setRegF s (.flsCmd c) Fd.flsCmdBusy 0) (.flsCmd c) Fd.flsCmdDone 1
  setRegF t (.flsCmd c) Fd.flsCmdStatus st

/-- The protection level in force. -/
def protLevel (s : State) : Nat := regF s .flsStat Fd.flsStatLevel

/-- The next page of the option blocks (R411): after the newest record in rotation, when it is blank. -/
def optionPage (s : State) : Option Nat :=
  let base := 126 * 64
  let free (p : Nat) : Bool := !s.flash.prog.contains p && !s.flash.undef.contains p
  if (List.range 128).all (fun i => free (base + i)) then some base
  else ((List.range 128).find? (fun i => free (base + i) && !free (base + (i + 127) % 128))).map (base + ·)

/-- The operations that append an option record at a page: where it fills its block, the other block is erased after it, but not at
level 2 (R411, R51). -/
def appendOps (s : State) (p : Nat) (rec : List Byte) : List FlashPrim :=
  .program (4096 * p) rec :: (if p % 64 = 63 ∧ protLevel s ≠ 2 then [.erase (if p / 64 = 126 then 127 else 126)] else [])

/-- Held evidence records become staged again, in their order (R273). -/
def restage (s : State) : State :=
  let t : State := { s with evidence := ⟨[], s.evidence.held ++ s.evidence.staged, false⟩ }
  setRegF t .curElog Fd.curElogPend (min 256 t.evidence.staged.length)

/-- An idle bank starts the waiting operation of the first channel in the order keeper, guard, programme (R405). A page
that may not be programmed ends its command; a blank test ends at once. DEDUCED: assumption 38. -/
def startBank (k : Nat) (s : State) : State :=
  if bankBusy s k || !flashAlive s then s else
  let pick := [0, 2, 1].findSome? (fun c => s.flash.jobs.findIdx? (fun j => j.ch == c && !j.started && jobBank j == k))
  match pick with
  | none => s
  | some i =>
    let go (t : State) : State := { t with flash := { t.flash with jobs := t.flash.jobs.modify i (fun j => { j with started := true }) } }
    let drop (t : State) (j : FlashJob) (st : Nat) : State :=
      let u := { t with flash := { t.flash with jobs := t.flash.jobs.eraseIdx i } }
      if j.reg then flashDone j.ch st u
      else match j.ops.tail with
        | [] => restage u
        | l => restage { u with flash := { u.flash with jobs := u.flash.jobs ++ [{ j with ops := l }] } }
    match s.flash.jobs[i]? with
    | some j =>
      match j.ops with
      | .erase b :: _ => eraseCount b (go s)
      | .program off _ :: _ =>
        if j.log then go s else
        let (st, t) := programCheck s (off / 4096)
        if st = 0 then go t else drop t j st
      | .append rec :: _ =>
        match optionPage s with
        | none => drop s j 6
        | some p => go { s with flash := { s.flash with jobs := s.flash.jobs.modify i (fun j => { j with ops := appendOps s p rec }) } }
      | .blank off :: _ =>
        let (b, t) := pageBlank s (off / 4096)
        drop t j (if b then 0 else 1)
      | [] => s
    | none => s

/-- Every idle bank starts what waits for it: each round starts an operation or ends a command, and there are at most
three commands and the controller's own jobs. -/
def flashStart (s : State) : State :=
  showFlash ((List.range 4).foldl (fun t _ => startBank 1 (startBank 0 t)) s)

/-- A command is handed to the array. -/
def flashPush (j : FlashJob) (s : State) : State := flashStart { s with flash := { s.flash with jobs := s.flash.jobs ++ [j] } }

/-- The block after an evidence-log block (R418). -/
def evNextBlock (b : Nat) : Nat := if 253 ≤ b then 240 else b + 1

/-! ### Evidence (R272–R274) -/

def bump (n : Nat) : Nat := min 65535 (n + 1)

/-- The class counter of a world (R274). -/
def countClass (s : State) (w : World) (cls : Nat) : State :=
  let s1 := incRegF s (.curFcnt w.num cls) Fd.curFcntCount 1
  setRegF s1 (.curFcnt w.num cls) Fd.curFcntTick (s.tick.count.toNat % 65536)

/-- Records staged and not yet programmed, shown in CUR_ELOG (R273). -/
def showPend (s : State) : State := setRegF s .curElog Fd.curElogPend (min 256 s.evidence.staged.length)

/-- The 16 bytes of an evidence record (R272). -/
def evBytes (e : EvRec) : List Byte :=
  let b := wordBytes e.tick ++ [BitVec.ofNat 8 e.cls, BitVec.ofNat 8 e.flags] ++ leBytes 2 e.unit ++ leBytes 2 e.detail ++ leBytes 2 e.count
  b ++ leBytes 4 (crc32 b)

/-- Starts the PROGRAM of a page of staged records: they are held for it (R273). While another page is being programmed, the
new one waits for it; with nothing staged, nothing happens. A page that fills its block is followed by the erase of the next block (R418). DESIGN CHOICE: assumption 44. -/
def startPage (s : State) : State :=
  if s.evidence.staged.isEmpty || s.flash.lower != 0 then s
  else if !s.evidence.held.isEmpty then { s with evidence := { s.evidence with due := true } }
  else
    let p := s.flash.evPage
    let next := evNextBlock (p / 64)
    let full := p % 64 == 63
    let recs := s.evidence.staged.take 256
    let data := recs.flatMap evBytes
    let page := data ++ List.replicate (4096 - data.length) 0xFF#8
    let ops := FlashPrim.program (4096 * p) page :: (if full then [FlashPrim.erase next] else [])
    let t := { s with evidence := ⟨recs, s.evidence.staged.drop 256, false⟩, flash := { s.flash with evPage := if full then 64 * next else p + 1 } }
    flashPush { ch := 0, reg := false, ops := ops, left := 1 } (showPend t)

/-- Stages a record, coalescing with the newest staged record when class, unit, detail and world flags agree (R273). DESIGN CHOICE: assumption 44. -/
def stageRecord (s : State) (e : EvRec) : State :=
  match s.evidence.staged.getLast? with
  | some n =>
    if n.cls = e.cls ∧ n.unit = e.unit ∧ n.detail = e.detail ∧ n.flags % 4 = e.flags % 4 then
      { s with evidence := { s.evidence with
        staged := s.evidence.staged.dropLast ++ [{ n with count := min 65535 (n.count + e.count), flags := n.flags % 4 + 4 }] } }
    else if 256 ≤ s.evidence.held.length + s.evidence.staged.length then incRegF s .curElog Fd.curElogLost 1
    else
      let t := showPend { s with evidence := { s.evidence with staged := s.evidence.staged ++ [e] } }
      if 256 ≤ t.evidence.held.length + t.evidence.staged.length then startPage t else t
  | none =>
    if 256 ≤ s.evidence.held.length then incRegF s .curElog Fd.curElogLost 1
    else
      let t := showPend { s with evidence := { s.evidence with staged := [e] } }
      if 256 ≤ t.evidence.held.length + 1 then startPage t else t

/-- Writes one evidence record and counts it: in the world of the unit, or in both worlds for classes 19, 20 and 24
(R274). DEDUCED: assumption 25. DESIGN CHOICE: assumption 44. -/
def record (s : State) (cls : Nat) (w : Option World) (unit detail : Nat) : State :=
  let t := stageRecord s ⟨BitVec.ofNat 32 s.tick.count.toNat, cls, (match w with | some w => w.num | none => 2),
    unit % 65536, detail % 65536, 1⟩
  match w with
  | some w => countClass t w cls
  | none => if cls = 19 ∨ cls = 20 ∨ cls = 24 then countClass (countClass t .prg cls) .grd cls else t

/-! ### Non-maskable events (R239) -/

def setNme (s : State) (w : World) (bit : Nat) : State :=
  let e := regF s (.curNme w.num) Fd.curNmeEvent
  if e / 2 ^ bit % 2 = 1 then s else setRegF s (.curNme w.num) Fd.curNmeEvent (e + 2 ^ bit)

def setNmeBoth (s : State) (bit : Nat) : State := setNme (setNme s .prg bit) .grd bit

/-! ### The binder code over the memories (R277, R281–R283) -/

/-- The consumed-from index of the tile that a ledger pair belongs to (R128, R131). -/
def ledIndex (s : State) (q pair : Nat) : Nat :=
  match (List.range 16).find? (fun k => ledMap s q k == pair) with
  | some k => 16 * q + k
  | none => 1024 + q

/-- The memory class of a folded address: class code of R261 for an uncorrectable read, its unit and its world. -/
def memClass (s : State) (a : Nat) : Option (Nat × Nat × Option World) :=
  if 0x0100000000 ≤ a ∧ a < 0x0112000000 then
    let p := (a - 0x0100000000) / 0x40000
    let off := a % 0x40000
    let q := p / 17
    some ((if off < 0x1C000 then 3 else if off < 0x20000 then 4 else 5), consIndex s q (p % 17), some (quireWorld s q))
  else if 0x0200000000 ≤ a ∧ a < 0x0210000000 then
    let q := (a - 0x0200000000) / 0x400000
    let off := a % 0x400000
    let w := some (quireWorld s q)
    if off < 0x2A8000 then some (7, q * 32 + off / 0x28000, w)
    else if off < 0x330000 then some (6, ledIndex s q ((off - 0x2A8000) / 0x8000), w)
    else some (8, q, w)
  else if 0x0400000000 ≤ a ∧ a < 0x0A00000000 then
    some ((if inDup s a then 14 else 15), (gddrDecode s a).1, none)
  else none

/-- Marks the granule of an address poisoned (R282). -/
def poisonGranule (s : State) (a : Nat) : State := { s with poison := NSet.add s.poison (granule a) }

/-- A corrected read: class 13, with the channel or 0xFFFF on chip (R281); a channel counts it (R299). -/
def recordCorrected (s : State) (a : Nat) (w : Option World) : State :=
  if 0x0400000000 ≤ a ∧ a < 0x0A00000000 then
    let c := (gddrDecode s a).1
    let t := record s 13 w c (granule a)
    incRegF (modChan t c (fun x => { x with corr := x.corr + 1, due := if 4096 < x.corr + 1 then 5 else x.due }))
      (.memChErr c) Fd.memChErrCorr 1
  else record s 13 w 0xFFFF (granule a)

/-- A detected-uncorrectable read: the granule is rewritten with poison and the class of its memory recorded (R282). -/
def recordBad (s : State) (a : Nat) (w : Option World) : State :=
  let t := poisonGranule s a
  match memClass t a with
  | none => t
  | some (cls, u, w') =>
    let t1 := record t cls (match w' with | some x => some x | none => w) u (granule a)
    if 14 ≤ cls then
      let idx := (gddrDecode t a).2.1
      let x := getChan t u
      let bad := NSet.add x.badGath idx
      let t2 := modChan t1 u (fun y => { y with badGath := bad, due := if 4 ≤ bad.length then 4 else y.due })
      setRegF t2 (.memChErr u) Fd.memChErrUncorr (min 255 bad.length)
    else t1

/-- Flips data bits that a miscorrection left wrong in a word read from its granule. -/
def applyFlips (flips : List Nat) (a : Nat) (w : Word) : Word :=
  flips.foldl (fun x f => if 8 * (a % 32) ≤ f ∧ f < 8 * (a % 32) + 32 then x ^^^ (1#32 <<< (f - 8 * (a % 32))) else x) w

/-- Whether an address is in a memory whose corrected granules are written back (R281): GDDR7 and the archives. -/
def writesBack (a : Nat) : Bool := decide (0x0200000000 ≤ a) && decide (a < 0x0A00000000)

/-- The positions of the granule of an address that stand in error, as stored. -/
def upsetsAt (s : State) (a : Nat) : List Nat := s.upsets.get (granule a) []
def setUpsets (s : State) (a : Nat) (e : List Nat) : State := { s with upsets := s.upsets.set (granule a) e [] }

/-- Turns over data bits of the granule of an address. -/
def flipBits (s : State) (a : Nat) (flips : List Nat) : State :=
  flips.foldl (fun t f => setByte t (granule a + f / 8) (memByte t (granule a + f / 8) ^^^ (1#8 <<< (f % 8)))) s

/-- The positions `err` of a granule outside GDDR7 are turned over, beside those that stand in error. -/
def strike (s : State) (a : Nat) (err : List Nat) : State :=
  if err.isEmpty || (decide (gddrBase ≤ a) && decide (a < 0x0A00000000)) then s
  else setUpsets s a (errNorm (upsetsAt s a ++ err))

/-- Reads the granule of `a` under the binder code, with the positions `err` turned over beside those that stand in error:
`some` of the data bits that are delivered wrong, `none` when the read is detected-uncorrectable; the state with its
records and its poison mark (R281, R282). A corrected granule of GDDR7 or of an archive is written back as delivered; an
on-chip granule keeps its errors until it is written. -/
def readGranule (s : State) (a : Nat) (err : List Nat) (w : Option World) : Option (List Nat) × State :=
  let e := errNorm (upsetsAt s a ++ err)
  match readOutcome (s.poison.contains (granule a)) e with
  | .good f => (some f, strike s a err)
  | .corrected f => (some f, recordCorrected (if writesBack a then setUpsets (flipBits s a f) a [] else strike s a err) a w)
  | .bad _ _ => (none, recordBad (setUpsets s a []) a w)

/-- Granules of a range that are poisoned or stand in error. -/
def markedIn (s : State) (a n : Nat) : List Nat :=
  NSet.addAll (s.poison.filter (inSpan a n)) ((s.upsets.map (·.1)).filter (inSpan a n))

/-- The granules of an on-chip range are read under the code before they are copied (R281, R282): the state with its records, and
the granules that a miscorrection delivers with wrong bits while they stand as they are. -/
def decodeRange (s : State) (a n : Nat) (w : Option World) : State × List (Nat × List Nat) :=
  (markedIn s a n).foldl (fun x g =>
    match readGranule x.1 g [] w with
    | (some f, t) => (t, if writesBack g || f.isEmpty then x.2 else x.2 ++ [(g, f)])
    | (none, t) => (t, x.2)) (s, [])

/-- Copies a range of an on-chip memory as its reader sees it: corrected, with a poison mark where it could not be read (R281,
R282). -/
def copyCode (s : State) (src dst n : Nat) (w : Option World) : State :=
  let x := decodeRange s src n w
  x.2.foldl (fun t e => flipBits t (e.1 - src + dst) e.2) (copyRange x.1 src dst n)

/-- Copies every committed granule of a ledger pair into a position's ledger window (R131). -/
def loadLedger (s : State) (q j pair : Nat) : State :=
  (List.range 512).foldl (fun t g =>
    copyCode t (committedAt t q pair g) (tileBase q j + 0x1C000 + 32 * g) 32 (some (quireWorld s q))) s

/-- Reads a word under the binder code. -/
def readWordAt (s : State) (a : Nat) (err : List Nat) (w : Option World) : Option Word × State :=
  match readGranule s a err w with
  | (some f, t) => (some (applyFlips f a (memWord s a)), t)
  | (none, t) => (none, t)

/-- A write narrower than a granule (R283): merged into the granule, or without effect when the granule reads
detected-uncorrectable. -/
def mergeBytes (s : State) (a : Nat) (bs : List Byte) (err : List Nat) (w : Option World) : Bool × State :=
  match readGranule s a err w with
  | (some f, t) => (true, setBytes (if (upsetsAt t a).isEmpty then t else setUpsets (flipBits t a f) a []) a bs)
  | (none, t) => (false, t)

end Sys2Proof.Machine
end

