-- ==== Sys2Proof/Machine/CoreOps.lean ====
section
/-! DEFINITION. Shared operations of a Limdon core: stacks and windows (R177, R193, R194, R227, R231), the tick
transaction's doom, stop and hold (R76–R81, R173), taking an exception (R229, R230), retirement with the hardware-loop
end test (R173, R211), and the frame in which every instruction runs. -/

namespace Sys2Proof.Machine

/-- Why an instruction does not retire. -/
inductive Halt where
  /-- It takes the exception of a vector with a code and EADDR, from the state before it. -/
  | trap (vec code : Nat) (ea : Word)
  /-- It takes an exception from a state that it has changed (R215, R218). -/
  | trapIn (s : State) (vec code : Nat) (ea : Word)
  /-- It takes an exception whose handler finds 0 in place of the operand it popped (R203, R205). -/
  | trapZero (vec code : Nat) (ea : Word)
  /-- It takes an exception with the core as it was before it, from a state whose memory its access has marked (R282, R283). -/
  | trapMem (s : State) (vec code : Nat) (ea : Word)
  /-- It stays in the pipe; nothing has changed (R182, R189). -/
  | wait
  /-- It stays in the pipe; the state records why (a hold, a wait state). -/
  | waitIn (s : State)

/-- A step inside an instruction. DESIGN CHOICE: assumption 13. -/
abbrev Ex (α : Type) := Except Halt α

/-! ### Stack windows -/

/-- The registers of one level's stacks: operand pointer, return pointer, window. -/
def osp (sup : Bool) : Ccr := if sup then .sosp else .uosp
def rsp (sup : Bool) : Ccr := if sup then .srsp else .ursp
def win (sup : Bool) : Ccr := if sup then .swin else .uwin
def winBase (k : Core) (r : Ccr) : Nat := 32 * ccrF k r Fd.cUwinBase
def winLimit (k : Core) (r : Ccr) : Nat := 32 * ccrF k r Fd.cUwinLimit

/-- The lowest and the highest granule that a window of the core may use (R227, SWIN). -/
def winMin : CoreId → Nat
  | .tile _ _ => 32
  | _ => 0
def winMax : CoreId → Nat
  | .tile _ _ => 0x1C000
  | .curator _ => 0x40000
  | .keeper => 0x8000

/-- Whether a level's stack state is valid (R227, R231). -/
def stackValid (c : CoreId) (k : Core) (sup : Bool) : Bool :=
  let b := winBase k (win sup)
  let l := winLimit k (win sup)
  let o := (ccr k (osp sup)).toNat
  let r := (ccr k (rsp sup)).toNat
  let sb := winBase k .shwin
  let sl := winLimit k .shwin
  b < l && b ≤ o && o ≤ r && r ≤ l && o % 4 == 0 && r % 4 == 0 && winMin c ≤ b && l ≤ winMax c && sl ≤ winMax c &&
    (sl ≤ sb || l ≤ sb || sl ≤ b)

/-- A level's bank. -/
def bank (k : Core) (sup : Bool) : Bank := if sup then k.sup else k.user
def setBank (k : Core) (sup : Bool) (b : Bank) : Core := if sup then { k with sup := b } else { k with user := b }

def isPend : Cell → Bool
  | .pend _ => true
  | .val _ => false

/-- The stack-region violation (R227): BUS with code 1 and the pointer. -/
def stackTrap (p : Nat) : Halt := .trap 3 1 (BitVec.ofNat 32 p)

/-! ### Operations in flight -/

/-- Replaces the pending cells of the given results (R173, R182). -/
def fillPend (ids : List Nat) (w : Word) (b : Bank) : Bank :=
  { b with cells := b.cells.map (fun x => match x with
      | .pend i => if ids.contains i then .val w else .pend i
      | .val v => .val v) }

/-- Writes a result to every cell pending on it; a result whose cell was dropped is discarded (R182). -/
def deliver (k : Core) (id : Nat) (w : Word) : Core :=
  { k with user := fillPend [id] w k.user, sup := fillPend [id] w k.sup }

/-- Abandons the outstanding far loads and GETs: their cells read 0 (R173). -/
def abandonLoads (k : Core) : Core :=
  let ids := k.loads.map (·.id)
  { k with user := fillPend ids 0 k.user, sup := fillPend ids 0 k.sup, loads := [] }

/-- Abandons the side-unit operations as well (R173). -/
def abandonSide (k : Core) : Core :=
  let ids := k.side.map (·.id)
  { k with user := fillPend ids 0 k.user, sup := fillPend ids 0 k.sup, side := [] }

/-- Abandons a running press sequence (R166): the press is idle, NEXT keeps its address. -/
def abandonPress (k : Core) : Core :=
  if ccrF k .prsStat Fd.cPrsStatBusy = 1 then
    let k1 := setCcrF (setCcrF k .prsStat Fd.cPrsStatBusy 0) .prsStat Fd.cPrsStatAbandoned 1
    setCcrF (setCcrF k1 .prsStat Fd.cPrsStatWaiting 0) .prsStat Fd.cPrsStatHeld 0
  else k

/-- The press is idle: no sequence runs and every issued microword has written back (R143). -/
def pressIdle (k : Core) : Bool := ccrF k .prsStat Fd.cPrsStatBusy == 0 && k.press.flight.isEmpty

/-! ### Doom, stop and hold -/

/-- The cause that the tile's record carries: the lowest, FARHELD in place of DECKLE (R79, R99). -/
def txCause (x : Tx) : Nat :=
  match x.causes with
  | [] => 0
  | a :: _ => if a = 1 ∧ x.causes.contains 7 then 7 else a

/-- A doom condition (R76, R81): an OPEN tile becomes ABORTING; a STITCHED tile is unaffected. -/
def doom (k : Core) (cause : Nat) : Core :=
  match k.tx.st with
  | .open_ => { k with tx := { k.tx with st := .aborting, causes := NSet.add k.tx.causes cause } }
  | .aborting => { k with tx := { k.tx with causes := NSet.add k.tx.causes cause } }
  | _ => k

/-- A doom with cause UNCORR, with the fault class of what could not be read (R79, R101), and its unit where it is neither the
tile nor its quire (R261). -/
def doomUncorrIn (cls : Nat) (unit : Option Nat) (k : Core) : Core :=
  let k1 := doom k 6
  if k.tx.causes.contains 6 then k1 else { k1 with tx := { k1.tx with ucls := cls, uunit := unit } }

def doomUncorr (cls : Nat) (k : Core) : Core := doomUncorrIn cls none k

/-- A stop condition (R76, R173): the core and press halt, operations in flight are abandoned, and an exception that waits
is not taken (R241). A SEAL that waits stays waiting through a deckle stop (R95). -/
def stopTile (k : Core) (cause : Nat) : Core :=
  let k1 := abandonPress (abandonSide (abandonLoads k))
  { k1 with wait := if k.wait = .seal ∧ (cause = 1 ∨ cause = 7) then .seal else .none
            entry := none
            tx := { k.tx with st := .stopped, causes := NSet.add k.tx.causes cause } }

/-- A core hold (R81, R173): loads are abandoned, the side unit completes, and an instruction that waits is discarded, with
the exception it may have waited to take. A waiting SEAL goes on (R95), and a core in WFT takes no cycle. -/
def holdCore (k : Core) : Core :=
  { abandonLoads k with
    wait := if k.wait = .seal ∨ k.wait = .wft then k.wait else .none
    entry := none
    tx := { k.tx with hold := true } }

/-- A tile fault (R79, R80, R99, R230, R269): the core halts; before the freeze its tick aborts with cause TFAULT. A
curator halts (R242), and the keeper core takes a non-maskable event. -/
def coreFault (s : State) (c : CoreId) : State :=
  let k := getCore s c
  match c with
  | .tile _ _ =>
    let k1 := abandonPress (abandonSide (abandonLoads k))
    let live := k.tx.st = .open_ ∨ k.tx.st = .aborting ∨ k.tx.st = .stitched
    let tx := if live ∧ running s ∧ s.tick.frozen = false then
      { k.tx with st := .stopped, causes := NSet.add k.tx.causes 8 } else k.tx
    setCore s c { k1 with halted := true, wait := .none, entry := none, tx := tx }
  | .curator w =>
    let t := setCore s c { abandonSide (abandonLoads k) with halted := true, wait := .none, entry := none }
    modCore (record (setRegF t (.curStat w.num) Fd.curStatHalted 1) 21 (some w) w.num 0) .keeper
      (fun k => { k with nmePend := true })
  | .keeper => setCore s c { abandonSide (abandonLoads k) with halted := true, wait := .none, entry := none }

/-! ### The memory of a core under the binder code -/

/-- A detected-uncorrectable access by a core (R282, R283): a tile becomes ABORTING with cause UNCORR and goes on; a
curator or the keeper core takes BUS with code 0. -/
def uncorrAt (c : CoreId) (ea : Word) (t : State) : Ex State :=
  match c with
  | .tile _ _ => .ok (modCore t c (doomUncorr (if ea.toNat < 0x1C000 then 3 else if ea.toNat < 0x20000 then 4 else 5)))
  | _ => .error (.trapMem t 3 0 ea)

/-- Reads a word of the core's SRAM at an offset, for a fill or a frame (R177, R233): an uncorrectable one gives 0. -/
def readSram (c : CoreId) (off : Nat) (s : State) : Ex (Word × State) :=
  match readWordAt s (localBase c + off) [] (coreWorld s c) with
  | (some w, t) => .ok (w, t)
  | (none, t) =>
    match uncorrAt c (BitVec.ofNat 32 off) t with
    | .ok u => .ok (0, u)
    | .error h => .error h

/-- Writes a word of the core's SRAM at an offset, for a spill (R177, R283): a granule that cannot be read keeps its words. -/
def writeSram (c : CoreId) (off : Nat) (w : Word) (s : State) : Ex State :=
  match mergeBytes s (localBase c + off) (wordBytes w) [] (coreWorld s c) with
  | (true, t) => .ok t
  | (false, t) => uncorrAt c (BitVec.ofNat 32 off) t

/-- Writes words of the core's SRAM upward from an offset, in order. -/
def writeUp (c : CoreId) (off : Nat) : List Word → State → Ex State
  | [], s => .ok s
  | x :: l, s =>
    match writeSram c off x s with
    | .ok t => writeUp c (off + 4) l t
    | .error h => .error h

/-! ### Stacks -/

/-- Writes the oldest cached operand cell to the stack region (R177). A pending cell is never spilled: it waits. -/
def spillCell (c : CoreId) (sup : Bool) (s : State) : Ex State :=
  let k := getCore s c
  let o := (ccr k (osp sup)).toNat
  match (bank k sup).cells.getLast? with
  | none => .ok s
  | some (.pend _) => .error .wait
  | some (.val w) =>
    if stackValid c k sup && decide (o + 4 ≤ (ccr k (rsp sup)).toNat) then
      let k1 := setCcr k (osp sup) (BitVec.ofNat 32 (o + 4))
      let b := bank k sup
      writeSram c o w (setCore s c (setBank k1 sup { b with cells := b.cells.dropLast }))
    else .error (stackTrap o)

/-- Writes the oldest cells while the cache holds more than 8, at most `n` of them (R177). -/
def spillOver (c : CoreId) (sup : Bool) : Nat → State → Ex State
  | 0, s => .ok s
  | n + 1, s =>
    if (bank (getCore s c) sup).cells.length ≤ 8 then .ok s else
    match spillCell c sup s with
    | .ok t => spillOver c sup n t
    | .error h => .error h

/-- Writes the oldest `n` cached operand cells of a bank to its stack region (R177, R228). -/
def flushCells (c : CoreId) (sup : Bool) : Nat → State → Ex State
  | 0, s => .ok s
  | n + 1, s =>
    match spillCell c sup s with
    | .ok t => flushCells c sup n t
    | .error h => .error h

/-- Reads the word below the cached cells from the stack region (R177). -/
def fillCell (c : CoreId) (sup : Bool) (s : State) : Ex State :=
  let k := getCore s c
  let o := (ccr k (osp sup)).toNat
  if stackValid c k sup && decide (winBase k (win sup) + 4 ≤ o) then
    match readSram c (o - 4) s with
    | .ok (w, t) => .ok (modCore t c (fun k =>
        let b := bank k sup
        setBank (setCcr k (osp sup) (BitVec.ofNat 32 (o - 4))) sup { b with cells := b.cells ++ [.val w] }))
    | .error h => .error h
  else .error (stackTrap (o + 2 ^ 32 - 4))

/-- Pushes a cell on the stack of the current level; what the cache cannot hold is spilled as the instruction, or its pair,
ends (R177). -/
def pushCell (c : CoreId) (x : Cell) (s : State) : Ex State :=
  .ok (modCore s c (fun k => setBank k (isSup k) { bank k (isSup k) with cells := x :: (bank k (isSup k)).cells }))

def push (c : CoreId) (w : Word) (s : State) : Ex State := pushCell c (.val w) s

/-- Pops the top cell, pending or not. DEDUCED: assumption 15. -/
def popCell (c : CoreId) (s : State) : Ex (Cell × State) :=
  let k := getCore s c
  let sup := isSup k
  let take (t : State) : Ex (Cell × State) :=
    let k := getCore t c
    match (bank k sup).cells with
    | x :: r => .ok (x, setCore t c (setBank k sup { bank k sup with cells := r }))
    | [] => .error .wait
  if (bank k sup).cells.isEmpty then
    match fillCell c sup s with
    | .ok t => take t
    | .error h => .error h
  else take s

/-- Pops the top cell as an operand; a pending cell makes the instruction wait (R182). -/
def pop (c : CoreId) (s : State) : Ex (Word × State) :=
  match popCell c s with
  | .ok (.val w, t) => .ok (w, t)
  | .ok (.pend _, _) => .error .wait
  | .error h => .error h

/-- Writes the oldest return entry to the stack region while the bank holds more than `keep` (R194, R227). -/
def spillRet (c : CoreId) (sup : Bool) (keep : Nat) (s : State) : Ex State :=
  let k := getCore s c
  let b := bank k sup
  match b.rets.getLast? with
  | some x =>
    if b.rets.length ≤ keep then .ok s else
    let r := (ccr k (rsp sup)).toNat
    if stackValid c k sup && decide ((ccr k (osp sup)).toNat + 4 ≤ r) then
      writeSram c (r - 4) x (setCore s c (setBank (setCcr k (rsp sup) (BitVec.ofNat 32 (r - 4))) sup { b with rets := b.rets.dropLast }))
    else .error (stackTrap (r + 2 ^ 32 - 4))
  | none => .ok s

/-- Writes the oldest shadow entry to the shadow window while the bank holds more than `keep` (R231): no spill while the level's
stack state is invalid (R227). -/
def spillSh (c : CoreId) (sup : Bool) (keep : Nat) (s : State) : Ex State :=
  let k := getCore s c
  let b := bank k sup
  match b.shs.getLast? with
  | some x =>
    if b.shs.length ≤ keep then .ok s else
    let p := (ccr k .shsp).toNat
    if stackValid c k sup && decide (winBase k .shwin + 4 ≤ p) && decide (p ≤ winLimit k .shwin) && p % 4 == 0 then
      writeSram c (p - 4) x (setCore s c (setBank (setCcr k .shsp (BitVec.ofNat 32 (p - 4))) sup { b with shs := b.shs.dropLast }))
    else .error (stackTrap (p + 2 ^ 32 - 4))
  | none => .ok s

/-- Pushes a return address on the return and shadow stacks, spilling the oldest entries of a full bank (R194, R227,
R231). -/
def pushRet (c : CoreId) (w : Word) (s : State) : Ex State :=
  match spillRet c (isSup (getCore s c)) 15 s with
  | .error h => .error h
  | .ok t =>
    match spillSh c (isSup (getCore s c)) 15 t with
    | .error h => .error h
    | .ok u => .ok (modCore u c (fun k =>
        let sup := isSup k
        setBank k sup { bank k sup with rets := w :: (bank k sup).rets, shs := w :: (bank k sup).shs }))

/-- Takes the newest return entry, from the stack region when the bank is empty (R194, R227). -/
def fillRet (c : CoreId) (sup : Bool) (s : State) : Ex (Word × State) :=
  let k := getCore s c
  match (bank k sup).rets with
  | x :: l => .ok (x, setCore s c (setBank k sup { bank k sup with rets := l }))
  | [] =>
    let p := (ccr k (rsp sup)).toNat
    if stackValid c k sup && decide (p + 4 ≤ winLimit k (win sup)) then
      match readSram c p s with
      | .ok (w, t) => .ok (w, modCore t c (fun k => setCcr k (rsp sup) (BitVec.ofNat 32 (p + 4))))
      | .error h => .error h
    else .error (stackTrap p)

/-- Takes the newest shadow entry, from the shadow window when the bank is empty (R231): no fill while the level's stack
state is invalid (R227). -/
def fillSh (c : CoreId) (sup : Bool) (s : State) : Ex (Word × State) :=
  let k := getCore s c
  match (bank k sup).shs with
  | y :: l => .ok (y, setCore s c (setBank k sup { bank k sup with shs := l }))
  | [] =>
    let p := (ccr k .shsp).toNat
    if stackValid c k sup && decide (winBase k .shwin ≤ p) && decide (p + 4 ≤ winLimit k .shwin) && p % 4 == 0 then
      match readSram c p s with
      | .ok (w, t) => .ok (w, modCore t c (fun k => setCcr k .shsp (BitVec.ofNat 32 (p + 4))))
      | .error h => .error h
    else .error (stackTrap p)

/-- Pops the return and shadow stacks, filling from their regions when a bank is empty (R194, R227). -/
def popRet (c : CoreId) (s : State) : Ex (Word × Word × State) :=
  let sup := isSup (getCore s c)
  match fillRet c sup s with
  | .error h => .error h
  | .ok (x, t) =>
    match fillSh c sup t with
    | .error h => .error h
    | .ok (y, u) => .ok (x, y, u)

/-! ### Exception entry -/

/-- Stores a word at a folded address as an entry does: a granule that cannot be read keeps its words, and dooms a tile
(R283). -/
def entryWord (c : CoreId) (a : Nat) (w : Word) (s : State) : State :=
  match mergeBytes s a (wordBytes w) [] (coreWorld s c) with
  | (true, t) => t
  | (false, t) => match c with | .tile _ _ => modCore t c (doomUncorr 3) | _ => t

/-- Stores words downward from a pointer, newest last: the list is newest first, its last element is stored first. -/
def storeDown (c : CoreId) (s : State) (a : Nat) : List Word → State
  | [] => s
  | x :: l => entryWord c (a - 4 * (l.length + 1)) x (storeDown c s a l)

/-- Stores words upward from an address, oldest first. -/
def storeUp (c : CoreId) (s : State) (a : Nat) : List Word → State
  | [] => s
  | x :: l => storeUp c (entryWord c a x s) (a + 4) l

def cellWord : Cell → Word
  | .val w => w
  | .pend _ => 0

/-- A word of a core's local memory (R13, R123): SRAM or working RAM under the code, the keeper core's ROM, and 0 where nothing
is. One that cannot be read is 0, and dooms a tile (R282). -/
def localWord (s : State) (c : CoreId) (a : Nat) : Word × State :=
  let ram (x : Nat) : Word × State :=
    match readWordAt s x [] (coreWorld s c) with
    | (some w, t) => (w, t)
    | (none, t) => (0, match c with | .tile _ _ => modCore t c (doomUncorr (if a < 0x1C000 then 3 else 4)) | _ => t)
  match c with
  | .tile _ _ => if a + 4 ≤ 0x20000 then ram (localBase c + a) else (0, s)
  | .curator _ => if a + 4 ≤ 0x40000 then ram (localBase c + a) else (0, s)
  | .keeper =>
    if a + 4 ≤ 0x8000 then (BitVec.ofNat 32 (leNat [Config.rom a, Config.rom (a + 1), Config.rom (a + 2), Config.rom (a + 3)]), s)
    else if 0x10000 ≤ a ∧ a + 4 ≤ 0x18000 then ram (localBase c + (a - 0x10000)) else (0, s)

/-- CSTAT as it reads: WORLD is the world of the core (R222). -/
def cstatWord (s : State) (c : CoreId) (k : Core) : Word :=
  Fd.cCstatWorld.putN (ccr k .cstat) (match coreWorld s c with | some .grd => 1 | _ => 0)

/-- Whether a cell of the supervisor bank is pending, at supervisor level: an exception entry waits for it (R229, step 1). -/
def supPend (k : Core) : Bool := isSup k && k.sup.cells.any isPend

/-- The return-address check of a core's world (CUR_WCFGw). -/
def rachkOf (s : State) (c : CoreId) : Nat :=
  match coreWorld s c with | some w => regF s (.curWcfg w.num) Fd.curWcfgRachk | none => 0

/-- What SYNC does to its core (R189): earlier CCRWs are in force, and so is the return-address check of the world. -/
def syncCore (s : State) (c : CoreId) (k : Core) : Core := { setCcrF k .mode Fd.cModeRachk (rachkOf s c) with stale := [], lbuf := none }

/-- An entry that follows a CCRW to CSTAT or MODE acts as SYNC (R241). -/
def entrySyncs (k : Core) : Bool := k.stale.any (fun e => decide (e.1 % 256 < 2))
def entrySync (s : State) (c : CoreId) (k : Core) : Core := if entrySyncs k then syncCore s c k else k

/-! ### Register writes that no SYNC has followed (R189) -/

/-- A core register by its index. -/
def setIdx (k : Core) (i : Nat) (w : Word) : Core := match Ccr.decode i with | some r => setCcr k r w | none => k

/-- The core with the old words of the registers that no SYNC has followed. -/
def oldView (k : Core) : Core := k.stale.foldl (fun k e => setIdx k (e.1 % 256) e.2) k

/-- The core after an instruction that saw the old words: a register that it left has its new word again, and one that it
wrote keeps what it wrote. -/
def newView (k n : Core) : Core :=
  k.stale.foldl (fun n e =>
    match Ccr.decode (e.1 % 256) with
    | some r =>
      if !n.stale.any (fun x => x.1 == e.1) then n
      else if ccr n r = e.2 then setCcr n r (ccr k r) else { n with stale := n.stale.erase e.1 }
    | none => n) n

/-- Registers that an instruction other than a CCRW writes: their words are in force for every instruction that follows. -/
def forget (rs : List Ccr) (k : Core) : Core :=
  { k with stale := rs.foldl (fun m r => (m.erase r.idx).erase (256 + r.idx)) k.stale }

/-- TAKING AN EXCEPTION (R229, R230): the supervisor bank of an interrupted supervisor is written out, the frame of R232
is written below SRSP, EFP, ECAUSE, EADDR, CSTAT and LOOPST.FLOOR change, and the core goes on at the handler that the
vector word names. An entry whose checks fail writes nothing and halts the core. -/
def enterFrom (s : State) (c : CoreId) (vec code : Nat) (ea epc : Word) : State :=
  let k := getCore s c
  let sup := isSup k
  let b := if sup then k.sup else { k.sup with cells := [], rets := [], shs := [] }
  let o := (ccr k .sosp).toNat
  let r := (ccr k .srsp).toNat
  let h := (ccr k .shsp).toNat
  let o1 := o + 4 * b.cells.length
  let r1 := r - 4 * b.rets.length
  let h1 := h - 4 * b.shs.length
  let hBad := b.shs.length != 0 && !(decide (winBase k .shwin + 4 * b.shs.length ≤ h) && decide (h ≤ winLimit k .shwin))
  let (vw, s0) := localWord s c (64 * ccrF k .vbar Fd.cVbarBase + 4 * vec)
  if !stackValid c k true || decide (r < o1 + 4 * b.rets.length + 32) || hBad || vw == 0 || vw.getLsbD 0 then
    coreFault s0 c
  else
    let f := r1 - 32
    let base := localBase c
    let s1 := storeDown c (storeDown c (storeUp c s0 (base + o) (b.cells.reverse.map cellWord)) (base + r) b.rets) (base + h) b.shs
    let cause := BitVec.ofNat 32 (vec + 256 * code)
    let loopst := ccr k .loopst
    let frame : List Word := [epc, BitVec.ofNat 32 ((cstatWord s c k).toNat % 16 + 65536 * ((ccr k .cfpf).toNat % 16)), loopst,
      cause, BitVec.ofNat 32 h1, ea, ccr k .efp, BitVec.ofNat 32 o1]
    modCore (storeUp c s1 (base + f) frame) c (fun k0 =>
      let k := entrySync s c k0
      let k1 := setCcr (setCcr (setCcr k .srsp (BitVec.ofNat 32 f)) .efp (BitVec.ofNat 32 f)) .sosp (BitVec.ofNat 32 o1)
      let k2 := setCcr (setCcr (setCcr k1 .shsp (BitVec.ofNat 32 h1)) .ecause cause) .eaddr ea
      let k3 := setCcrF (setCcrF k2 .cstat Fd.cCstatLevel 1) .cstat Fd.cCstatIe 0
      let k4 := if vec = 12 then setCcrF k3 .cstat Fd.cCstatNmip 1 else k3
      let k5 := setCcrF k4 .loopst Fd.cLoopstFloor (Fd.cLoopstDepth.get loopst)
      { k5 with
        loopEff := Fd.cLoopstFloor.putN k.loopEff (Fd.cLoopstDepth.get k.loopEff)
        pc := vw, wait := .none, entry := none, paired := false, lbuf := none
        sup := if sup then {} else k.sup })

/-- An entry on a core whose registers a CCRW has changed with no SYNC: it sees the old words or the new ones, as a free value says
(R189, assumption 3), unless it acts as SYNC (R241). -/
def enterNow (s : State) (c : CoreId) (vec code : Nat) (ea epc : Word) : State :=
  let k := getCore s c
  if k.stale.isEmpty || entrySyncs k then enterFrom s c vec code ea epc else
  let s1 := { s with free := s.free + 1 }
  if Config.freeNat s.free % 2 = 0 then enterFrom s1 c vec code ea epc
  else modCore (enterFrom (modCore s1 c oldView) c vec code ea epc) c (newView k)

/-- The operand on top reads 0. -/
def zeroTop (c : CoreId) (s : State) : State :=
  match popCell c s with
  | .ok (_, t) => modCore t c (fun k => setBank k (isSup k) { bank k (isSup k) with cells := .val 0#32 :: (bank k (isSup k)).cells })
  | .error _ => s

/-- An exception is entered, or at supervisor level it waits for the pending cells of the bank (R229, step 1); `zero` says that its
handler finds 0 in place of the operand on top (R203, R205). -/
def decideEntry (zero : Bool) (s : State) (c : CoreId) (vec code : Nat) (ea epc : Word) : State :=
  if supPend (getCore s c) then modCore s c (fun k => { k with entry := some ⟨vec, code, ea, epc, zero⟩ })
  else enterNow (if zero then zeroTop c s else s) c vec code ea epc

/-- A pair that does not complete its slot 2 leaves no more than 8 cells in the cache: the others are spilled (R177). DESIGN CHOICE:
assumption 47. -/
def closePair (c : CoreId) (s : State) : Ex State :=
  if (getCore s c).paired then spillOver c (isSup (getCore s c)) 2 (modCore s c (fun k => { k with paired := false })) else .ok s

/-- An exception is decided (R229). One that finds slot 1 of a pair retired first has its cells spilled, and the violation of a
spill that fails takes its place (R177, R227). While one waits, another is not taken. DESIGN CHOICE: assumption 18. -/
def enterWith (zero : Bool) (s : State) (c : CoreId) (vec code : Nat) (ea epc : Word) : State :=
  if (getCore s c).entry.isSome then s else
  match closePair c s with
  | .ok t => decideEntry zero t c vec code ea epc
  | .error (.trap v e a) => decideEntry false s c v e a epc
  | .error (.trapMem t v e a) => decideEntry false (setCore t c (getCore s c)) c v e a epc
  | .error _ => s

def enterException (s : State) (c : CoreId) (vec code : Nat) (ea epc : Word) : State := enterWith false s c vec code ea epc

/-- Takes an exception whose handler finds 0 in place of the operand on top (R203, R205). -/
def enterZero (s : State) (c : CoreId) (vec code : Nat) (ea epc : Word) : State := enterWith true s c vec code ea epc

/-- Takes the exception that has waited, once no cell of the bank is pending (R229, step 1). -/
def settleEntry (c : CoreId) (s : State) : State :=
  match (getCore s c).entry with
  | none => s
  | some e => if supPend (getCore s c) then s else enterNow (if e.zero then zeroTop c s else s) c e.vec e.code e.ea e.epc

/-- A core's result arrives (R182): the cells pending on it take the value, and an exception that waited may be taken. -/
def arrive (c : CoreId) (k : Core) (id : Nat) (w : Word) (s : State) : State := settleEntry c (setCore s c (deliver k id w))

/-- The address by which a curator reaches an address of the control space: through the first aperture of its core that
covers it. -/
def popAddr (k : Core) (a : Nat) : Option Word :=
  (List.range 8).findSome? (fun d =>
    let b := 4096 * ccrF k (.apb d) Fd.cApbBase
    if Fd.cApaValid.get (ccr k (.apa d)) = 1 ∧ b ≤ a ∧ a < b + 4096 * (ccrF k (.apl d) Fd.cAplSize + 1) then
      some (BitVec.ofNat 32 (d * 2 ^ 29 + (a - b)))
    else none)

/-- The exception that a control-space access at `a` raises on its writer: EADDR is the address that its STF or LDF popped
(R225), and a free value where no aperture of the core reaches `a` (assumption 3). A tile, or the keeper core, is not its
writer here. -/
def accessTrap (s : State) (c : CoreId) (vec code : Nat) (a : Nat) : State :=
  let k := getCore s c
  if !k.on || k.halted || k.entry.isSome then s else
  match popAddr k a with
  | some ea => enterException s c vec code ea k.pc
  | none => let (v, t) := drawFree s; enterException t c vec code v k.pc

/-- A privilege violation on the curator that wrote the control register at `a` (R5): PRIV with code 1. The keeper core
takes none. DESIGN CHOICE: assumption 20. -/
def raisePriv (s : State) (x : Writer) (a : Nat) : State :=
  match x with
  | .kpr => s
  | .cur w => accessTrap s (.curator w) 4 1 a

/-! ### Retirement -/

/-- The loop buffer after a taken branch or a loop end to `target`: kept while the target lies in what it holds (R185). -/
def keepLoop (l : Option (Nat × Nat)) (target : Word) : Option (Nat × Nat) :=
  l.filter (fun r => decide (r.1 ≤ target.toNat) && decide (target.toNat < r.2))

/-- The loop buffer after a backward conditional branch or a loop end at `pc` goes to `target`: it holds the loop when the span is at
most 8 fetch words (R185). -/
def captureLoop (l : Option (Nat × Nat)) (pc target : Word) : Option (Nat × Nat) :=
  let a := target.toNat / 8 * 8
  let b := pc.toNat / 8 * 8 + 8
  if target.toNat ≤ pc.toNat ∧ b - a ≤ 64 then some (a, b) else keepLoop l target

/-- The hardware-loop end test of an instruction at `pc` that falls through to `next` (R211), level by level while
the fuel lasts: LC counts down; non-zero goes back to LS, zero leaves the level and the next level tests. -/
def loopEnd (k : Core) (pc : Word) : Nat → Word → Core
  | 0, next => { k with pc := next }
  | n + 1, next =>
    let d := Fd.cLoopstDepth.get k.loopEff
    if Fd.cLoopstFloor.get k.loopEff < d ∧ ccr k (.le (d - 1)) = pc then
      let lc := (ccr k (.lc (d - 1))).toNat - 1
      let k1 := setCcr k (.lc (d - 1)) (BitVec.ofNat 32 lc)
      if lc ≠ 0 then { k1 with pc := ccr k (.ls (d - 1)), lbuf := captureLoop k.lbuf pc (ccr k (.ls (d - 1))) }
      else
        let k2 := setCcrF k1 .loopst Fd.cLoopstDepth (d - 1)
        loopEnd { k2 with loopEff := Fd.cLoopstDepth.putN k1.loopEff (d - 1) } pc n next
    else { k with pc := next }

/-- Retires the instruction at the core's pc: the next instruction in order, after the end test (DEPTH has 3 bits). -/
def retire (s : State) (c : CoreId) : State := modCore s c (fun k => loopEnd k k.pc 7 (k.pc + 2))

/-- Retires a taken branch: the count of a loop that ends there is unchanged (R186, R190). -/
def retireTo (s : State) (c : CoreId) (target : Word) : State :=
  modCore s c (fun k => { k with pc := target, lbuf := keepLoop k.lbuf target })

/-- Retires a taken conditional branch, which the loop buffer may capture. -/
def branchTo (s : State) (c : CoreId) (target : Word) : State :=
  modCore s c (fun k => { k with pc := target, lbuf := captureLoop k.lbuf k.pc target })

/-- Whether a pc of the keeper core lies in the flash read window, which it names by the low 32 bits of its addresses (R18, R404).
DESIGN CHOICE: assumption 38. -/
def inFlashPc (pc : Nat) : Bool := decide (0x80000000 ≤ pc) && decide (pc < 0x84000000)

/-- The keeper core's fetch stalls while the bank it fetches from has an operation in progress (R400). -/
def fetchStalls (s : State) (pc : Nat) : Bool := inFlashPc pc && bankBusy s ((pc - 0x80000000) / 0x2000000)

/-- Whether a core may execute an instruction now: on, not halted, not standing at an instruction that waits; a tile
not stopped and not held, and while the tick runs between its quire start and the first deckle cycle (R58, R60, R76, R81).
A tile that was released before tick start runs until its first quire start (R140). The TAP may halt a core, and let it run
one instruction (R396). A curator that is to be reset starts nothing new (R438). DESIGN CHOICE: assumption 10. -/
def canRun (s : State) (c : CoreId) : Bool :=
  let k := getCore s c
  k.on && !k.halted && k.wait == .none && k.entry.isNone &&
  (!s.trust.tapHalt.contains (coreKey c) || s.trust.tapStep.contains (coreKey c)) &&
  match c with
  | .tile q _ => k.tx.st != .stopped && !k.tx.hold &&
      (!running s || (k.tx.part && s.tick.started.contains q.val && !s.tick.deckle) || k.tx.early)
  | .keeper => !fetchStalls s k.pc.toNat
  | .curator w => !s.budget.held.any (HeldReq.by w) && !blockStopped s w.num

/-- The exception of an instruction fetch at a pc (R18, R123, R124): a tile's fetch from the flash read window is a privilege
violation with code 2; any other fetch outside the memory that holds code is BUS with code 2. -/
def fetchFault (c : CoreId) (pc : Nat) : Option (Nat × Nat) :=
  match c with
  | .tile _ _ => if pc < 0x1C000 then none else if inFlashPc pc then some (4, 2) else some (3, 2)
  | .curator _ => if pc < 0x40000 then none else some (3, 2)
  | .keeper => if pc < 0x8000 ∨ (0x10000 ≤ pc ∧ pc < 0x18000) ∨ inFlashPc pc then none else some (3, 2)

/-- The folded address of a local address of a core; the keeper core's working RAM stands at 0x1_0000 (R13, R277). -/
def localAddr (c : CoreId) (a : Nat) : Nat :=
  match c with
  | .keeper => if inFlashPc a then flashBase + (a - 0x80000000) else localBase c + (a - 0x10000)
  | _ => localBase c + a

/-- Takes the exception of an instruction that does not retire, or leaves it waiting. -/
def takeHalt (s : State) (c : CoreId) : Halt → State
  | .trap v code ea => enterException s c v code ea (if v = 8 then (getCore s c).pc + 2 else (getCore s c).pc)
  | .trapZero v code ea => enterZero s c v code ea (getCore s c).pc
  | .trapIn t v code ea => enterException t c v code ea (getCore t c).pc
  | .trapMem t v code ea => enterException (setCore t c (getCore s c)) c v code ea (getCore s c).pc
  | .wait => s
  | .waitIn t => t

/-- The one instruction that the TAP allowed a halted core has run. -/
def useStep (c : CoreId) (s : State) : State :=
  if s.trust.tapStep.contains (coreKey c) then
    { s with trust := { s.trust with tapStep := s.trust.tapStep.filter (· != coreKey c) } }
  else s

/-! ### Pairs (R174–R177) -/

/-- Issue classes (R174), with LD, LDB and CCRR apart from the other M-class instructions, as "Split" reads them. -/
inductive PairCls where
  | l | e | a | t | g | ld | m | b | z
deriving DecidableEq, Repr

/-- Whether D pairs an instruction of class `x` with the next one, of class `y`, which reads an operand cell or not (R175). What
slot 1 of class T, LD, LDB or CCRR writes is the top cell, which every reader of cells reads. -/
def pairsTo (x y : PairCls) (reads : Bool) : Bool :=
  y != .z &&
  match x with
  | .l | .e | .a => true
  | .t => !reads
  | .ld => y != .ld && y != .m && !reads
  | .g => y != .g
  | .m => y != .ld && y != .m
  | .b | .z => false

/-- The core, the class and the operand cells that are read and written, of a command that is an instruction. -/
def pairing : Instr → Option (CoreId × PairCls × Nat × Nat)
  | .lit c _ => some (c, .l, 0, 1)
  | .ext c _ => some (c, .e, 1, 1)
  | .dup c => some (c, .a, 1, 2)
  | .drop c => some (c, .a, 1, 0)
  | .swap c => some (c, .a, 2, 2)
  | .over c => some (c, .a, 2, 3)
  | .rot c => some (c, .a, 3, 3)
  | .pick c => some (c, .a, 1, 1)
  | .add c | .sub c | .and c | .or c | .xor c | .shl c | .shr c | .sar c | .cmp c _ => some (c, .a, 2, 1)
  | .mul c | .mulh c | .fadd c | .fmul c => some (c, .t, 2, 1)
  | .div c | .rem c | .fdiv c => some (c, .g, 2, 1)
  | .fsqrt c | .exp2 c | .log2 c => some (c, .g, 1, 1)
  | .ld c _ _ | .ldb c _ _ | .ccrr c => some (c, .ld, 1, 1)
  | .st c _ _ | .stb c _ _ | .stf c | .put c => some (c, .m, 2, 0)
  | .press c => some (c, .m, 1, 0)
  | .ldf c | .get c => some (c, .m, 1, 1)
  | .seal c | .pwait c => some (c, .m, 0, 0)
  | .br c _ | .call c _ | .ret c => some (c, .b, 0, 0)
  | .bz c _ | .bnz c _ | .brInd c | .callInd c => some (c, .b, 1, 0)
  | .loop c len => some (c, .b, (if len = 0 then 0 else 1), 0)
  | _ => none

/-- Whether an instruction of class `cl` at `pc` that has led to `u` is slot 1 of a pair: it has gone on to the next
instruction, no hardware loop ends at it, it is not slot 2 itself, and the next command waiting is an instruction of the core
that D pairs with it. DESIGN CHOICE: assumption 47. -/
def leads (s u : State) (c : CoreId) (cl : PairCls) : Bool :=
  let k := getCore s c
  let n := getCore u c
  let d := Fd.cLoopstDepth.get k.loopEff
  !k.paired && n.pc == k.pc + 2 && n.wait == .none && !(decide (Fd.cLoopstFloor.get k.loopEff < d) && ccr k (.le (d - 1)) == k.pc) &&
  match s.pending with
  | i :: _ => (match pairing i with | some (d, y, rd, _) => d == c && pairsTo cl y (decide (0 < rd)) | none => false)
  | [] => false

/-- Cells that the cache would hold after the next command waiting, from `n`. -/
def cellsAfter (s : State) (n : Nat) : Nat :=
  match s.pending with
  | i :: _ => (match pairing i with | some (_, _, rd, wr) => n - rd + wr | none => n)
  | [] => n

/-- An instruction has had its effect: slot 1 of a pair spills what the cache would hold beyond 8 both now and after the pair,
and any other instruction the cells beyond 8 (R177). DESIGN CHOICE: assumption 47. -/
def endInstr (s u : State) (c : CoreId) (cl : PairCls) : Ex State :=
  let n := (bank (getCore u c) (isSup (getCore u c))).cells.length
  if leads s u c cl then
    match flushCells c (isSup (getCore u c)) (min n (cellsAfter s n) - 8) u with
    | .ok t => .ok (modCore t c (fun k => { k with paired := true }))
    | .error h => .error h
  else spillOver c (isSup (getCore u c)) 2 (if (getCore u c).paired then modCore u c (fun k => { k with paired := false }) else u)

/-- An instruction's effect on a core whose registers a CCRW has changed and no SYNC has followed: it sees the old words or the
new ones, as a free value says (R189, assumption 3). -/
def withStale (c : CoreId) (f : State → Ex State) (s : State) : Ex State :=
  let k := getCore s c
  if k.stale.isEmpty then f s else
  let s1 := { s with free := s.free + 1 }
  if Config.freeNat s.free % 2 = 0 then f s1 else
  let back (t : State) : State := modCore t c (newView k)
  match f (modCore s1 c oldView) with
  | .ok t => .ok (back t)
  | .error (.trapIn t v code ea) => .error (.trapIn (back t) v code ea)
  | .error (.trapMem t v code ea) => .error (.trapMem (back t) v code ea)
  | .error (.waitIn t) => .error (.waitIn (back t))
  | .error h => .error h

/-! ### The frame of an instruction -/

/-- An instruction's own effect, its exception or its wait, from the state in which it has been fetched. -/
def runInstr (c : CoreId) (cl : PairCls) (f : State → Ex State) (s : State) : State :=
  let all (t : State) : Ex State := match f t with | .ok u => endInstr t u c cl | .error h => .error h
  match withStale c all s with
  | .error h => takeHalt s c h
  | .ok u => u

/-- The frame of every instruction: it runs only on a core that may execute; the fetch is checked and read under the binder
code; a code granule that cannot be read dooms a tile (R282) or gives another core BUS; then the instruction's own effect, its
exception or its wait. DESIGN CHOICE: assumption 10. DESIGN CHOICE: assumption 11. -/
def instr (c : CoreId) (cl : PairCls) (f : State → Ex State) (s0 : State) : State :=
  if !canRun s0 c then s0 else
  let s := useStep c s0
  let pc := (getCore s c).pc
  match fetchFault c pc.toNat with
  | some (vec, code) => enterException s c vec code pc pc
  | none =>
    if c = .keeper ∧ pc.toNat < 0x10000 then runInstr c cl f s else
    match readGranule s (localAddr c pc.toNat) [] (coreWorld s c) with
    | (some _, t) => runInstr c cl f t
    | (none, t) =>
      match c with
      | .tile _ _ => runInstr c cl f (modCore t c (doomUncorr 3))
      | _ => enterException t c 3 0 pc pc

/-- Raises CFPF bits (R195, R198). -/
def raiseCfpf (s : State) (c : CoreId) (fl : Word) : State :=
  if fl = 0#32 then s else modCore s c (fun k => setCcr k .cfpf (ccr k .cfpf ||| fl))

/-- The press-flag check of R90: passes when no set flag is enabled. -/
def flagsPass (k : Core) : Bool := ccr k .prsFlags &&& ccr k .prsFen &&& 0x3FF#32 == 0#32

/-- The imprecise arithmetic exception of R90: flags in bits [9:0], enables in [25:16]. -/
def arithTrap (k : Core) : Halt :=
  .trap 6 0 (BitVec.ofNat 32 ((ccr k .prsFlags).toNat % 1024 + 65536 * ((ccr k .prsFen).toNat % 1024)))

end Sys2Proof.Machine
end

