-- ==== Sys2Proof/Machine/CtlOps.lean ====
section
/-! DEFINITION. Writes of control registers: owners (R5, R8, R19, R20, R312), access codes (R4), reserved values (R6), the
curators' access folio (R257), errors of the shared tables. -/

namespace Sys2Proof.Machine

/-! ### Owners -/

/-- The owner of a register: nobody (read-only to both worlds), both worlds, one world, or the keeper core. -/
inductive Own where
  | nobody | both | world (w : World) | kpr
deriving DecidableEq, Repr

/-- Whether egress group g is an ear group, as its ceiling strap has made it (R312). -/
def groupEar (s : State) (g : Nat) : Bool := regF s (.egrGrp g) Fd.egrGrpEar == 1

/-- The egress group of a Maldex port and of a TDM port (R312). -/
def mdxGroup (p : Nat) : Nat := p / 4
def tdmGroup (t : Nat) : Nat := t / 2

/-- The role of a host port (HST_STAT.ROLE): off, or a world. -/
def hostWorld (s : State) (h : Nat) : Option World :=
  match regF s (.hstStat h) Fd.hstStatRole with
  | 0 => none
  | 2 => some .grd
  | _ => some .prg

/-- The owner of a claimed entry, by its claim and its WORLD bit; a free entry may be written by either world. -/
def claimOwn (claimed : Bool) (w : Nat) : Own := if claimed then .world (World.ofNum w) else .both

/-- The owner of a port's registers. -/
def groupOwn (s : State) (g : Nat) : Own := .world (if groupEar s g then .grd else .prg)

/-- The owner of a transmit-map entry (R312): its group's in an ear group, by claim in a line group. -/
def txmapOwn (s : State) (g : Nat) (r : Creg) (en wd : Fld) : Own :=
  if groupEar s g then .world .grd else claimOwn (regF s r en == 1) (regF s r wd)

/-- The owner of the fields of a register that its table does not give field by field. -/
def regOwner (s : State) : Creg → Own
  | .kprClkFail w | .kprRstErr w | .spnErr w | .bdgCur w | .bdgCuru w | .bdgErr w | .bdgEv w | .bdgEv2 w | .memErr w
  | .memPclr w | .pnlEvq w | .pnlEvstat w | .pnlErr w | .truCmd w | .truHdl w | .truArg w | .truSrc w | .truDst w | .truLen w
  | .truLive w | .truLiveqLo w | .truLiveqHi w | .truLiveacc w | .curWcfg w | .curMsg w | .curMsgd w | .curNme w | .curIrq w
  | .curIrqen w | .curStat w | .curConc w | .curFlush w => .world (World.ofNum w)
  | .curFcnt w _ => .world (World.ofNum w)
  | .kprWdgCtl w | .kprWdgKey w | .kprWdgOpen w | .kprWdgClose w | .kprWdgReq w | .kprWdgChk w | .kprWdgStat w | .kprWdgT w
  | .kprWdgDup w => if w = 2 then .kpr else .world (World.ofNum w)
  | .serCfg n | .serBaud n | .serData n | .serLvl n | .serFlow n | .serStat n => .world (if n = 1 then .grd else .prg)
  | .flsCmd c | .flsAddr c | .flsSrc c => if c = 0 then .kpr else .world (if c = 1 then .prg else .grd)
  | .spnSlotcfg n | .spnConc n =>
    claimOwn (regF s (.spnSlotcfg n) Fd.spnSlotcfgType != 0) (regF s (.spnSlotcfg n) Fd.spnSlotcfgWorld)
  | .spnLink q | .cvsQstat q | .qrcRel q | .qrcStat q | .qrcHovr q | .qrcTkov q | .qrcMap q => .world (quireWorld s q)
  | .qrcPos q _ | .qrcSubLo q _ | .qrcSubHi q _ => .world (quireWorld s q)
  | .bdgTfolA i | .bdgTfolB i | .bdgTfolC i | .bdgTev i => .world (indexWorld s i)
  | .bdgAct a | .bdgActu a => .world (if a < 48 then .prg else .grd)
  | .bdgGal h | .bdgGalu h => match hostWorld s h with | some w => .world w | none => .nobody
  | .memChErr _ => .both
  | .memRgnBase r | .memRgnLim r | .memRgnAttr r =>
    claimOwn (regF s (.memRgnAttr r) Fd.memRgnAttrType != 0) (regF s (.memRgnAttr r) Fd.memRgnAttrWorld)
  | .cvsCtl e | .cvsStart e | .cvsLen e | .cvsExp e | .cvsSeq e | .cvsRate e | .cvsStat e | .cvsFirst e | .cvsCnt e =>
    claimOwn (regF s (.cvsCtl e) Fd.cvsCtlClaimed == 1) (regF s (.cvsCtl e) Fd.cvsCtlWorld)
  | .mdxCfg p | .mdxStat p | .mdxErr p | .mdxErr2 p | .mdxTxctln p => groupOwn s (mdxGroup p)
  | .mdxTxctl p _ => groupOwn s (mdxGroup p)
  | .mdxEvq p | .mdxEvstat p => .world (World.ofNum (regF s (.mdxCfg p) Fd.mdxCfgEvw))
  | .mdxTxch p c => txmapOwn s (mdxGroup p) (.mdxTxch p c) Fd.mdxTxchEn Fd.mdxTxchWorld
  | .tdmCfg t | .tdmStat t => groupOwn s (tdmGroup t)
  | .tdmTxslot t i => txmapOwn s (tdmGroup t) (.tdmTxslot t i) Fd.tdmTxslotEn Fd.tdmTxslotWorld
  | .ethTxch e c => claimOwn (regF s (.ethTxch e c) Fd.ethTxchEn == 1) (regF s (.ethTxch e c) Fd.ethTxchWorld)
  | .pnlCfg k => claimOwn (regF s (.pnlCfg k) Fd.pnlCfgClaimed == 1) (regF s (.pnlCfg k) Fd.pnlCfgWorld)
  | .pnlTch j => claimOwn (regF s (.pnlCfg (2 * j)) Fd.pnlCfgClaimed == 1) (regF s (.pnlCfg (2 * j)) Fd.pnlCfgWorld)
  | .hstStat h | .hstWin h | .hstStg h | .hstNote h | .hstErr h | .hstErr2 h =>
    match hostWorld s h with | some w => .world w | none => .nobody
  | .hstRing h _ | .hstRstat h _ => match hostWorld s h with | some w => .world w | none => .nobody
  | _ => .nobody

/-- The owner of a field. -/
def fieldOwner (s : State) (r : Creg) (d : FieldD) : Own :=
  match d.own with
  | .reg => regOwner s r
  | .prg => .world .prg
  | .grd => .world .grd
  | .kpr => .kpr
  | .both => .both

/-- Whether a writer may write what `o` owns; the keeper core writes every control register (R19). -/
def owns (x : Writer) (o : Own) : Bool :=
  match x with
  | .kpr => true
  | .cur w =>
    match o with
    | .both => true
    | .world v => w == v
    | _ => false

/-- The owner of a register owned as a whole: nobody, where its fields are shared (R5). CUR_ELOG and KPR_RST_CTL are read-only to both
worlds. -/
def wholeOwner (s : State) (r : Creg) : Option Own :=
  match r with
  | .kprWdgRcnt2 => none
  | .kprRstCtl => some .nobody
  | .curElog => some .nobody
  | _ =>
    let all (l : List FieldD) : Option Own :=
      match l.map (fieldOwner s r) with
      | [] => some (regOwner s r)
      | o :: l => if l.all (· == o) then some o else none
    match r.fields.filter (fun d => d.acc != .ro) with
    | [] => all r.fields
    | l => all l

/-- Whether a write would change a field (R5). -/
def wouldChange (old v : Word) (d : FieldD) : Bool :=
  match d.acc with
  | .rw => d.fld.get old != d.fld.get v
  | .w1c => old &&& v &&& d.fld.mask != 0#32
  | .wo | .wk => d.fld.get v != 0
  | .ro => false

/-- Whether a write raises the privilege violation of R5. -/
def writeDenied (s : State) (x : Writer) (r : Creg) (v : Word) : Bool :=
  match x with
  | .kpr => false
  | .cur _ =>
    match wholeOwner s r with
    | some .nobody => false
    | some o => !owns x o
    | none => r.fields.any (fun d => !owns x (fieldOwner s r d) && wouldChange (reg s r) v d)

/-! ### Access codes and reserved values -/

/-- One field of a word under a write (R4). -/
def fieldWrite (v : Word) (w : Word) (d : FieldD) : Word :=
  match d.acc with
  | .rw => d.fld.putN w (d.fld.get v)
  | .w1c => w &&& ~~~ (v &&& d.fld.mask)
  | _ => w

/-- The word of a register after a write: every field that the writer owns takes it. -/
def writeMerge (s : State) (x : Writer) (r : Creg) (v : Word) : Word :=
  (r.fields.filter (fun d => owns x (fieldOwner s r d))).foldl (fieldWrite v) (reg s r)

/-- The valid values of fields that can hold reserved values under R6: field, lowest, highest. -/
def Creg.ranges : Creg → List (Fld × Nat × Nat)
  | .tckLimit => [(Fd.tckLimitPull, 1, 200), (Fd.tckLimitSlew, 1, 100), (Fd.tckLimitBw, 0, 2)]
  | .tckSrc => [(Fd.tckSrcSel, 0, 2)]
  | .qrcMap _ => [(Fd.qrcMapIndex, 0, 16)]
  | .mdxCfg _ => [(Fd.mdxCfgTxnch, 0, 256)]
  | .tdmCfg _ => [(Fd.tdmCfgFormat, 0, 2), (Fd.tdmCfgSlots, 1, 16), (Fd.tdmCfgDwidth, 0, 2)]
  | .egrJack _ => [(Fd.egrJackSrc, 0, 2)]
  | .ethRxsMap _ => [(Fd.ethRxsMapNch, 1, 64)]
  | .ethTxsMap _ => [(Fd.ethTxsMapNch, 1, 64)]
  | .serCfg _ => [(Fd.serCfgPar, 0, 2)]
  | .serBaud _ => [(Fd.serBaudDiv, 256, 1048575)]
  | .hstRing _ _ => [(Fd.hstRingLogn, 1, 16), (Fd.hstRingLogs, 0, 6), (Fd.hstRingNmode, 0, 1)]
  | .truCmd _ => [(Fd.truCmdOp, 1, 7)]
  | .truLive _ => [(Fd.truLiveOp, 1, 5), (Fd.truLiveSrc, 0, 2), (Fd.truLiveK, 0, 16)]
  | .flsAddr _ => [(Fd.flsAddrSlot, 1, 2)]
  | .kprRstCtl => [(Fd.kprRstCtlTimeout, 1, 255)]
  | .kprPwrReq => [(Fd.kprPwrReqTgtPrg, 1, 2), (Fd.kprPwrReqTgtGrd, 1, 2)]
  | _ => []

/-- The word of last valid values after the register takes `w`: a reserved value leaves its field's. -/
def keepValid (r : Creg) (eff w : Word) : Word :=
  r.fields.foldl (fun e d =>
    let n := d.fld.get w
    if r.ranges.any (fun x => x.1 == d.fld && !(decide (x.2.1 ≤ n) && decide (n ≤ x.2.2))) then e else d.fld.putN e n) eff

/-- A register takes a word from a write: as stored, and as acted on (R6). -/
def storeReg (s : State) (r : Creg) (w : Word) : State :=
  let t := setReg s r w
  if r.ranges.isEmpty then t else { t with eff := t.eff.set r.addr (keepValid r (regEff s r) w) r.resetWord }

/-- A write under R4, R5 and R6, with no other effect. -/
def plainWrite (x : Writer) (r : Creg) (v : Word) (s : State) : State :=
  let t := storeReg s r (writeMerge s x r v)
  if writeDenied s x r v then raisePriv t x r.addr else t

/-- The hardware sets a field, as stored and as acted on. -/
def hwField (s : State) (r : Creg) (f : Fld) (n : Nat) : State :=
  let t := setRegF s r f n
  if r.ranges.isEmpty then t else { t with eff := t.eff.set r.addr (f.putN (regEff s r) n) r.resetWord }

/-! ### Writers -/

/-- The world whose rights a writer uses on something that world `o` owns (R508). -/
def rights (x : Writer) (o : World) : World :=
  match x with
  | .cur w => w
  | .kpr => o

/-- Sets a bit of a word's register and leaves the rest. -/
def raiseBit (s : State) (r : Creg) (f : Fld) : State := setRegF s r f 1

/-- N, p and q of the period of each tick rate (R53, R54). -/
def rateTable (rate : Nat) : Nat × Nat × Nat :=
  match rate with
  | 0 => (45351, 209, 441)
  | 1 => (41666, 2, 3)
  | 2 => (22675, 325, 441)
  | 3 => (20833, 1, 3)
  | 4 => (11337, 383, 441)
  | _ => (10416, 2, 3)

/-- The tick rate code (TCK_CTL.RATE). -/
def rate (s : State) : Nat := regF s .tckCtl Fd.tckCtlRate
/-- The short period in cycles. -/
def pShort (s : State) : Nat := (rateTable (rate s)).1

/-- Adds one to a counter map. DESIGN CHOICE: assumption 19. -/
def bumpMap (m : SMap Nat) (k n : Nat) : SMap Nat := m.set k (m.get k 0 + n) 0

/-- A request joins those that a spent folio holds, behind the earlier ones (R248). -/
def holdReq (h : HeldReq) (s : State) : State := { s with budget := { s.budget with held := s.budget.held ++ [h] } }

/-- The charge of a control-space access of a writer: a curator whose CTL folio is spent is marked held, and the access
waits for the next tick edge (R246, R248, R257), and so does one behind an access that already waits. The keeper core is not
budgeted. DESIGN CHOICE: assumption 19. -/
def ctlCharge (x : Writer) (s : State) : Bool × State :=
  match x with
  | .kpr => (true, s)
  | .cur w =>
    let used := s.budget.ctl.get w.num 0
    let cap := min (regLatF s (.bdgCur w.num) Fd.bdgCurCtl) (pShort s / 4)
    if !running s then (true, s)
    else if s.budget.held.any (HeldReq.by w) then (false, s)
    else if cap ≤ used then (false, { s with budget := { s.budget with heldCur := NSet.add s.budget.heldCur w.num } })
    else (true, { s with budget := { s.budget with ctl := bumpMap s.budget.ctl w.num 1 } })

/-- A bit of a register array of 32 bits a word. -/
def bitOf (s : State) (r : Nat → Creg) (b : Nat) : Bool := (reg s (r (b / 32))).getLsbD (b % 32)

/-- The block of KPR_RST_REQ whose registers hold an address (R437). -/
def blockAt (a : Nat) : Option Nat :=
  let at_ (first lo step n : Nat) : Option Nat := if lo ≤ a ∧ a < lo + step * n then some (first + (a - lo) / step) else none
  [at_ 2 0x0F02000000 0x10000 64, at_ 66 0x0F04000000 0x10000 32, at_ 98 0x0F05000000 0x1000 16, at_ 114 0x0F05100000 0x100000 1,
    at_ 115 0x0F06000000 0x10000 4, at_ 119 0x0F05200000 0x100000 1, at_ 120 0x0F00060000 0x10000 4,
    at_ 124 0x0F03100000 0x1000 1].findSome? id

/-- Whether an address lies in a block that is held in reset, pending, for want of its clock (R434): a write there has no effect.
DESIGN CHOICE: assumption 41. -/
def pendingAt (s : State) (a : Nat) : Bool :=
  match blockAt a with
  | some b => bitOf s .kprRstPend b
  | none => false

/-- A control-space access of a writer: a write of `v` at `a`, or a read. It has its effect `f` once it is charged, and is held
otherwise (R248, R257). A curator reaches the control space only while the main die has power, and the keeper core only while it
runs (R11). -/
def withAccess (x : Writer) (a : Nat) (v : Option Word) (f : State → State) (s : State) : State :=
  let g (t : State) : State := if v.isSome && pendingAt t a then t else f t
  match x with
  | .kpr => if (getCore s .keeper).on then g s else s
  | .cur w =>
    if !s.power.up then s else
    match ctlCharge x s with
    | (true, t) => g t
    | (false, t) => holdReq (match v with | some v => .wr w a v | none => .rd w a) t

/-- Whether the archive folio of a tile cannot cover a granule (R243, R248). -/
def arcSpent (s : State) (q j : Nat) (k : Core) : Bool :=
  let lim := regLatF s (.bdgTfolB (folioIndex s q j)) Fd.bdgTfolBArc
  running s && k.tx.part && lim != 0xFFFF && decide (lim ≤ k.tx.arc)

/-- One bulk granule of a curator: `none` while its BULK folio is spent. DESIGN CHOICE: assumption 19. -/
def bulkCharge (w : World) (s : State) : Option State :=
  let lim := regLatF s (.bdgCur w.num) Fd.bdgCurBulk
  let used := s.budget.bulk.get w.num 0
  if running s && lim != 0xFFFF && decide (lim ≤ used) then none
  else some { s with budget := { s.budget with bulk := bumpMap s.budget.bulk w.num 1 } }

end Sys2Proof.Machine
end

