-- ==== Sys2Proof/Machine/Operands.lean ====
section
/-! DEFINITION. Operand forms: immediates, branch targets, effective addresses (R192, R202, R207), the aperture
translation and the checks of far accesses (R12–R18, R137, R138, R291), the microword and the press address generators
(R156–R159). -/

namespace Sys2Proof.Machine

/-- Target of a direct branch (R207): the branch's address + 2 + 2 × offset. -/
def branchTarget (pc : Word) (off : BitVec 11) : Word := pc + 2 + 2 * off.signExtend 32

/-- What a local effective address names (R123, R124, R13). -/
inductive LocalTgt where
  | sram (a : Nat)
  | pstore (a : Nat)
  | rom (a : Nat)
  | unpop
deriving DecidableEq, Repr

/-- Decodes a local address of a core; `sram` gives the folded address. -/
def localTarget (c : CoreId) (a : Nat) : LocalTgt :=
  match c with
  | .tile _ _ => if a < 0x20000 then .sram (localBase c + a) else if a < 0x28000 then .pstore (localBase c + a) else .unpop
  | .curator _ => if a < 0x40000 then .sram (localBase c + a) else .unpop
  | .keeper =>
    if a < 0x8000 then .rom a else if 0x10000 ≤ a ∧ a < 0x18000 then .sram (localBase c + (a - 0x10000)) else .unpop

/-! ### Addresses of the control space -/

/-- The frame windows of ETH (R340): offset 0x400–0x9FF of each CRX and CTX block, by port and word offset. -/
def crxAt (a : Nat) : Option (Nat × Nat) :=
  [0, 1].findSome? (fun e => let b := 0x0F05108400 + 0x1000 * e; if b ≤ a ∧ a < b + 0x600 ∧ a % 4 = 0 then some (e, a - b) else none)
def ctxAt (a : Nat) : Option (Nat × Nat) :=
  [0, 1].findSome? (fun e => let b := 0x0F0510A400 + 0x1000 * e; if b ≤ a ∧ a < b + 0x600 ∧ a % 4 = 0 then some (e, a - b) else none)

/-- Whether an address is a word of retained memory (KPR_RET). -/
def inRet (a : Nat) : Bool := decide (retBase ≤ a) && decide (a < retBase + 0x10000) && a % 4 == 0

/-- Whether a block decodes the word of a control-space address (R16). -/
def ctlDecoded (a : Nat) : Bool :=
  let w := a / 4 * 4
  inRet w || (crxAt w).isSome || (ctxAt w).isSome || (Creg.decode w).isSome

/-- What a far access reaches once its checks pass. -/
inductive FarTgt where
  /-- A control register address. -/
  | ctl (a : Nat)
  /-- Memory at a folded address; `quire` charges the archive folio, otherwise GDDR7 or a curator's own memory. -/
  | mem (a : Nat) (charge : Bool)
  /-- The keeper core's ROM. -/
  | rom (a : Nat)
  /-- A logical tile, by its consumed-from index, whose takeover is in progress (R15). -/
  | held (n : Nat)
  /-- Refused: vector and code. -/
  | deny (vec code : Nat)
deriving DecidableEq, Repr

/-- Region of an address in the latched table (R289, R291): its entry. -/
def regionOf (s : State) (a : Nat) : Option Nat :=
  (List.range 64).find? (fun r =>
    regLatF s (.memRgnAttr r) Fd.memRgnAttrType != 0 &&
    decide (65536 * regLatF s (.memRgnBase r) Fd.memRgnBaseAddr ≤ a) && decide (a < 65536 * regLatF s (.memRgnLim r) Fd.memRgnLimAddr))

/-- The world of a region entry. -/
def regionWorld (s : State) (r : Nat) : World := World.ofNum (regLatF s (.memRgnAttr r) Fd.memRgnAttrWorld)

/-- Whether the archive offset of a quire may not be stored to by a core (R129). -/
def archGuarded (off : Nat) : Bool := decide (off < 0x330000)

/-- The memory an archive offset reads from: a ledger address reads the committed copy of its granule, in either half of
the pair (R127). -/
def archRead (s : State) (q off : Nat) : Nat :=
  if 0x2A8000 ≤ off ∧ off < 0x330000 then
    let o := off - 0x2A8000
    committedAt s q (o / 0x8000) (o % 0x4000 / 32) + o % 32
  else archBase q + off

/-- Where an address of the folded space reads from when it is read: that of a ledger reads its committed copy then (R127). -/
def readAddr (s : State) (a : Nat) : Nat :=
  if archBase 0 ≤ a ∧ a < archBase 64 then archRead s ((a - archBase 0) / 0x400000) ((a - archBase 0) % 0x400000) else a

/-- Whether an address lies in the quire-shared region of an archive, where stores take effect when issued (R128, R129). -/
def archShared (a : Nat) : Bool := decide (archBase 0 ≤ a) && decide (a < archBase 64) && !archGuarded ((a - archBase 0) % 0x400000)

/-- The tile part of a far target: offset in a tile's span, by position (R14, R123, R138). -/
def farTileOff (q j off : Nat) (store sup : Bool) : FarTgt :=
  if store ∧ 0x1C000 ≤ off ∧ off < 0x28000 then .deny 4 6
  else if 0x28000 ≤ off then .deny 3 0
  else if 0x20000 ≤ off ∧ !sup then .deny 4 0
  else .mem (tileBase q j + off) true

/-- The checks of R138 after the descriptor and level checks, in order: control space or flash window, other world,
guarded targets, unpopulated. `sup` is the level of the access. -/
def farTarget (s : State) (c : CoreId) (a : Nat) (store sup : Bool) : FarTgt :=
  let w := coreWorld s c
  let isTile := match c with | .tile _ _ => true | _ => false
  if 0x0F00000000 ≤ a ∧ a < 0x0F80000000 then (if isTile then .deny 4 2 else .ctl a)
  else if 0x0F80000000 ≤ a ∧ a < 0x0F84000000 then
    (if isTile then .deny 4 2 else if store then .deny 3 0 else .mem a false)
  else if a < 0x0100000000 then
    match c with
    | .tile q j =>
      if a < 0x40000 then farTileOff q.val j.val a store sup
      else if 0x400000 ≤ a ∧ a < 0x800000 then
        (if store && archGuarded (a - 0x400000) then .deny 4 6
         else .mem (archBase q.val + (a - 0x400000)) true)
      else .deny 3 0
    | _ =>
      match localTarget c a with
      | .sram x => .mem x false
      | .rom x => if store then .deny 3 0 else .rom x
      | _ => .deny 3 0
  else if 0x0100000000 ≤ a ∧ a < 0x0110000000 then
    let l := (a - 0x0100000000) / 0x40000
    let off := (a - 0x0100000000) % 0x40000
    let q := l / 16
    if w ≠ some (quireWorld s q) then .deny 4 1
    else
      match (getQuire s q).load with
      | some (.takeover j k) =>
        if k = l % 16 then
          (if store ∧ 0x1C000 ≤ off ∧ off < 0x28000 then .deny 4 6 else if 0x28000 ≤ off then .deny 3 0 else .held l)
        else match holder s q (l % 16) with
          | some j' =>
            if store ∧ 0x1C000 ≤ off ∧ off < 0x28000 then .deny 4 6
            else if j' = j then .held l else farTileOff q j' off store sup
          | none => .deny 3 0
      | _ =>
        match holder s q (l % 16) with
        | some j => farTileOff q j off store sup
        | none => .deny 3 0
  else if 0x0200000000 ≤ a ∧ a < 0x0210000000 then
    let q := (a - 0x0200000000) / 0x400000
    let off := (a - 0x0200000000) % 0x400000
    if w ≠ some (quireWorld s q) then .deny 4 1
    else if store && archGuarded off then .deny 4 6
    else .mem (archBase q + off) true
  else if gddrBase ≤ a ∧ a < memTop s then
    if a < gddrBase + 0x2000000 then (if c = .keeper then .mem a false else .deny 4 1)
    else match regionOf s a with
      | none => .deny 3 0
      | some r =>
        if w ≠ some (regionWorld s r) then .deny 4 1
        else if store ∧ regLatF s (.memRgnAttr r) Fd.memRgnAttrType = 2 then .deny 4 5
        else .mem a false
  else .deny 3 0

/-- Whether a user-level store by a core to a folded address falls into its shadow window (R223, R231). -/
def shadowStore (c : CoreId) (k : Core) (a : Nat) : Bool :=
  !isSup k && decide (localBase c + winBase k .shwin ≤ a) && decide (a < localBase c + winLimit k .shwin) &&
    decide (a < localBase c + 0x40000)

/-- An LDF or STF address through its aperture (R137, R138): the target, or the exception of the first failing check; a
control-space address that no block decodes is unpopulated (R16), and misalignment comes last. A target beyond 40 bits wraps.
DESIGN CHOICE: assumption 18. -/
def aperture (s : State) (c : CoreId) (addr : Word) (store : Bool) : FarTgt :=
  let k := getCore s c
  let d := addr.toNat / 2 ^ 29
  let off := addr.toNat % 2 ^ 29
  let apa := ccr k (.apa d)
  let sup := isSup k
  let perm := if store then (if sup then Fd.cApaSw else Fd.cApaUw) else (if sup then Fd.cApaSr else Fd.cApaUr)
  if Fd.cApaValid.get apa = 0 ∨ 4096 * (ccrF k (.apl d) Fd.cAplSize + 1) ≤ off then .deny 3 0
  else if perm.get apa = 0 then .deny 4 3
  else
    let t := farTarget s c ((4096 * ccrF k (.apb d) Fd.cApbBase + off) % 2 ^ 40) store sup
    let last (t : FarTgt) : FarTgt := if addr.toNat % 4 ≠ 0 then .deny 2 0 else t
    match t with
    | .deny v e => .deny v e
    | .ctl a => if ctlDecoded a then last t else .deny 3 0
    | .mem a _ => if store && shadowStore c k a then .deny 4 4 else last t
    | _ => last t

/-- The world whose region or quire a folded address stands in, for evidence records. -/
def addrWorld (s : State) (a : Nat) : Option World :=
  if gddrBase ≤ a ∧ a < 0x0A00000000 then (regionOf s a).map (regionWorld s)
  else match memClass s a with
    | some (_, _, w) => w
    | none => if a / 0x40000 = 0x0E00000000 / 0x40000 then some .prg
      else if a / 0x40000 = 0x0E00040000 / 0x40000 then some .grd else none

/-! ### The microword (R156) -/

/-- A microword by its fields. -/
structure Uword where
  op : Nat
  acc : Nat
  lmask : Nat
  srca : Nat
  srcb : Nat
  dst : Nat
  ag0 : Nat
  ag1 : Nat
  ag2 : Nat
  rmode : Nat
  scale : Nat
  dw : Nat
  dith : Bool
  wait : Nat
  warg : Nat
  tmo : Nat
  lcmd : Nat
  lcnt : Nat
  bcond : Nat
  btgt : Nat
  fin : Bool
  lsel : Nat
deriving DecidableEq, Repr, Inhabited

/-- The step code of a generator. -/
def Uword.ag (u : Uword) (g : Nat) : Nat := if g = 0 then u.ag0 else if g = 1 then u.ag1 else u.ag2

/-- Bits `[lo + n − 1 : lo]` of a number. -/
def bitsAt (w lo n : Nat) : Nat := w / 2 ^ lo % 2 ^ n

/-- Reads the fields of a 128-bit microword. -/
def uword (w : Nat) : Uword :=
  { op := bitsAt w 0 6, acc := bitsAt w 6 3, lmask := bitsAt w 9 16, srca := bitsAt w 25 3, srcb := bitsAt w 28 3,
    dst := bitsAt w 31 3, ag0 := bitsAt w 34 4, ag1 := bitsAt w 38 4, ag2 := bitsAt w 42 4, rmode := bitsAt w 46 2, scale := bitsAt w 48 8,
    dw := bitsAt w 56 4, dith := bitsAt w 60 1 == 1, wait := bitsAt w 61 4, warg := bitsAt w 65 16, tmo := bitsAt w 81 12,
    lcmd := bitsAt w 93 2, lcnt := bitsAt w 95 12, bcond := bitsAt w 107 3, btgt := bitsAt w 110 11,
    fin := bitsAt w 121 1 == 1, lsel := bitsAt w 122 1 }

/-- A number of `n` bits that stands at bit `lo` of a granule, with the bits turned over that a miscorrection left wrong. -/
def flipNat (flips : List Nat) (lo n w : Nat) : Nat :=
  flips.foldl (fun x f => if lo ≤ f ∧ f < lo + n then x ^^^ 2 ^ (f - lo) else x) w

/-- The microword at an index of a position's press store, as a read with such wrong bits delivers it. -/
def fetchUwordWith (flips : List Nat) (s : State) (q j i : Nat) : Uword :=
  uword (flipNat flips (128 * (i % 2)) 128 (memNat s (tileBase q j + 0x20000 + 16 * i) 16))

/-- The microword at an index of a position's press store. -/
def fetchUword (s : State) (q j i : Nat) : Uword := fetchUwordWith [] s q j i

/-- A 16-bit or an 8-bit field as a signed number. -/
def signedOf (n v : Nat) : Int := if v < 2 ^ (n - 1) then (v : Int) else (v : Int) - 2 ^ n

/-- LEN in force: values above 32,768 act as 0 (PRS_AGgLEN). -/
def agLen (k : Core) (g : Nat) : Nat :=
  let l := ccrF k (.prsAglen g) Fd.cPrsAglenLen
  if 32768 < l then 0 else l

/-- The word index that lane `l` accesses through generator `g` (R159). -/
def agIndex (k : Core) (g l : Nat) : Nat :=
  let base : Int := (ccrF k (.prsAgbase g) Fd.cPrsAgbaseBase : Int)
  let ptr : Int := (ccrF k (.prsAgptr g) Fd.cPrsAgptrPtr : Int)
  let off : Int := ptr + (l : Int) * signedOf 8 (ccrF k (.prsAgstr g) Fd.cPrsAgstrLstr)
  let len := agLen k g
  if len = 0 then ((base + off) % 32768).toNat else ((base + off % (len : Int)) % 32768).toNat

/-- The generator's PTR after a step field (R159). -/
def agStep (k : Core) (g step : Nat) : Core :=
  let ptr : Int := (ccrF k (.prsAgptr g) Fd.cPrsAgptrPtr : Int)
  let stride := signedOf 16 (ccrF k (.prsAgstr g) Fd.cPrsAgstrStride)
  let p : Int := match step with
    | 1 => ptr + stride
    | 2 => ptr + 16
    | 3 => 0
    | 4 => ptr - stride
    | _ => ptr
  let len := agLen k g
  if step = 0 ∨ 5 ≤ step then k
  else setCcrF k (.prsAgptr g) Fd.cPrsAgptrPtr (p % (if len = 0 then 65536 else (len : Int))).toNat

/-- Generator 1 names mirror entries (R160). -/
def mirrorMode (k : Core) : Bool := ccrF k (.prsAgbase 1) Fd.cPrsAgbaseMirror == 1

end Sys2Proof.Machine
end

