-- ==== Sys2Proof/Machine/StackOps.lean ====
section
/-! DEFINITION. Meanings of the literals and of group 0: stack, integer and floating-point operations (R192, R196–R200)
and of the arrival of a side-unit result (R179, R180, R182). -/

namespace Sys2Proof.Machine

/-- Pops b then a, pushes a result computed from them and raises its CFPF bits, then retires. -/
def binary (c : CoreId) (f : Word → Word → FRes) (s : State) : Ex State := do
  let (b, s1) ← pop c s
  let (a, s2) ← pop c s1
  let r := f a b
  let s3 ← push c r.val s2
  pure (retire (raiseCfpf s3 c r.cfpf) c)

/-- A result without flags. -/
def plain (f : Word → Word → Word) (a b : Word) : FRes := ⟨f a b, false, false, false, false⟩

/-- Dispatches an operation to the side unit (R179, R180): the instruction retires with a pending cell; with all four
slots taken it waits. -/
def dispatch (c : CoreId) (r : FRes) (s : State) : Ex State :=
  let k := getCore s c
  if 4 ≤ k.side.length then .error .wait else
  match pushCell c (.pend k.nextId) s with
  | .error h => .error h
  | .ok t => .ok (retire (modCore t c (fun x => { x with side := x.side ++ [⟨k.nextId, r.val, r.cfpf⟩], nextId := k.nextId + 1 })) c)

/-- A two-operand side-unit operation. -/
def sideBinary (c : CoreId) (f : Word → Word → FRes) (s : State) : Ex State := do
  let (b, s1) ← pop c s
  let (a, s2) ← pop c s1
  dispatch c (f a b) s2

/-- A one-operand side-unit operation. -/
def sideUnary (c : CoreId) (f : Word → FRes) (s : State) : Ex State := do
  let (a, s1) ← pop c s
  dispatch c (f a) s1

/-- LIT (R192). -/
def doLit (c : CoreId) (imm : BitVec 15) : State → State :=
  instr c .l (fun s => do let t ← push c (imm.signExtend 32) s; pure (retire t c))

/-- EXT (R192): (T shl 14) or the immediate. -/
def doExt (c : CoreId) (imm : BitVec 14) : State → State :=
  instr c .e (fun s => do
    let (t, s1) ← pop c s
    let s2 ← push c (t <<< 14 ||| imm.setWidth 32) s1
    pure (retire s2 c))

/-- DUP: a copy of a pending cell is pending on the same result (R182). -/
def doDup (c : CoreId) : State → State :=
  instr c .a (fun s => do
    let (a, s1) ← popCell c s
    let s2 ← pushCell c a s1
    let s3 ← pushCell c a s2
    pure (retire s3 c))

/-- DROP. -/
def doDrop (c : CoreId) : State → State :=
  instr c .a (fun s => do let (_, s1) ← popCell c s; pure (retire s1 c))

/-- SWAP. -/
def doSwap (c : CoreId) : State → State :=
  instr c .a (fun s => do
    let (b, s1) ← popCell c s
    let (a, s2) ← popCell c s1
    let s3 ← pushCell c b s2
    let s4 ← pushCell c a s3
    pure (retire s4 c))

/-- OVER. -/
def doOver (c : CoreId) : State → State :=
  instr c .a (fun s => do
    let (b, s1) ← popCell c s
    let (a, s2) ← popCell c s1
    let s3 ← pushCell c a s2
    let s4 ← pushCell c b s3
    let s5 ← pushCell c a s4
    pure (retire s5 c))

/-- ROT ( a b c -- b c a ). -/
def doRot (c : CoreId) : State → State :=
  instr c .a (fun s => do
    let (z, s1) ← popCell c s
    let (y, s2) ← popCell c s1
    let (x, s3) ← popCell c s2
    let s4 ← pushCell c y s3
    let s5 ← pushCell c z s4
    let s6 ← pushCell c x s5
    pure (retire s6 c))

/-- Cell `n` below the top, cached or in the stack region; one that lies below the region takes the stack-region check
(R197). -/
def peekCell (c : CoreId) (n : Nat) (s : State) : Ex (Cell × State) :=
  let k := getCore s c
  let sup := isSup k
  let b := bank k sup
  match b.cells[n]? with
  | some x => .ok (x, s)
  | none =>
    let o := (ccr k (osp sup)).toNat
    let d := 4 * (n - b.cells.length + 1)
    if stackValid c k sup && decide (winBase k (win sup) + d ≤ o) then
      match readSram c (o - d) s with
      | .ok (w, t) => .ok (.val w, t)
      | .error h => .error h
    else .error (stackTrap (o + 2 ^ 32 - d % 2 ^ 32))

/-- PICK (R196, R197): copies cell k, counting the cell below k as cell 0. -/
def doPick (c : CoreId) : State → State :=
  instr c .a (fun s => do
    let (n, s1) ← pop c s
    let (x, s2) ← peekCell c n.toNat s1
    let s3 ← pushCell c x s2
    pure (retire s3 c))

/-- ADD (R197, R198). -/
def doAdd (c : CoreId) : State → State := instr c .a (binary c (plain (· + ·)))

/-- SUB (R197, R198). -/
def doSub (c : CoreId) : State → State := instr c .a (binary c (plain (· - ·)))

/-- AND (R197, R198). -/
def doAnd (c : CoreId) : State → State := instr c .a (binary c (plain (· &&& ·)))

/-- OR (R197, R198). -/
def doOr (c : CoreId) : State → State := instr c .a (binary c (plain (· ||| ·)))

/-- XOR (R197, R198). -/
def doXor (c : CoreId) : State → State := instr c .a (binary c (plain (· ^^^ ·)))

/-- SHL (R197, R198). -/
def doShl (c : CoreId) : State → State := instr c .a (binary c (plain shlW))

/-- SHR (R197, R198). -/
def doShr (c : CoreId) : State → State := instr c .a (binary c (plain shrW))

/-- SAR (R197, R198). -/
def doSar (c : CoreId) : State → State := instr c .a (binary c (plain sarW))

/-- MUL (R197, R198). -/
def doMul (c : CoreId) : State → State := instr c .t (binary c (plain (· * ·)))

/-- MULH (R197, R198). -/
def doMulh (c : CoreId) : State → State := instr c .t (binary c (plain mulhW))

/-- FADD (R197, R198). -/
def doFadd (c : CoreId) : State → State := instr c .t (binary c (f32Add))

/-- FMUL (R197, R198). -/
def doFmul (c : CoreId) : State → State := instr c .t (binary c (f32Mul))

/-- DIV (R197, R198), in the side unit. -/
def doDiv (c : CoreId) : State → State := instr c .g (sideBinary c divW)

/-- REM (R197, R198), in the side unit. -/
def doRem (c : CoreId) : State → State := instr c .g (sideBinary c remW)

/-- FDIV (R197, R198), in the side unit. -/
def doFdiv (c : CoreId) : State → State := instr c .g (sideBinary c f32Div)

/-- FSQRT (R198, R199), in the side unit. -/
def doFsqrt (c : CoreId) : State → State := instr c .g (sideUnary c f32Sqrt)

/-- EXP2 (R198, R199), in the side unit. -/
def doExp2 (c : CoreId) : State → State := instr c .g (sideUnary c f32Exp2)

/-- LOG2 (R198, R199), in the side unit. -/
def doLog2 (c : CoreId) : State → State := instr c .g (sideUnary c f32Log2)

/-- The CMP result: −1 or 0, with NV for a signalling-NaN operand (R200). -/
def cmpRes (cc : Cond) (a b : Word) : FRes :=
  ⟨if (condEval cc a b).1 then 0xFFFFFFFF#32 else 0#32, (condEval cc a b).2, false, false, false⟩

/-- CMP (R200). -/
def doCmp (c : CoreId) (cc : Cond) : State → State := instr c .a (binary c (cmpRes cc))

/-- A side-unit result arrives (R179, R180, R182): it is written to the cells pending on it, its flags set and its slot
freed. DEDUCED: assumption 15. -/
def doSideUnitResult (c : CoreId) (i : Fin 4) (s : State) : State :=
  let k := getCore s c
  match k.side[i.val]? with
  | none => s
  | some o =>
    let k1 := { k with side := k.side.eraseIdx i.val }
    arrive c (if o.fl = 0#32 then k1 else setCcr k1 .cfpf (ccr k1 .cfpf ||| o.fl)) o.id o.res s

def execLit (c : CoreId) (imm : BitVec 15) (s : State) : Out := .next (doLit c imm s)

def execExt (c : CoreId) (imm : BitVec 14) (s : State) : Out := .next (doExt c imm s)

def execDup (c : CoreId) (s : State) : Out := .next (doDup c s)

def execDrop (c : CoreId) (s : State) : Out := .next (doDrop c s)

def execSwap (c : CoreId) (s : State) : Out := .next (doSwap c s)

def execOver (c : CoreId) (s : State) : Out := .next (doOver c s)

def execRot (c : CoreId) (s : State) : Out := .next (doRot c s)

def execPick (c : CoreId) (s : State) : Out := .next (doPick c s)

def execAdd (c : CoreId) (s : State) : Out := .next (doAdd c s)

def execSub (c : CoreId) (s : State) : Out := .next (doSub c s)

def execAnd (c : CoreId) (s : State) : Out := .next (doAnd c s)

def execOr (c : CoreId) (s : State) : Out := .next (doOr c s)

def execXor (c : CoreId) (s : State) : Out := .next (doXor c s)

def execShl (c : CoreId) (s : State) : Out := .next (doShl c s)

def execShr (c : CoreId) (s : State) : Out := .next (doShr c s)

def execSar (c : CoreId) (s : State) : Out := .next (doSar c s)

def execMul (c : CoreId) (s : State) : Out := .next (doMul c s)

def execMulh (c : CoreId) (s : State) : Out := .next (doMulh c s)

def execDiv (c : CoreId) (s : State) : Out := .next (doDiv c s)

def execRem (c : CoreId) (s : State) : Out := .next (doRem c s)

def execFadd (c : CoreId) (s : State) : Out := .next (doFadd c s)

def execFmul (c : CoreId) (s : State) : Out := .next (doFmul c s)

def execFdiv (c : CoreId) (s : State) : Out := .next (doFdiv c s)

def execFsqrt (c : CoreId) (s : State) : Out := .next (doFsqrt c s)

def execExp2 (c : CoreId) (s : State) : Out := .next (doExp2 c s)

def execLog2 (c : CoreId) (s : State) : Out := .next (doLog2 c s)

def execCmp (c : CoreId) (cc : Cond) (s : State) : Out := .next (doCmp c cc s)

def execSideUnitResult (c : CoreId) (i : Fin 4) (s : State) : Out := .next (doSideUnitResult c i s)

end Sys2Proof.Machine
end

