-- ==== Sys2Proof/Machine/Flow.lean ====
section
/-! DEFINITION. Meanings of the control-register operations (R205, R228, R189, R212), branches, calls and returns (R194,
R207), RETI (R233), SYNC, IFLUSH, WFT, TRAP, LOOP (R188, R189, R208–R211), illegal opcodes and the reserved block (R217,
R218). -/

namespace Sys2Proof.Machine

/-! ### Core control registers -/

/-- Writes cached return entries of a bank to its stack region, the oldest first, `n` of them at most (R228). -/
def flushRets (c : CoreId) (sup : Bool) : Nat → State → Ex State
  | 0, s => .ok s
  | n + 1, s =>
    match spillRet c sup 0 s with
    | .ok t => flushRets c sup n t
    | .error h => .error h

/-- Writes cached shadow entries of a bank to the shadow region, the oldest first, `n` of them at most (R228, R231). -/
def flushShs (c : CoreId) (sup : Bool) : Nat → State → Ex State
  | 0, s => .ok s
  | n + 1, s =>
    match spillSh c sup 0 s with
    | .ok t => flushShs c sup n t
    | .error h => .error h

/-- The value CCRR returns, with what the read does (R205, R228, R64): a stack pointer of the other level first has its
cached cells written out; TICK_LO latches the high half; the retirement counters are free values (assumption 5). -/
def ccrRead (c : CoreId) (r : Ccr) (s : State) : Ex (Word × State) :=
  let k := getCore s c
  let sup := isSup k
  let after (e : Ex State) : Ex (Word × State) :=
    match e with
    | .ok t => .ok (ccr (getCore t c) r, t)
    | .error h => .error h
  match r with
  | .uosp => if sup then after (flushCells c false k.user.cells.length s) else .ok (ccr k r, s)
  | .ursp => if sup then after (flushRets c false k.user.rets.length s) else .ok (ccr k r, s)
  | .sosp => if sup then .ok (ccr k r, s) else after (flushCells c true k.sup.cells.length s)
  | .srsp => if sup then .ok (ccr k r, s) else after (flushRets c true k.sup.rets.length s)
  | .shsp => after (flushShs c (!sup) (bank k (!sup)).shs.length s)
  | .cstat =>
    .ok (cstatWord s c k, s)
  | .tickLo =>
    let n : BitVec 64 := match c with | .tile _ _ => k.tick | _ => s.tick.count
    .ok (n.setWidth 32, setCore s c { k with tickHi := (n >>> 32).setWidth 32 })
  | .tickHi => .ok (k.tickHi, s)
  | .pipeCnt => .ok (drawFree s)
  | .pipeCntp => .ok (drawFree s)
  | _ => .ok (ccr k r, s)

/-- One field of a core register under a write (R4). -/
def ccrField (old v : Word) (d : CcrD) (w : Word) : Word :=
  match d.acc with
  | .rw => d.fld.putN w (d.fld.get v)
  | .w1c => w &&& ~~~ (v &&& d.fld.mask)
  | _ => d.fld.putN w (d.fld.get old)

/-- The word of a core register after a write of `v`. -/
def ccrMerge (r : Ccr) (old v : Word) : Word := r.fields.foldl (fun w d => ccrField old v d w) old

/-- Whether a user-level write is refused (R205): the register holds only supervisor fields, or the write would change
one (assumption 6). -/
def ccrDenied (r : Ccr) (old v : Word) : Bool :=
  let ws := r.fields.filter (fun d => d.acc != .ro)
  ws.any (·.sup) && (ws.all (·.sup) || ws.any (fun d => d.sup && d.fld.get old != d.fld.get v))

/-- Whether a register is a press register whose write waits for an idle press (R167). -/
def pressHeld (r : Ccr) : Bool :=
  decide (0x40 ≤ r.idx) && decide (r.idx ≤ 0x55) &&
    (match r with | .prsCf => false | .prsFlags => false | .prsDkey => false | _ => true)

/-- DEPTH and FLOOR that the hardware acts on after a write of LOOPST: 5–7 keep the last valid value (R6). -/
def loopKeep (eff w : Word) : Word :=
  let d := Fd.cLoopstDepth.get w
  let f := Fd.cLoopstFloor.get w
  let e1 := if d ≤ 4 then Fd.cLoopstDepth.putN eff d else eff
  if f ≤ 4 then Fd.cLoopstFloor.putN e1 f else e1

/-- A CCRW that passes its checks (R205, R228): the fields take the write; a stack pointer discards its level's cached
cells or entries. -/
def ccrWrite (r : Ccr) (v : Word) (k : Core) : Core :=
  let k1 := setCcr k r (ccrMerge r (ccr k r) v)
  match r with
  | .uosp => { k1 with user := { k1.user with cells := [] } }
  | .ursp => { k1 with user := { k1.user with rets := [] } }
  | .sosp => { k1 with sup := { k1.sup with cells := [] } }
  | .srsp => { k1 with sup := { k1.sup with rets := [] } }
  | .shsp => { k1 with user := { k1.user with shs := [] }, sup := { k1.sup with shs := [] } }
  | .loopst => { k1 with loopEff := loopKeep k1.loopEff (ccr k1 .loopst) }
  | _ => k1

/-- Whether firmware must execute SYNC before it relies on a write of the register (R189): the level and mode registers, an
aperture descriptor, the vector-table base, a stack pointer, LS, LE and LC. -/
def needsSync : Ccr → Bool
  | .cstat | .mode | .vbar | .uosp | .ursp | .sosp | .srsp | .shsp | .apb _ | .apl _ | .apa _ | .ls _ | .le _ | .lc _ => true
  | _ => false

/-- Notes the word that a CCRW has replaced in a register, until the next SYNC: under the register's index, or where that holds the
note of an earlier CCRW, under 256 more. -/
def noteStale (r : Ccr) (k n : Core) : Core :=
  if !needsSync r then n
  else if k.stale.any (fun e => e.1 == r.idx) then
    { n with stale := SMap.insert (n.stale.erase r.idx) (256 + r.idx) (ccr k r) }
  else { n with stale := SMap.insert (n.stale.erase (256 + r.idx)) r.idx (ccr k r) }

/-- CCRR (R205): an index that nothing decodes pushes 0 and gives BUS with code 3. DEDUCED: assumption 15. -/
def doCcrr (c : CoreId) : State → State :=
  instr c .ld (fun s => do
    let (i, s1) ← pop c s
    match Ccr.decode (i.toNat % 256) with
    | none => .error (.trapZero 3 3 (i &&& 0xFF#32))
    | some r => do
      let (w, s2) ← ccrRead c r s1
      let s3 ← push c w s2
      pure (retire s3 c))

/-- The value that a CCRW writes: CMEN of IRQ is reserved in curators, and stays 0 there (R6). -/
def ccrValue (c : CoreId) (r : Ccr) (v : Word) : Word :=
  match c, r with
  | .curator _, .irq => Fd.cIrqCmen.putN v 0
  | _, _ => v

/-- CCRW (R205, R216): checked for its index, its level and an idle press (R167). DEDUCED: assumption 6. -/
def doCcrw (c : CoreId) : State → State :=
  instr c .z (fun s => do
    let (i, s1) ← pop c s
    let (v, s2) ← pop c s1
    if c = .keeper ∧ 0x40 ≤ i.toNat % 256 then .error (.trap 1 0 0xF221#32)
    else match Ccr.decode (i.toNat % 256) with
    | none => .error (.trap 3 3 (i &&& 0xFF#32))
    | some r =>
      let k := getCore s2 c
      let v := ccrValue c r v
      if !isSup k && ccrDenied r (ccr k r) v then .error (.trap 4 0 (i &&& 0xFF#32))
      else if pressHeld r && !pressIdle k then .error .wait
      else pure (retire (modCore s2 c (fun k => noteStale r k (ccrWrite r v k))) c))

/-! ### Branches, calls, returns -/

/-- BR (R207). -/
def doBr (c : CoreId) (off : BitVec 11) : State → State :=
  instr c .b (fun s => pure (retireTo s c (branchTarget (getCore s c).pc off)))

/-- BZ and BNZ (R207): pops f; branches when it is zero, or when it is not. -/
def branchOn (c : CoreId) (off : BitVec 11) (zero : Bool) (s : State) : Ex State := do
  let (f, s1) ← pop c s
  if (f == 0#32) == zero then pure (branchTo s1 c (branchTarget (getCore s c).pc off)) else pure (retire s1 c)

def doBz (c : CoreId) (off : BitVec 11) : State → State := instr c .b (branchOn c off true)
def doBnz (c : CoreId) (off : BitVec 11) : State → State := instr c .b (branchOn c off false)

/-- CALL (R194, R207). -/
def doCall (c : CoreId) (off : BitVec 11) : State → State :=
  instr c .b (fun s => do
    let pc := (getCore s c).pc
    let s1 ← pushRet c (pc + 2) s
    pure (retireTo s1 c (branchTarget pc off)))

/-- Indirect BR (R207): an odd target is a misaligned access with code 1. -/
def doBrInd (c : CoreId) : State → State :=
  instr c .b (fun s => do
    let (a, s1) ← pop c s
    if a.getLsbD 0 then .error (.trap 2 1 a) else pure (retireTo s1 c a))

/-- Indirect CALL (R194, R207). -/
def doCallInd (c : CoreId) : State → State :=
  instr c .b (fun s => do
    let (a, s1) ← pop c s
    if a.getLsbD 0 then .error (.trap 2 1 a) else do
      let s2 ← pushRet c ((getCore s c).pc + 2) s1
      pure (retireTo s2 c a))

/-- RET (R194): with the return-address check in force, a mismatch takes SHADOW and does not retire. -/
def doRet (c : CoreId) : State → State :=
  instr c .b (fun s => do
    let (x, y, s1) ← popRet c s
    if ccrF (getCore s c) .mode Fd.cModeRachk = 1 ∧ x ≠ y then .error (.trap 5 0 y) else pure (retireTo s1 c x))

/-- Reads `n` words of the core's SRAM upward from an offset. -/
def readWords (c : CoreId) (off : Nat) : Nat → State → Ex (List Word × State)
  | 0, s => .ok ([], s)
  | n + 1, s => do
    let (w, t) ← readSram c off s
    let (l, u) ← readWords c (off + 4) n t
    pure (w :: l, u)

/-- RETI (R233): PRIV at user level; BUS with code 1 when EFP is not aligned or lies outside SWIN; otherwise the frame at
EFP restores the pointers, CSTAT but WORLD, LOOPST and CFPF, and the core goes on at EPC. It is no SYNC: a register that it does
not write stays between its words (R189). DEDUCED: assumption 15. -/
def doReti (c : CoreId) : State → State :=
  instr c .z (fun s =>
    let k := getCore s c
    let f := (ccr k .efp).toNat
    if !isSup k then .error (.trap 4 0 0)
    else if f % 4 ≠ 0 ∨ f < winBase k .swin ∨ winLimit k .swin ≤ f then .error (stackTrap f)
    else do
      let (ws, s1) ← readWords c f 8 s
      let k := getCore s1 c
      let w (i : Nat) : Word := ws.getD i 0
      let k1 := setCcr (setCcr (setCcr (setCcr k .srsp (BitVec.ofNat 32 (f + 32))) .sosp (w 7)) .shsp (w 4)) .efp (w 6)
      let k2 := setCcr k1 .cstat ((ccr k1 .cstat &&& 0xFFFFFFF8#32) ||| (w 1 &&& 7#32))
      let k3 := setCcr (setCcr k2 .loopst (w 2 &&& 0x3F#32)) .cfpf ((w 1 >>> 16) &&& 0xF#32)
      let k4 := forget [.srsp, .sosp, .shsp, .efp, .cstat, .loopst, .cfpf] k3
      pure (setCore s1 c { k4 with sup := {}, pc := w 0, lbuf := none, loopEff := loopKeep k4.loopEff (w 2) }))

/-! ### System control -/

/-- SYNC (R189): every earlier CCRW is in force, and so is the return-address check of the world (CUR_WCFGw). -/
def doSync (c : CoreId) : State → State :=
  instr c .z (fun s =>
    .ok (retire (modCore s c (syncCore s c)) c))

/-- IFLUSH (R188): commands name the instructions a core executes, so beside its retirement it empties the loop buffer (R185). -/
def doIflush (c : CoreId) : State → State := instr c .z (fun s => .ok (retire (modCore s c (fun k => { k with lbuf := none })) c))

/-- WFT (R209): completes at once when the start latch is set, clearing it; otherwise the core waits at it. -/
def doWft (c : CoreId) : State → State :=
  instr c .z (fun s =>
    if (getCore s c).latch then .ok (retire (modCore s c (fun k => { k with latch := false })) c)
    else .ok (modCore s c (fun k => { k with wait := .wft })))

/-- TRAP (R208). -/
def doTrap (c : CoreId) (code : BitVec 8) : State → State := instr c .z (fun _ => .error (.trap 8 code.toNat 0))

/-- Sets DEPTH, as stored and as acted on. -/
def setDepth (k : Core) (d : Nat) : Core :=
  let k1 := setCcrF k .loopst Fd.cLoopstDepth d
  { k1 with loopEff := Fd.cLoopstDepth.putN k1.loopEff d }

/-- LOOP (R210): pushes a level, skips the body when the count is 0, or with length 0 leaves the innermost level. -/
def doLoop (c : CoreId) (len : BitVec 8) : State → State :=
  instr c .b (fun s =>
    let k := getCore s c
    let d := Fd.cLoopstDepth.get k.loopEff
    let ill : Halt := .trap 1 0 (0xF500#32 + len.setWidth 32)
    if len = 0 then
      if d ≤ Fd.cLoopstFloor.get k.loopEff then .error ill
      else .ok (retire (modCore s c (fun k => setDepth k (d - 1))) c)
    else if d = 4 then .error ill
    else do
      let (n, s1) ← pop c s
      let pc := k.pc
      if n = 0#32 then pure (retireTo s1 c (pc + 2 * len.setWidth 32 + 2))
      else pure (retire (modCore s1 c (fun k =>
        setDepth (setCcr (setCcr (setCcr (forget [.ls d, .le d, .lc d] k) (.ls d) (pc + 2)) (.le d) (pc + 2 * len.setWidth 32))
          (.lc d) n) (d + 1))) c))

/-- A defined illegal opcode (R217): ILLEGAL, and nothing else changes. -/
def doDefinedIllegal (c : CoreId) (op : BitVec 16) : State → State :=
  instr c .z (fun _ => .error (.trap 1 0 (op.setWidth 32)))

/-- Whether a register is within the bounds of R218: no aperture, no supervisor field, not read-only, and not one that a CCRW of the
core may not name (R216). -/
def blockMayWrite (c : CoreId) (r : Ccr) : Bool :=
  r.fields.all (fun d => !d.sup) && r.fields.any (fun d => d.acc != .ro) && !(c == .keeper && decide (0x40 ≤ r.idx))

/-- The codes with which a core may raise a synchronous exception at a level, by its vector (R118, R225): SPINE and ARITH are a
tile's (R216), the level and shadow-window checks bind user level, and the other checks of PRIV a tile or a curator. -/
def blockCodes (c : CoreId) (sup : Bool) (vec : Nat) : List Nat :=
  let tile := match c with | .tile _ _ => true | _ => false
  match vec with
  | 1 => [0]
  | 2 => [0, 1]
  | 3 => [0, 1, 2, 3]
  | 4 => (if sup then [] else [0, 4]) ++ [1, 3] ++ (if tile then [2] else []) ++ (if c == .keeper then [] else [5, 6])
  | 5 => [0]
  | 6 => if tile then [0, 1] else []
  | 7 => if tile then [1, 2, 3, 4, 5] else []
  | 8 => List.range 256
  | _ => []

/-- Whether a store is within the bounds of R218: the core's own SRAM outside the ledger window, and outside the shadow
window at user level (R223). -/
def blockMayStore (c : CoreId) (k : Core) (a : Nat) : Bool :=
  decide (a < (match c with | .tile _ _ => 0x1C000 | .curator _ => 0x40000 | .keeper => 0x8000)) &&
    (isSup k || !(decide (winBase k .shwin ≤ a) && decide (a < winLimit k .shwin)))

/-- An encoding of the reserved block (R218): a free effect within the bounds of R218. DESIGN CHOICE: assumption 17. -/
def doReservedBlock (c : CoreId) (_op : BitVec 16) : State → State :=
  instr c .z (fun s =>
    let e := Config.freeEffect s.free
    let k := getCore s c
    let sup := isSup k
    let b := bank k sup
    let k0 := setBank k sup
      { cells := ((e.cells.take 8).map Cell.val ++ b.cells.drop e.popped).take 8
        rets := (e.rets.take 16 ++ b.rets.drop e.retsPopped).take 16
        shs := (e.shs.take 16 ++ b.shs.drop e.shsPopped).take 16 }
    let k00 := match e.cfpf with | some w => setCcr k0 .cfpf (w &&& 0xF#32) | none => k0
    let k1 := match e.depth with | some d => setDepth k00 (d % 5) | none => k00
    let k2 := e.ccrs.foldl (fun k x => match Ccr.decode x.1 with
      | some r => if blockMayWrite c r then setCcr k r (ccrMerge r (ccr k r) x.2) else k
      | none => k) k1
    let s1 := setCore { s with free := s.free + 1 } c k2
    let s2 := (e.stores.take 2048).foldl (fun t x =>
      if blockMayStore c k x.1 then setByte t (localBase c + x.1) x.2 else t) s1
    match e.exc with
    | some (v, code, ea) =>
      match (blockCodes c sup v)[code % (blockCodes c sup v).length]? with
      | some e => .error (.trapIn s2 v e ea)
      | none => .ok (retire s2 c)
    | none => .ok (retire s2 c))

def execCcrr (c : CoreId) (s : State) : Out := .next (doCcrr c s)
def execCcrw (c : CoreId) (s : State) : Out := .next (doCcrw c s)
def execBr (c : CoreId) (off : BitVec 11) (s : State) : Out := .next (doBr c off s)
def execBz (c : CoreId) (off : BitVec 11) (s : State) : Out := .next (doBz c off s)
def execBnz (c : CoreId) (off : BitVec 11) (s : State) : Out := .next (doBnz c off s)
def execCall (c : CoreId) (off : BitVec 11) (s : State) : Out := .next (doCall c off s)
def execBrInd (c : CoreId) (s : State) : Out := .next (doBrInd c s)
def execCallInd (c : CoreId) (s : State) : Out := .next (doCallInd c s)
def execRet (c : CoreId) (s : State) : Out := .next (doRet c s)
def execReti (c : CoreId) (s : State) : Out := .next (doReti c s)
def execSync (c : CoreId) (s : State) : Out := .next (doSync c s)
def execIflush (c : CoreId) (s : State) : Out := .next (doIflush c s)
def execWft (c : CoreId) (s : State) : Out := .next (doWft c s)
def execTrap (c : CoreId) (code : BitVec 8) (s : State) : Out := .next (doTrap c code s)
def execLoop (c : CoreId) (len : BitVec 8) (s : State) : Out := .next (doLoop c len s)
def execDefinedIllegal (c : CoreId) (op : BitVec 16) (s : State) : Out := .next (doDefinedIllegal c op s)
def execReservedBlock (c : CoreId) (op : BitVec 16) (s : State) : Out := .next (doReservedBlock c op s)

end Sys2Proof.Machine
end

