-- ==== Sys2Proof/Machine/MemoryOps.lean ====
section
/-! DEFINITION. Meanings of the local loads and stores (R201, R202, R123, R124), ledger stores (R92, R126), and the block
operations MOVN and FILLN (R213–R215). -/

namespace Sys2Proof.Machine

/-- Effective address of LD and ST (R202): addr + 4 × off, modulo 2^32. -/
def eaWord (addr : Word) (off : BitVec 10) : Word := addr + 4 * off.setWidth 32
/-- Effective address of LDB and STB. -/
def eaByte (addr : Word) (off : BitVec 10) : Word := addr + off.setWidth 32

/-- Reads local memory: `n` bytes at an effective address, as a word. A load from the ledger window after STITCH runs like any other:
R78 names no outcome for one. DESIGN CHOICE: assumption 24. -/
def loadLocal (c : CoreId) (ea : Word) (n : Nat) (err : List Nat) (s : State) : Ex (Word × State) :=
  let k := getCore s c
  let get (a : Nat) : Ex (Word × State) :=
    match readGranule s a err (coreWorld s c) with
    | (some f, t) =>
      .ok (BitVec.ofNat 32 ((applyFlips f (a / 4 * 4) (memWord s (a / 4 * 4))).toNat / 2 ^ (8 * (a % 4)) % 2 ^ (8 * n)), t)
    | (none, t) =>
      match uncorrAt c ea t with
      | .ok u => .ok (0, u)
      | .error h => .error h
  match localTarget c ea.toNat with
  | .sram a => get a
  | .pstore a => if isSup k then get a else .error (.trap 4 0 ea)
  | .rom a => .ok (BitVec.ofNat 32 (leNat ((List.range n).map (fun i => Config.rom (a + i)))), s)
  | .unpop => .error (.trap 3 0 ea)

/-- The granule of the ledger window that a local offset of a tile lies in. -/
def ledgerGranule (off : Nat) : Option Nat := if 0x1C000 ≤ off ∧ off < 0x20000 then some ((off - 0x1C000) / 32) else none

/-- The marks of a ledger store (R92, R126): while the tile is in a tick its granule is dirty and queued for
write-through; before tick start the granule is written through to both copies, and so is that of a tile released before tick start
until its first quire start opens its transaction (R140). DESIGN CHOICE: assumption 24. -/
def ledgerMark (q j : Nat) (g : Nat) (s : State) : State :=
  let c := tileId q j
  let k := getCore s c
  if running s && k.tx.part then
    let x := k.tx
    setCore s c { k with tx := { x with dirty := NSet.add x.dirty g, wtq := if x.wtq.contains g then x.wtq else x.wtq ++ [g] } }
  else
    let pair := ledMap s q (min (role s q j) 16)
    let a := tileBase q j + 0x1C000 + 32 * g
    copyRange (copyCode s a (ledBase q pair + 32 * g) 32 (some (quireWorld s q))) a (ledBase q pair + 0x4000 + 32 * g) 32

/-- Whether a ledger store would add a 33rd granule to the write-through queue (R126). -/
def ledgerFull (s : State) (k : Core) (g : Nat) : Bool :=
  running s && k.tx.part && !k.tx.wtq.contains g && decide (32 ≤ k.tx.wtq.length)

/-- The exception of a store to local memory at an effective address (R124, R223), before its data is read (R183). -/
def storeDenied (c : CoreId) (ea : Word) (s : State) : Option Halt :=
  let k := getCore s c
  match localTarget c ea.toNat with
  | .pstore _ => some (.trap 4 6 ea)
  | .rom _ => some (.trap 3 0 ea)
  | .unpop => some (.trap 3 0 ea)
  | .sram a =>
    let off := a - localBase c
    if !isSup k && decide (winBase k .shwin ≤ off) && decide (off < winLimit k .shwin) then some (.trap 4 4 ea)
    else match c with
      | .tile _ _ => if (ledgerGranule off).isSome && k.tx.closed then some (.trap 7 3 0) else none
      | _ => none

/-- Stores bytes to local memory at an effective address (R124, R78, R223, R283). -/
def storeLocal (c : CoreId) (ea : Word) (bs : List Byte) (err : List Nat) (s : State) : Ex State :=
  let k := getCore s c
  match storeDenied c ea s, localTarget c ea.toNat with
  | some h, _ => .error h
  | none, .sram a =>
    let put (s : State) : Ex State :=
      match mergeBytes s a bs err (coreWorld s c) with
      | (true, t) => .ok t
      | (false, t) => uncorrAt c ea t
    match c with
    | .tile q j =>
      match ledgerGranule (a - localBase c) with
      | none => put s
      | some g =>
        if ledgerFull s k g then .error .wait
        else
          match put s with
          | .ok t => .ok (ledgerMark q.val j.val g t)
          | .error h => .error h
    | _ => put s
  | none, _ => .error (.trap 3 0 ea)

/-- Pops a store's address and its data: the address is checked before the data, which may be pending, is waited for (R182,
R183). -/
def popStore (c : CoreId) (addr : Word → Word) (align : Nat) (s : State) : Ex (Word × Word × State) := do
  let (a, s1) ← pop c s
  let (x, s2) ← popCell c s1
  let ea := addr a
  if ea.toNat % align ≠ 0 then .error (.trap 2 0 ea)
  else match storeDenied c ea s2, x with
    | some h, _ => .error h
    | none, .val w => .ok (ea, w, s2)
    | none, .pend _ => .error .wait

/-- LD (R202). -/
def doLd (c : CoreId) (off : BitVec 10) (err : List Nat) : State → State :=
  instr c .ld (fun s => do
    let (a, s1) ← pop c s
    let ea := eaWord a off
    if ea.toNat % 4 ≠ 0 then .error (.trap 2 0 ea) else do
      let (w, s2) ← loadLocal c ea 4 err s1
      let s3 ← push c w s2
      pure (retire s3 c))

/-- LDB (R202): zero-extends the byte. -/
def doLdb (c : CoreId) (off : BitVec 10) (err : List Nat) : State → State :=
  instr c .ld (fun s => do
    let (a, s1) ← pop c s
    let (w, s2) ← loadLocal c (eaByte a off) 1 err s1
    let s3 ← push c w s2
    pure (retire s3 c))

/-- ST (R202). -/
def doSt (c : CoreId) (off : BitVec 10) (err : List Nat) : State → State :=
  instr c .m (fun s => do
    let (ea, x, s2) ← popStore c (fun a => eaWord a off) 4 s
    let s3 ← storeLocal c ea (wordBytes x) err s2
    pure (retire s3 c))

/-- STB (R202): stores bits [7:0]. -/
def doStb (c : CoreId) (off : BitVec 10) (err : List Nat) : State → State :=
  instr c .m (fun s => do
    let (ea, x, s2) ← popStore c (fun a => eaByte a off) 1 s
    let s3 ← storeLocal c ea [x.setWidth 8] err s2
    pure (retire s3 c))

/-! ### Block operations -/

/-- Leaves a block operation unfinished with its three cells in place. -/
def blockCells (c : CoreId) (x y : Word) (n : Nat) (s : State) : Ex State := do
  let s1 ← push c x s
  let s2 ← push c y s1
  push c (BitVec.ofNat 32 n) s2

/-- Leaves a block operation at an element whose access does not complete: the cells show the elements done. -/
def blockStop (c : CoreId) (x y : Word) (n : Nat) (s : State) (h : Halt) : Ex State :=
  match blockCells c x y n s with
  | .error e => .error e
  | .ok t =>
    match h with
    | .trap v code ea | .trapZero v code ea => .error (.trapIn t v code ea)
    | .trapIn u v code ea | .trapMem u v code ea =>
      match blockCells c x y n u with
      | .ok t => .error (.trapIn t v code ea)
      | .error e => .error e
    | .wait => .error (.waitIn t)
    | .waitIn u => .error (.waitIn u)

/-- MOVN's elements in ascending order, at most `fuel` of them (R213, R215). -/
def movLoop (c : CoreId) : Nat → Word → Word → Nat → State → Ex State
  | fuel, src, dst, n, s =>
    if n = 0 then .ok (retire s c) else
    match fuel with
    | 0 => blockCells c src dst n s
    | fuel + 1 =>
      match loadLocal c src 4 [] s with
      | .error h => blockStop c src dst n s h
      | .ok (w, s1) =>
        match storeLocal c dst (wordBytes w) [] s1 with
        | .error h => blockStop c src dst n s h
        | .ok s2 => movLoop c fuel (src + 4) (dst + 4) (n - 1) s2

/-- FILLN's elements (R214, R215). -/
def fillLoop (c : CoreId) : Nat → Word → Word → Nat → State → Ex State
  | fuel, x, dst, n, s =>
    if n = 0 then .ok (retire s c) else
    match fuel with
    | 0 => blockCells c x dst n s
    | fuel + 1 =>
      match storeLocal c dst (wordBytes x) [] s with
      | .error h => blockStop c x dst n s h
      | .ok s1 => fillLoop c fuel x (dst + 4) (n - 1) s1

/-- Where a block operation is cut that an interrupt or a hold stops after `k` of `n` elements (R215): not inside a granule that
moves in one cycle. `whole i` says whether the granule that begins at element `i` moves so; `a` is the aligned address. -/
def blockCut (a : Word) (whole : Nat → Bool) (k : Nat) : Nat :=
  let d := (a.toNat / 4 + k) % 8
  if d ≤ k && whole (k - d) then k - d else k

/-- Whether MOVN moves the granule that begins at element `i` in one cycle (R213). -/
def movWhole (src dst : Word) (n i : Nat) : Bool :=
  (src.toNat + 4 * i) % 32 == 0 && (dst.toNat + 4 * i) % 32 == 0 && decide (i + 8 ≤ n) &&
    (decide (dst.toNat ≤ src.toNat) || decide (src.toNat + 32 ≤ dst.toNat))

/-- Whether FILLN fills the granule that begins at element `i` in one cycle (R214). -/
def fillWhole (dst : Word) (n i : Nat) : Bool := (dst.toNat + 4 * i) % 32 == 0 && decide (i + 8 ≤ n)

/-- MOVN (R213, R215). With a count of 0 it makes no access and retires, whatever its addresses, and of two misaligned addresses
EADDR holds the source. DESIGN CHOICE: assumption 15. -/
def doMovn (c : CoreId) (k : Nat) : State → State :=
  instr c .z (fun s => do
    let (n, s1) ← pop c s
    let (dst, s2) ← pop c s1
    let (src, s3) ← pop c s2
    if n = 0#32 then pure (retire s3 c)
    else if src.toNat % 4 ≠ 0 then .error (.trap 2 0 src)
    else if dst.toNat % 4 ≠ 0 then .error (.trap 2 0 dst)
    else movLoop c (blockCut src (movWhole src dst n.toNat) k) src dst n.toNat s3)

/-- FILLN (R214, R215). With a count of 0 it makes no access and retires. DESIGN CHOICE: assumption 15. -/
def doFilln (c : CoreId) (k : Nat) : State → State :=
  instr c .z (fun s => do
    let (n, s1) ← pop c s
    let (dst, s2) ← pop c s1
    let (x, s3) ← pop c s2
    if n = 0#32 then pure (retire s3 c)
    else if dst.toNat % 4 ≠ 0 then .error (.trap 2 0 dst)
    else fillLoop c (blockCut dst (fillWhole dst n.toNat) k) x dst n.toNat s3)

def execLd (c : CoreId) (off : BitVec 10) (err : List Nat) (s : State) : Out := .next (doLd c off err s)
def execSt (c : CoreId) (off : BitVec 10) (err : List Nat) (s : State) : Out := .next (doSt c off err s)
def execLdb (c : CoreId) (off : BitVec 10) (err : List Nat) (s : State) : Out := .next (doLdb c off err s)
def execStb (c : CoreId) (off : BitVec 10) (err : List Nat) (s : State) : Out := .next (doStb c off err s)
def execMovn (c : CoreId) (k : Nat) (s : State) : Out := .next (doMovn c k s)
def execFilln (c : CoreId) (k : Nat) (s : State) : Out := .next (doFilln c k s)

end Sys2Proof.Machine
end

