-- ==== Sys2Proof/Machine/Spine.lean ====
section
/-! DEFINITION. Shared operations of the spine: slot table and subscription maps in force (R102, R104, R109), mirror
reads with their dependencies (R84–R86, R110–R112, R119), concealment candidates (R263, R264), publishing and sealing
(R83, R87, R105, R106). -/

namespace Sys2Proof.Machine

/-- The map that latched registers act from. -/
def latMap (s : State) : SMap Word := if running s then s.spine.lat else s.ctl

/-! ### Slots -/

def slotCfg (s : State) (slot : Nat) : Word := regLat s (.spnSlotcfg slot)
def slotType (s : State) (slot : Nat) : Nat := Fd.spnSlotcfgType.get (slotCfg s slot)
def slotWorld (s : State) (slot : Nat) : World := World.ofNum (Fd.spnSlotcfgWorld.get (slotCfg s slot))
def slotXw (s : State) (slot : Nat) : Bool := Fd.spnSlotcfgXw.get (slotCfg s slot) == 1
/-- The consumed-from index that owns a slot (TYPE 1). -/
def ownerTile (w : Word) : Nat := Fd.spnSlotcfgOwner.get w % 2048
/-- The port identity and the channel that own a slot (TYPE 2). -/
def ownerPort (w : Word) : Nat := Fd.spnSlotcfgOwner.get w % 64
def ownerChan (w : Word) : Nat := Fd.spnSlotcfgOwner.get w / 64 % 512

def slotBase : Nat := 0x0F01100000

/-- The owned slots of the table in force, with their words. -/
def ownedSlots (s : State) : List (Nat × Word) :=
  ((latMap s).filter (fun e => decide (slotBase ≤ e.1) && decide (e.1 < slotBase + 0x40000) && Fd.spnSlotcfgType.get e.2 != 0)).map
    (fun e => ((e.1 - slotBase) / 4, e.2))

/-- The slot that an ingress channel feeds (R102, R103). -/
def ingressSlot (s : State) (port chan : Nat) : Option Nat :=
  ((ownedSlots s).find? (fun e => Fd.spnSlotcfgType.get e.2 == 2 && ownerPort e.2 == port && ownerChan e.2 == chan)).map (·.1)

/-! ### Map entries -/

def subLo (s : State) (q e : Nat) : Word := regLat s (.qrcSubLo q e)
def subSlot (s : State) (q e : Nat) : Nat := Fd.qrcSubLoSlot.get (subLo s q e)
def subBase (q : Nat) : Nat := 0x0F02008000 + q * 0x10000

/-- Whether a lower-numbered valid entry of the map names the same slot (R109). -/
def subDup (m : SMap Word) (q e slot : Nat) : Bool :=
  m.any (fun x => decide (subBase q ≤ x.1) && decide (x.1 < subBase q + 8 * e) && (x.1 - subBase q) % 8 == 0 &&
    Fd.qrcSubLoValid.get x.2 == 1 && Fd.qrcSubLoSlot.get x.2 == slot)

/-- Whether an entry is active (R109). -/
def entryActive (s : State) (q e : Nat) : Bool :=
  let w := subLo s q e
  let slot := Fd.qrcSubLoSlot.get w
  Fd.qrcSubLoValid.get w == 1 && slotType s slot != 0 && (slotWorld s slot == quireWorld s q || slotXw s slot) &&
    !subDup (latMap s) q e slot

/-- Whether an entry's mask includes a position's bit (R109, R111). -/
def entryMasked (s : State) (q j e : Nat) : Bool :=
  Fd.qrcSubHiMask.get (regLat s (.qrcSubHi q e)) / 2 ^ maskBit s q j % 2 == 1

/-- Whether an entry is firm (R84, R110). -/
def entryFirm (s : State) (q e : Nat) : Bool :=
  let slot := subSlot s q e
  Fd.qrcSubLoFirm.get (subLo s q e) == 1 || quireWorld s q == .grd || slotXw s slot || slotWorld s slot != quireWorld s q

def getPlace (s : State) (q e : Nat) : Place := s.spine.place.get (4096 * q + e) {}
def setPlace (s : State) (q e : Nat) (p : Place) : State :=
  { s with spine := { s.spine with place := s.spine.place.set (4096 * q + e) p {} } }

/-! ### Concealment candidates (R263, R264) -/

/-- DESIGN CHOICE: assumption 28. -/
def getHist (s : State) (slot : Nat) : Hist := s.conceal.hist.get slot ⟨0, 0, 16, s.conceal.stitched⟩

/-- A finite operand of a candidate: a NaN or an infinity is taken as +0. -/
def finiteOr0 (w : Word) : Word := if f32IsFinite w then w else 0

/-- The binary32 candidate: formed exactly, clipped at c = 1, rounded once. -/
def candF32 (h1 h2 : Word) (c : Nat) : Word :=
  let x := finiteOr0 h1
  let y := finiteOr0 h2
  if c = 1 then
    let e := min (f32Pow x + 1) (f32Pow y)
    let m := f32Int x * 2 ^ (f32Pow x + 1 - e).toNat - f32Int y * 2 ^ (f32Pow y - e).toNat
    let one : Int := 2 ^ (-e).toNat
    if e < 0 ∧ one < m then 0x3F800000 else if e < 0 ∧ m < -one then 0xBF800000
    else if 0 ≤ e ∧ 1 ≤ m then 0x3F800000 else if 0 ≤ e ∧ m ≤ -1 then 0xBF800000
    else (f32RoundInt m e).val
  else if c ≤ 8 then (f32RoundInt (f32Int x) (f32Pow x - 1)).val
  else if c = 9 then (f32RoundInt (7 * f32Int x) (f32Pow x - 3)).val
  else if c ≤ 15 then (f32RoundInt (((16 - c : Nat) : Int) * f32Int y) (f32Pow y - 3)).val
  else 0

/-- The 32-bit integer candidate: saturated at c = 1, truncated toward zero otherwise. -/
def candInt (h1 h2 : Word) (c : Nat) : Word :=
  if c = 1 then BitVec.ofInt 32 (max (-(2 ^ 31)) (min (2 ^ 31 - 1) (2 * h1.toInt - h2.toInt)))
  else if c ≤ 8 then BitVec.ofInt 32 (h1.toInt.tdiv 2)
  else if c = 9 then BitVec.ofInt 32 ((7 * h1.toInt).tdiv 8)
  else if c ≤ 15 then BitVec.ofInt 32 ((((16 - c : Nat) : Int) * h2.toInt).tdiv 8)
  else 0

/-- The candidate of a history under a format, for c = CNT + 1 (R264). -/
def candOf (fmt : Nat) (h : Hist) : Word :=
  match fmt with
  | 0 => candF32 h.h1 h.h2 (h.cnt + 1)
  | 1 => candInt h.h1 h.h2 (h.cnt + 1)
  | 2 => 0
  | _ => h.h1

/-- The concealment candidate of a slot for the current tick. -/
def candidate (s : State) (slot : Nat) : Word := candOf (Fd.spnConcFmt.get (regLat s (.spnConc slot))) (getHist s slot)

/-! ### Mirror reads -/

/-- GFLAG of a value (R111). -/
def gflag (conc prov absent cand old lost : Bool) (depth : Nat) : Word :=
  BitVec.ofNat 32 ((if conc then 1 else 0) + (if prov then 2 else 0) + (if absent then 4 else 0) + (if cand then 8 else 0) +
    (if old then 16 else 0) + (if lost then 32 else 0) + 256 * (depth % 16))

/-- What a WAIT or TRY read of an entry finds (R110, R112, R119). -/
inductive MirrorRead where
  | none
  | lost
  | value (w : Word) (g : Word) (dep : Option (Nat × Nat × Nat))
deriving DecidableEq, Repr

/-- Evaluates an entry for a tile whose transaction is `x` (R86, R110, R112): a provisional value stays out of sight of
a firm entry, of a frozen tile when its depth is at least the tile's, and of a read that would reach depth 16. -/
def mirrorRead (s : State) (x : Tx) (q e : Nat) : MirrorRead :=
  let p := getPlace s q e
  if p.lost then .lost
  else if !p.has then .none
  else if p.prov then
    if entryFirm s q e || (x.frozen && decide (x.depth ≤ p.depth)) || decide (15 ≤ p.depth) then .none
    else .value p.value (gflag p.conc true false false false false p.depth) (some (p.src, p.depth, subSlot s q e))
  else .value p.value (gflag p.conc false false false false false 0) none

/-- Whether a producer has already sealed its value of a slot by a completed SEAL (R85). -/
def alreadySealed (s : State) (src slot : Nat) : Bool :=
  match indexHolder s src with
  | some (q, j) => match (getCore s (tileId q j)).tx.pubs.find? (fun e => e.1 == slot) with
    | some e => e.2.sealed_
    | none => false
  | none => false

/-- Records the dependency of a provisional read (R85, R86): the producer's bit unless its value is already sealed, and
the depth. -/
def recordDep (s : State) (src depth slot : Nat) (x : Tx) : Tx :=
  let d := max x.depth (depth + 1)
  { x with cons := if alreadySealed s src slot then x.cons else NSet.add x.cons src, depth := d, maxDepth := max x.maxDepth d }

def applyDep (s : State) (dep : Option (Nat × Nat × Nat)) (x : Tx) : Tx :=
  match dep with
  | some (src, d, slot) => recordDep s src d slot x
  | none => x

/-! ### Messages -/

def injLog (s : State) (i : Nat) : List Msg := s.spine.log.get i []
def cursor (s : State) (q i : Nat) : Nat := s.spine.cursor.get (65 * q + i) 0

/-- Appends a message to an injector's stream. -/
def inject (s : State) (i : Nat) (m : Msg) : State :=
  { s with spine := { s.spine with log := s.spine.log.set i (injLog s i ++ [m]) [] } }

/-- Messages of a quire's injector that no mirror has received: its queue (R106, assumption 7). -/
def queueLen (s : State) (q : Nat) : Nat :=
  (injLog s q).length - ((List.range 64).map (fun r => cursor s r q)).foldl max 0

/-- Publishes a slot value of a tile (R83, R86, R204). -/
def publish (s : State) (q j slot : Nat) (x : Word) (conc : Bool) : State :=
  let c := tileId q j
  let k := getCore s c
  let s1 := setCore s c { k with tx := { k.tx with
    pubs := SMap.insert k.tx.pubs slot ⟨x, conc, false⟩, frozen := true, pub := k.tx.pub + 1 } }
  inject s1 q ⟨slot, x, conc, true, false, k.tx.depth, consIndex s q j, slotWorld s slot, slotXw s slot, s.tick.count.getLsbD 0⟩

/-- A tile reads a lost entry, or takes a GET reply that fails its check (R119, R182): an OPEN or ABORTING tile is doomed with
UNCORR and class 12; after STITCH, or outside a tick, the read leaves evidence alone (R81). -/
def lostRead (q j : Nat) (s : State) : State :=
  let c := tileId q j
  let k := getCore s c
  if k.tx.st = .open_ ∨ k.tx.st = .aborting then setCore s c (doomUncorr 12 k) else record s 12 (some (quireWorld s q)) q 0

/-- Completes a SEAL of a tile (R85–R88, R115): everything published is sealed, the depth is 0 and thaws, the tile's bit
clears in every consumed-from vector, and the SEAL message follows the values. A SEAL message names no slot, and its World bit is
that of the sealing tile: DESIGN CHOICE: assumption 26. -/
def sealTile (s : State) (q j : Nat) : State :=
  let c := tileId q j
  let i := consIndex s q j
  let k := getCore s c
  let x := k.tx
  let s1 := setCore s c { k with tx := { x with
    pubs := x.pubs.map (fun e => (e.1, { e.2 with sealed_ := true })), depth := 0, frozen := false,
    deckleSeal := x.deckleSeal || s.tick.deckle } }
  let s2 := { s1 with cores := s1.cores.map (fun e => (e.1, { e.2 with tx := { e.2.tx with cons := e.2.tx.cons.filter (· != i) } })) }
  inject s2 q ⟨0, 0, false, false, true, 0, i, quireWorld s q, false, s.tick.count.getLsbD 0⟩

end Sys2Proof.Machine
end

