-- ==== Sys2Proof/Machine/SlotOps.lean ====
section
/-! DEFINITION. The slot table and the subscription maps under writes (R103, R104, R109, R117), the latch of the tick
edge, delivery of slot messages (R105–R110, R119), quire links (R120) and the bulk plane (R122): meanings of
SLOTCFG_WRITE, SUBSCRIPTION_MAP_WRITE, SLOT_MESSAGE, LINK_REEN, LINK_RETIRE and BULK_PACKET. -/

namespace Sys2Proof.Machine

/-! ### Changes of the tables -/

/-- A slot changes owner or world (R104, R263): its history starts again, its format becomes 0, and every mirror loses its
values. -/
def slotChanged (s : State) (slot : Nat) : State :=
  let t := setRegF s (.spnConc slot) Fd.spnConcFmt 0
  { t with
    conceal := { t.conceal with hist := t.conceal.hist.set slot ⟨0, 0, 16, false⟩ ⟨0, 0, 16, t.conceal.stitched⟩ }
    spine := { t.spine with
      lat := t.spine.lat.erase (Creg.addr (.spnConc slot))
      place := t.spine.place.filter (fun p => subSlot s (p.1 / 4096) (p.1 % 4096) != slot) } }

/-- Whether two words of a slot entry name different owners or worlds. -/
def ownerDiffers (a b : Word) : Bool :=
  Fd.spnSlotcfgType.get a != Fd.spnSlotcfgType.get b || Fd.spnSlotcfgOwner.get a != Fd.spnSlotcfgOwner.get b ||
    Fd.spnSlotcfgWorld.get a != Fd.spnSlotcfgWorld.get b

/-- Drops the mirror places whose entry names another slot than in the map `old`, or is not active (R109, R117). The images
before and after the edge are compared: an entry whose VALID or SLOT changed within the tick and changed back keeps its place.
DESIGN CHOICE: assumption 26. -/
def prunePlaces (old : SMap Word) (s : State) : State :=
  { s with spine := { s.spine with place := s.spine.place.filter (fun p =>
      let q := p.1 / 4096
      let e := p.1 % 4096
      entryActive s q e && Fd.qrcSubLoSlot.get (old.get (Creg.addr (.qrcSubLo q e)) 0) == subSlot s q e) } }

/-- The valid duplicate entries of the maps in a latched image, as addresses (R109). -/
def dupEntries (m : SMap Word) : List Nat :=
  let subs := m.filter (fun x => decide (0x0F02000000 ≤ x.1) && decide (x.1 < 0x0F02400000) &&
    decide (0x8000 ≤ x.1 % 0x10000) && x.1 % 8 == 0 && Fd.qrcSubLoValid.get x.2 == 1)
  (subs.filter (fun x => subs.any (fun y => decide (y.1 < x.1) && y.1 / 0x10000 == x.1 / 0x10000 &&
    Fd.qrcSubLoSlot.get y.2 == Fd.qrcSubLoSlot.get x.2))).map (·.1)

/-- MAPDUP for each entry that is a duplicate now and was none before (R109). -/
def raiseMapdup (old new : SMap Word) (s : State) : State :=
  let was := dupEntries old
  (dupEntries new).foldl (fun t a => if was.contains a then t
    else raiseBit t (.spnErr (quireWorld t ((a - 0x0F02000000) / 0x10000)).num) Fd.spnErrMapdup) s

/-- The slots that an image of the slot table lists. -/
def slotsOf (m : SMap Word) : List Nat :=
  (m.filter (fun e => decide (slotBase ≤ e.1) && decide (e.1 < slotBase + 0x40000))).map (fun e => (e.1 - slotBase) / 4)

/-- The tables take effect: from the image `old` in force to the registers as written (R104). At a tick edge every PEND
bit clears. An entry of the other world whose slot changes owner within its world and keeps XW stays active, as R109 judges it,
and its place is empty. DESIGN CHOICE: assumption 26. -/
def latchTables (old : SMap Word) (s : State) : State :=
  let pend (e : Nat × Word) : Nat × Word :=
    if slotBase ≤ e.1 ∧ e.1 < slotBase + 0x40000 then (e.1, Fd.spnSlotcfgPend.putN e.2 0)
    else if 0x0F03001000 ≤ e.1 ∧ e.1 < 0x0F03001400 ∧ e.1 % 16 = 8 then (e.1, Fd.memRgnAttrPend.putN e.2 0) else e
  let ctl := (s.ctl.map pend).filter (fun e => !(latched e.1 && (e.2 == 0) && (decide (e.1 < slotBase + 0x40000) ||
    (decide (0x0F03001000 ≤ e.1) && decide (e.1 < 0x0F03001400)))))
  let plain : SMap Word := ctl.filter (fun e => latched e.1 && !latchedEff e.1)
  let new : SMap Word := (s.eff.filter (fun e => latchedEff e.1)).foldl (fun m e => SMap.insert m e.1 e.2) plain
  let t := { s with ctl := ctl, spine := { s.spine with lat := new } }
  let moved := (NSet.addAll (NSet.addAll [] (slotsOf old)) (slotsOf new)).filter (fun n =>
    ownerDiffers (SMap.get old (slotBase + 4 * n) 0) (SMap.get new (slotBase + 4 * n) 0))
  raiseMapdup old new (prunePlaces old (moved.foldl slotChanged t))

/-- The effect of a table write outside a running tick: at once (R104). `old` is the control space before the write. -/
def tableWritten (old : SMap Word) (s : State) : State :=
  if running s then s else
  let moved := (NSet.addAll (NSet.addAll [] (slotsOf old)) (slotsOf s.ctl)).filter (fun n =>
    ownerDiffers (old.get (slotBase + 4 * n) 0) (s.ctl.get (slotBase + 4 * n) 0))
  raiseMapdup old s.ctl (prunePlaces old (moved.foldl slotChanged s))

/-! ### SLOTCFG_WRITE (R103) -/

/-- A slot write is refused with an error bit in the register of world `w`. -/
def slotRefuse (s : State) (w : World) (f : Fld) (slot : Nat) : State :=
  setRegF (raiseBit s (.spnErr w.num) f) (.spnErr w.num) Fd.spnErrSlot slot

/-- Whether a port identity and channel are out of range (R102). -/
def portBad (port chan : Nat) : Bool :=
  if port < 32 then decide (256 ≤ chan) else if port < 48 then decide (16 ≤ chan) else if port < 50 then decide (512 ≤ chan)
  else true

/-- Whether a port identity is the odd member of a redundant Maldex pair (R320). -/
def oddMember (s : State) (port : Nat) : Bool :=
  decide (port < 32) && port % 2 == 1 && regF s (.mdxStat port) Fd.mdxStatPaired == 1

/-- Whether another entry names the ingress channel. -/
def channelTaken (s : State) (slot port chan : Nat) : Bool :=
  s.ctl.any (fun e => decide (slotBase ≤ e.1) && decide (e.1 < slotBase + 0x40000) && e.1 != slotBase + 4 * slot &&
    Fd.spnSlotcfgType.get e.2 == 2 && ownerPort e.2 == port && ownerChan e.2 == chan)

/-- A write of SPN_SLOTCFG (R103, R508): refused with the error of the first case that applies, or stored with WORLD and
PEND. -/
def slotcfgWrite (x : Writer) (slot : Nat) (v : Word) (s : State) : State :=
  let old := reg s (.spnSlotcfg slot)
  let free := Fd.spnSlotcfgType.get old == 0
  let ow := World.ofNum (Fd.spnSlotcfgWorld.get old)
  let w := rights x ow
  let ty := Fd.spnSlotcfgType.get v
  let foreign := match x with | .cur u => !free && u != ow | .kpr => false
  if foreign then raisePriv (slotRefuse s w Fd.spnErrClaimed slot) x (Creg.addr (.spnSlotcfg slot))
  else if free && x == .kpr && (ty == 1 || ty == 2) then s
  else if ty = 3 then (if free && x == .kpr then s else slotRefuse s w Fd.spnErrRange slot)
  else if ty = 1 ∧ 1087 < ownerTile v then slotRefuse s w Fd.spnErrRange slot
  else if ty = 2 ∧ (portBad (ownerPort v) (ownerChan v) || oddMember s (ownerPort v)) then slotRefuse s w Fd.spnErrRange slot
  else if ty = 1 ∧ indexWorld s (ownerTile v) ≠ w then slotRefuse s w Fd.spnErrWorld slot
  else if ty = 2 ∧ channelTaken s slot (ownerPort v) (ownerChan v) then slotRefuse s w Fd.spnErrClaimed slot
  else
    let owner := if ty = 1 then ownerTile v else if ty = 2 then Fd.spnSlotcfgOwner.get v % 32768 else Fd.spnSlotcfgOwner.get v
    let n1 := Fd.spnSlotcfgOwner.putN (Fd.spnSlotcfgXw.putN (Fd.spnSlotcfgType.putN 0 ty) (Fd.spnSlotcfgXw.get v)) owner
    let n2 := Fd.spnSlotcfgWorld.putN n1 (if ty = 0 then 0 else w.num)
    let n3 := Fd.spnSlotcfgPend.putN n2 (if running s then 1 else 0)
    tableWritten s.ctl (setReg s (.spnSlotcfg slot) n3)

/-! ### SUBSCRIPTION_MAP_WRITE (R104, R109) -/

/-- A write of QRC_SUB_LO or QRC_SUB_HI: by the quire's world, and latched as the slot table is. -/
def subWrite (x : Writer) (q e : Nat) (hi : Bool) (v : Word) (s : State) : State :=
  tableWritten s.ctl (plainWrite x (if hi then .qrcSubHi q e else .qrcSubLo q e) v s)

/-- DUP and INACT of an entry as it will next stand (R104, R109). -/
def subStatus (s : State) (q e : Nat) (w : Word) : Word :=
  let slot := Fd.qrcSubLoSlot.get w
  let c := reg s (.spnSlotcfg slot)
  let valid := Fd.qrcSubLoValid.get w == 1
  let dup := valid && subDup s.ctl q e slot
  let open_ := Fd.spnSlotcfgType.get c != 0 &&
    (World.ofNum (Fd.spnSlotcfgWorld.get c) == quireWorld s q || Fd.spnSlotcfgXw.get c == 1)
  Fd.qrcSubLoInact.putN (Fd.qrcSubLoDup.putN w (if dup then 1 else 0)) (if valid && !open_ then 1 else 0)

/-! ### SLOT_MESSAGE (R105–R110, R119) -/

/-- The active entry of a quire's map that follows a slot. -/
def entryOf (s : State) (q slot : Nat) : Option Nat :=
  ((latMap s).find? (fun x => decide (subBase q ≤ x.1) && decide (x.1 < subBase q + 0x8000) && (x.1 - subBase q) % 8 == 0 &&
    Fd.qrcSubLoSlot.get x.2 == slot && entryActive s q ((x.1 - subBase q) / 8))).map (fun x => (x.1 - subBase q) / 8)

/-- A slot value reaches a mirror place (R110): a sealed value is also the most recent sealed value. -/
def placeValue (m : Msg) (p : Place) : Place :=
  let p1 := { p with has := true, value := m.value, conc := m.conc, prov := m.prov, depth := m.depth, src := m.src }
  if m.prov then p1 else { p1 with hasLast := true, last := m.value, lastConc := m.conc }

/-- A SEAL reaches a mirror place (R87, R110): the producer's provisional value becomes sealed. -/
def placeSeal (src : Nat) (p : Place) : Place :=
  if p.has && p.prov && p.src == src then
    { p with prov := false, depth := 0, hasLast := true, last := p.value, lastConc := p.conc } else p

def linkUp (s : State) (q l : Nat) : Bool :=
  regF s (.spnLink q) (if l = 0 then Fd.spnLinkL0Up else Fd.spnLinkL1Up) == 1

/-- A check failure on a link in service: counted in ERRCNT and for the tick (R119, R120). -/
def linkFail (q l : Nat) (s : State) : State :=
  let t := incRegF s (.spnLink q) Fd.spnLinkErrcnt 1
  { t with spine := { t.spine with fails := bumpMap t.spine.fails (2 * q + l) 1 } }

/-- A good message changes the quire's mirror. -/
def applyMsg (q : Nat) (m : Msg) (s : State) : State :=
  if m.isSeal then
    { s with spine := { s.spine with place := s.spine.place.map (fun p =>
        (p.1, if p.1 / 4096 = q then placeSeal m.src p.2 else p.2)) } }
  else
    match entryOf s q m.slot with
    | some e => setPlace s q e (placeValue m (getPlace s q e))
    | none => s

/-- A lost message marks its entry lost for the tick; a SEAL names no slot, and its values stay provisional (R119). -/
def loseMsg (q : Nat) (m : Msg) (s : State) : State :=
  let t := incRegF s (.spnLink q) Fd.spnLinkLost 1
  let u := if m.isSeal then t else
    match entryOf t q m.slot with
    | some e => setPlace t q e { getPlace t q e with lost := true }
    | none => t
  record u 12 (some (quireWorld u q)) q 0

/-- Bits [68:0] of a slot message (R105). -/
def msgBits (m : Msg) : BitVec 69 :=
  let bit (b : Bool) (n : Nat) : Nat := if b then 2 ^ n else 0
  BitVec.ofNat 69 (m.slot % 2 ^ 16 + 2 ^ 16 * m.value.toNat + bit m.conc 48 + bit m.prov 49 + bit m.isSeal 50 + 2 ^ 51 * (m.depth % 16) +
    2 ^ 55 * (m.src % 2 ^ 11) + 2 ^ 66 * m.world.num + bit m.xw 67 + bit m.tpar 68)

/-- The message that bits [68:0] spell. -/
def msgOf (b : BitVec 69) : Msg :=
  { slot := (b.extractLsb' 0 16).toNat, value := b.extractLsb' 16 32, conc := b.getLsbD 48, prov := b.getLsbD 49, isSeal := b.getLsbD 50,
    depth := (b.extractLsb' 51 4).toNat, src := (b.extractLsb' 55 11).toNat, world := World.ofNum (b.extractLsb' 66 1).toNat,
    xw := b.getLsbD 67, tpar := b.getLsbD 68 }

/-- The copy of a message that link `l` of a quire delivers with the bits `err` turned over: none when its CHECK, over bits [68:0]
and the identity of the link, does not fit (R105). -/
def copyOn (q l : Nat) (m : Msg) (err : BitVec 96) : Option Msg :=
  let e := err.setWidth 69
  if Config.slotCheck (msgBits m ^^^ e) (2 * q + l) = Config.slotCheck (msgBits m) (2 * q + l) ^^^ err.extractLsb' 69 27 then
    some (if e = 0 then m else msgOf (msgBits m ^^^ e))
  else none

/-- The next message of an injector reaches the mirror of a quire (R107, R119): the first good copy on a link in service
is taken, and each bad one is counted. A mirror applies no message of another tick than its own (R108). DESIGN CHOICE: assumption 26. -/
def doSlotMessage (q : Fin 64) (inj : Fin 65) (err0 err1 : BitVec 96) (s : State) : State :=
  let n := cursor s q.val inj.val
  match (injLog s inj.val)[n]? with
  | none => s
  | some m =>
    let t := { s with spine := { s.spine with cursor := s.spine.cursor.set (65 * q.val + inj.val) (n + 1) 0 } }
    let up0 := linkUp s q.val 0
    let up1 := linkUp s q.val 1
    let c0 := if up0 then copyOn q.val 0 m err0 else none
    let c1 := if up1 then copyOn q.val 1 m err1 else none
    let bad0 := up0 && c0.isNone
    let bad1 := up1 && c1.isNone
    let t1 := if bad0 then linkFail q.val 0 t else t
    let t2 := if bad1 then linkFail q.val 1 t1 else t1
    match c0.or c1 with
    | none => loseMsg q.val m t2
    | some x =>
      let u := if bad0 || bad1 then record t2 11 (some (quireWorld s q.val)) q.val 0 else t2
      if x.tpar = s.tick.count.getLsbD 0 then applyMsg q.val x u else u

/-! ### Quire links (R120, R271) -/

/-- A write of SPN_LINKq: the FAIL bits, and the return of links at the next edge. `lock` gives the links that have lock
at that edge. -/
def linkWrite (x : Writer) (q : Nat) (lock : BitVec 2) (v : Word) (s : State) : State :=
  let t := plainWrite x (.spnLink q) v s
  if !owns x (.world (quireWorld s q)) then t else
  let req (l : Nat) (f : Fld) (l' : NSet) : NSet :=
    if f.get v = 1 ∧ lock.getLsbD l then NSet.add l' (2 * q + l) else l'
  { t with spine := { t.spine with reen := req 1 Fd.spnLinkL1Reen (req 0 Fd.spnLinkL0Reen t.spine.reen) } }

/-- The requested links return to service at an edge. -/
def linkEdge (s : State) : State :=
  let t := s.spine.reen.foldl (fun t k =>
    setRegF t (.spnLink (k / 2)) (if k % 2 = 0 then Fd.spnLinkL0Up else Fd.spnLinkL1Up) 1) s
  { t with spine := { t.spine with
    retired := t.spine.retired.filter (fun k => !s.spine.reen.contains k), reen := [], fails := [] } }

/-- The replay buffer of a link holds the last 256 packets (R120). -/
def keepPackets (l : Nat) (ps : List Packet) (s : State) : State :=
  let all := s.spine.replay.get l [] ++ ps
  { s with spine := { s.spine with replay := s.spine.replay.set l (all.drop (all.length - 256)) [] } }
def keepPacket (l : Nat) (p : Packet) (s : State) : State := keepPackets l [p] s

/-- The packets of a retired link's replay buffer are resent on the other link of the quire (R120). -/
def resend (l l' : Nat) (s : State) : State :=
  let ps := s.spine.replay.get l []
  keepPackets l' ps { s with spine := { s.spine with replay := s.spine.replay.set l [] [] } }

/-- A link loses lock, or has failed 16 checks in the tick: it is retired (R120). -/
def doLinkRetire (q : Fin 64) (l : Fin 2) (locked : Bool) (s : State) : State :=
  let w := quireWorld s q.val
  if !linkUp s q.val l.val then s
  else if locked && decide (s.spine.fails.get (2 * q.val + l.val) 0 < 16) then s
  else
    let down := setRegF (setRegF s (.spnLink q.val) (if l.val = 0 then Fd.spnLinkL0Up else Fd.spnLinkL1Up) 0)
      (.spnLink q.val) (if l.val = 0 then Fd.spnLinkL0Fail else Fd.spnLinkL1Fail) 1
    let t := { down with spine := { down.spine with retired := NSet.add down.spine.retired (2 * q.val + l.val) } }
    let t1 := setNme (record t 9 (some w) (2 * q.val + l.val) 0) w 2
    let t2 := if locked then record t1 26 (some w) (2 * q.val + l.val) 0 else t1
    let t3 := resend (2 * q.val + l.val) (2 * q.val + (1 - l.val)) t2
    if linkUp t3 q.val (1 - l.val) then t3 else record t3 10 (some w) q.val 0

/-! ### The bulk plane (R121, R122) -/

/-- The destination of a posted write or of a packet: a tile position, an archive, or GDDR7 as a whole (R122). DESIGN CHOICE:
assumption 18. -/
def farDest (a : Nat) : Nat :=
  if gddrBase ≤ a ∧ a < 0x0A00000000 then 0 else if 0x0200000000 ≤ a ∧ a < gddrBase then a / 0x400000 else a / 0x40000

/-- A core's access proves detected-uncorrectable after it has left the pipe (R122, R282, R283): a tile is doomed with UNCORR
and the class of the memory; a curator or the keeper core takes BUS with the address it popped. DEDUCED: assumption 18. -/
def farUncorr (c : CoreId) (a : Nat) (ea : Word) (s : State) : State :=
  match c with
  | .tile _ _ => modCore s c (match memClass s a with | some (n, u, _) => doomUncorrIn n (some u) | none => doomUncorr 3)
  | _ =>
    let k := getCore s c
    if k.on && !k.halted then enterException s c 3 0 ea k.pc else s

/-- Evidence of a far access lost on the way, for a tile whose transaction it cannot doom (R81): the class of the memory. -/
def farEvidence (c : CoreId) (a : Nat) (s : State) : State :=
  let k := getCore s c
  if k.tx.st = .open_ ∨ k.tx.st = .aborting then s else
  match c, memClass s a with
  | .tile _ _, some (n, u, w) => record s n w u (granule a)
  | _, _ => s

/-- A bulk packet fails its check after replay: a far load gives 0 and dooms its tile, a write-through granule stays
unacknowledged, and the granule of a write is poisoned. -/
def bulkFailed (k : Packet) (s : State) : State :=
  match k with
  | .farLoad c i =>
    let x := getCore s c
    match x.loads[i.val]? with
    | some ⟨id, .far a ea⟩ => farUncorr c a ea (farEvidence c a (arrive c { x with loads := x.loads.eraseIdx i.val } id 0 s))
    | _ => s
  | .writeThrough q j =>
    let c : CoreId := .tile q j
    let x := getCore s c
    match x.tx.wtq with
    | g :: r =>
      let t := setCore s c { x with tx := { x.tx with wtq := r, wtLost := true } }
      poisonGranule t (inflightAt t q.val (ledMap t q.val (maskBit t q.val j.val)) g)
    | [] => s
  | .farStore c i =>
    let x := getCore s c
    match x.unack[i.val]? with
    | some st => poisonGranule (setCore s c { x with unack := x.unack.eraseIdx i.val }) st.addr
    | none => s
  | .granule a => if (memClass s a.toNat).isSome then poisonGranule s a.toNat else s

/-- The quire whose links carry a packet, if any, and the address it goes to or comes from; none where there is no such packet.
Write-through stays on the quire's local segment (R121). A packet of a tile is carried by the links of the tile's own quire alone, and
one of a curator by no quire link, also where it goes to another quire: DESIGN CHOICE: assumption 26. -/
def packetRoute (k : Packet) (s : State) : Option (Option Nat × Nat) :=
  let quireOf (c : CoreId) : Option Nat := match c with | .tile q _ => some q.val | _ => none
  match k with
  | .farLoad c i => match (getCore s c).loads[i.val]? with | some ⟨_, .far a _⟩ => some (quireOf c, a) | _ => none
  | .farStore c i => ((getCore s c).unack[i.val]?).map (fun st => (quireOf c, st.addr))
  | .writeThrough q j => ((getCore s (.tile q j)).tx.wtq.head?).map (fun g =>
      (none, inflightAt s q.val (ledMap s q.val (maskBit s q.val j.val)) g))
  | .granule a =>
    let n := a.toNat
    if 0x0100000000 ≤ n ∧ n < 0x0112000000 then some (some ((n - 0x0100000000) / 0x40000 / 17), n)
    else if 0x0200000000 ≤ n ∧ n < 0x0210000000 then some (some ((n - 0x0200000000) / 0x400000), n)
    else if (memClass s n).isSome then some (none, n) else none

/-- The link that carries a packet of a quire: by the parity of its destination, or the one that remains (R120). -/
def packetLink (s : State) (q a : Nat) : Option Nat :=
  let l := farDest a % 2
  if linkUp s q l then some l else if linkUp s q (1 - l) then some (1 - l) else none

/-- What a packet delivers with codeword positions turned over: the data bits left wrong, and whether it was corrected (R281); or none
when its check field or its misdirection tag does not fit (R121). -/
def packetFlips (err : List Nat) : Option (List Nat × Bool) :=
  match readOutcome false err with
  | .good f => some (f, false)
  | .corrected f => some (f, true)
  | .bad _ _ => none

/-- The priority class of a packet at its quire's port (R121). -/
def packetClass : Packet → Nat
  | .writeThrough _ _ => 1
  | .farLoad _ _ | .farStore _ _ => 2
  | .granule _ => 3

/-- Whether a packet of a class before `n` waits at a quire's port (R121): write-through that its folio covers, before the freeze, or
a far access. -/
def portWaits (s : State) (q n : Nat) : Bool :=
  s.cores.any (fun e => decide (17 * q ≤ e.1) && decide (e.1 < 17 * q + 17) &&
    ((decide (1 < n) && !s.tick.frozen && !e.2.tx.wtq.isEmpty && !arcSpent s q (e.1 % 17) e.2) ||
     (decide (2 < n) && (e.2.loads.any (fun l => match l.src with | .far _ _ => true | _ => false) || e.2.unack.any (fun x => !x.landed)))))

/-- A packet arrives with the given data bits wrong: a posted store takes them along. DESIGN CHOICE: assumption 26. -/
def packetLand (k : Packet) (flips : List Nat) (s : State) : State :=
  match k with
  | .farStore c i =>
    if flips.isEmpty then s else
    match (getCore s c).unack[i.val]? with
    | some ⟨_, _, a, _, true⟩ => setWord s a (applyFlips flips a (memWord s a))
    | _ => modCore s c (fun x => { x with unack := x.unack.modify i.val (fun st => { st with data := applyFlips flips st.addr st.data }) })
  | .granule a => if flips.isEmpty then s else flipBits s a.toNat flips
  | _ => s

/-- A packet crosses the bulk plane (R120–R122): on a quire link it stands in the link's replay buffer, each failed check counts
against the link, one that is corrected is recorded (R277, R281), and one that fails after replay is discarded with its
consequences. With no link in service nothing passes. A packet does not cross while one of a class before its own waits at its
quire's port (R121). -/
def doBulkPacket (k : Packet) (err err2 : List Nat) (s : State) : State :=
  let land (a : Nat) (f : List Nat × Bool) (t : State) : State :=
    let w := match memClass t a with | some (_, _, w) => w | none => none
    packetLand k f.1 (if f.2 then record t 13 w 0xFFFF (granule a) else t)
  let tries (a : Nat) (fail : State → State) (t : State) : State :=
    match packetFlips err with
    | some f => land a f t
    | none =>
      match packetFlips err2 with
      | some f => land a f (fail t)
      | none => bulkFailed k (fail (fail t))
  match packetRoute k s with
  | none => s
  | some (none, a) => tries a id s
  | some (some q, a) =>
    if portWaits s q (packetClass k) then s else
    match packetLink s q a with
    | none => bulkFailed k s
    | some l => tries a (linkFail q l) (keepPacket (2 * q + l) k s)

def execSlotcfgWrite (x : Writer) (slot : Fin 65536) (v : Word) (s : State) : Out :=
  .next (withAccess x (Creg.addr (.spnSlotcfg slot.val)) (some v) (slotcfgWrite x slot.val v) s)
def execSubscriptionMapWrite (x : Writer) (q : Fin 64) (e : Fin 4096) (hi : Bool) (v : Word) (s : State) : Out :=
  .next (withAccess x (Creg.addr (if hi then .qrcSubHi q.val e.val else .qrcSubLo q.val e.val)) (some v) (subWrite x q.val e.val hi v) s)
def execSlotMessage (q : Fin 64) (inj : Fin 65) (err0 err1 : BitVec 96) (s : State) : Out :=
  .next (doSlotMessage q inj err0 err1 s)
def execLinkReen (w : World) (q : Fin 64) (v : Word) (lock : BitVec 2) (s : State) : Out :=
  .next (withAccess (.cur w) (Creg.addr (.spnLink q.val)) (some v) (linkWrite (.cur w) q.val lock v) s)
def execLinkRetire (q : Fin 64) (l : Fin 2) (locked : Bool) (s : State) : Out := .next (doLinkRetire q l locked s)
def execBulkPacket (k : Packet) (err err2 : List Nat) (s : State) : Out := .next (doBulkPacket k err err2 s)

end Sys2Proof.Machine
end

