-- ==== Sys2Proof/Machine/Memory.lean ====
section
/-! DEFINITION. The memory system's events (R282–R301): regions, poison, channels, scrubbing; and the evidence log's
(R272, R273). -/

namespace Sys2Proof.Machine

/-! ### Regions (R289, R290) -/

/-- First byte and byte after the last of a region entry as written. -/
def regionRange (s : State) (r : Nat) : Nat × Nat :=
  (65536 * regF s (.memRgnBase r) Fd.memRgnBaseAddr, 65536 * regF s (.memRgnLim r) Fd.memRgnLimAddr)

/-- Whether a range meets another claimed entry, or a range still being zeroed. -/
def regionOverlaps (s : State) (r lo hi : Nat) : Bool :=
  (List.range 64).any (fun n => n != r && regF s (.memRgnAttr n) Fd.memRgnAttrType != 0 &&
    decide (lo < (regionRange s n).2) && decide ((regionRange s n).1 < hi)) ||
  s.memSys.zeroing.any (fun z => decide (lo < z.2.2) && decide (z.2.1 < hi))

/-- The register of a region entry that a write names. -/
def regionCreg (r : Nat) : RgnReg → Creg
  | .base => .memRgnBase r
  | .lim => .memRgnLim r
  | .attr => .memRgnAttr r

/-- Whether a range may not be a region (R289). -/
def regionRangeBad (s : State) (lo hi : Nat) : Bool :=
  decide (hi ≤ lo) || decide (lo < gddrBase + 0x2000000) || decide (memTop s < hi) || (decide (lo < dupTop s) && decide (dupTop s < hi))

/-- A claim is refused with an error bit, or two, in the register of world `w`. -/
def regionRefuse (s : State) (w : World) (f : Fld) (r : Nat) : State :=
  setRegF (raiseBit s (.memErr w.num) f) (.memErr w.num) Fd.memErrEntry r

/-- An entry is freed: its range is zeroed, and reads as free from the next latch of the table (R290). -/
def regionFree (r : Nat) (s : State) : State :=
  let n := Fd.memRgnAttrPend.putN (Fd.memRgnAttrZeroing.putN (reg s (.memRgnAttr r) &&& 0x10#32) 1) (if running s then 1 else 0)
  setReg { s with memSys := { s.memSys with zeroing := s.memSys.zeroing ++ [(r, regionRange s r)] } } (.memRgnAttr r) n

/-- A write of a region entry's ATTR: a claim, a release, or a refusal (R289, R508). -/
def regionAttrWrite (x : Writer) (r : Nat) (v : Word) (s : State) : State :=
  let old := reg s (.memRgnAttr r)
  let free := Fd.memRgnAttrType.get old == 0
  let ow := World.ofNum (Fd.memRgnAttrWorld.get old)
  let w := rights x ow
  let ty := Fd.memRgnAttrType.get v
  let (lo, hi) := regionRange s r
  let pend (a : Word) : Word := Fd.memRgnAttrPend.putN a (if running s then 1 else 0)
  if free && x == .kpr then s
  else if !free && w != ow then raisePriv (regionRefuse s w Fd.memErrClaimed r) x (Creg.addr (.memRgnAttr r))
  else if ty = 0 then
    if free then s else regionFree r s
  else if 2 ≤ ty then regionRefuse s w Fd.memErrRange r
  else if !free then s
  else if regionOverlaps s r lo hi || regionRangeBad s lo hi then
    let t := if regionOverlaps s r lo hi then regionRefuse s w Fd.memErrOverlap r else s
    if regionRangeBad s lo hi then regionRefuse t w Fd.memErrRange r else t
  else
    let n := Fd.memRgnAttrDuplex.putN (Fd.memRgnAttrWorld.putN (Fd.memRgnAttrType.putN old 1) w.num) (if lo < dupTop s then 1 else 0)
    setReg s (.memRgnAttr r) (pend n)

/-- A write of a region entry's BASE or LIM: only a free entry takes it (R289). -/
def regionBoundWrite (x : Writer) (r : Nat) (c : Creg) (v : Word) (s : State) : State :=
  let old := reg s (.memRgnAttr r)
  let ow := World.ofNum (Fd.memRgnAttrWorld.get old)
  let w := rights x ow
  if Fd.memRgnAttrType.get old = 0 then plainWrite x c v s
  else if w ≠ ow then raisePriv (regionRefuse s w Fd.memErrClaimed r) x c.addr
  else s

def regionWrite (x : Writer) (r : Nat) (f : RgnReg) (v : Word) (s : State) : State :=
  match f with
  | .base => regionBoundWrite x r (.memRgnBase r) v s
  | .lim => regionBoundWrite x r (.memRgnLim r) v s
  | .attr => regionAttrWrite x r v s

/-- The zeroing of the oldest freed range of an entry ends, once the table has taken the release (R290); ZEROING clears with the
entry's last. DESIGN CHOICE: assumption 34. -/
def doZeroingEnd (r : Fin 64) (s : State) : State :=
  match s.memSys.zeroing.find? (fun z => z.1 == r.val) with
  | none => s
  | some z =>
    if regF s (.memRgnAttr r.val) Fd.memRgnAttrPend = 1 then s else
    let t := zeroRange s z.2.1 (z.2.2 - z.2.1)
    let rest := t.memSys.zeroing.erase z
    let u := { t with memSys := { t.memSys with zeroing := rest } }
    if rest.any (fun y => y.1 == r.val) then u else setRegF u (.memRgnAttr r.val) Fd.memRgnAttrZeroing 0

/-! ### Poison (R284) -/

/-- A write of MEM_PCLRw: every poisoned data granule of the gathering in the world's regions becomes zero. -/
def poisonClear (x : Writer) (w : World) (v : Word) (s : State) : State :=
  if !owns x (.world w) then plainWrite x (.memPclr w.num) v s else
  let base := v.toNat * 256
  (List.range 8).foldl (fun t i =>
    let g := base + 32 * i
    let mine := match regionOf t g with | some r => regionWorld t r == w | none => false
    if t.poison.contains g && mine then record (zeroRange t g 32) 13 (some w) (gddrDecode t g).1 g else t) s

/-! ### Copies of a granule (R281, R293, R298) -/

/-- Whether a channel is populated. -/
def populated (s : State) (c : Nat) : Bool := decide (c < memChans s)

/-- A request reaches a channel: it wakes it (R298). -/
def chanRequest (c : Nat) (s : State) : State :=
  setRegF (modChan s c (fun y => { y with idle := 0, busy := true })) (.memCh c) Fd.memChPd 0

/-- The channels that hold the gathering of an address: the one that a read prefers (R293), then its partner. -/
def copyChans (s : State) (a : Nat) : List Nat :=
  let (lane, index, _) := gddrDecode s a
  let n := memChans s / 2
  if !inDup s a then [lane] else if index % 2 = 0 then [lane, lane + n] else [lane + n, lane]

/-- The channels that hold the gathering of an address and serve it. -/
def servingChans (s : State) (a : Nat) : List Nat := (copyChans s a).filter (fun c => chanServes s c (gddrDecode s a).2.1)

/-- Whether a channel is in power-down. -/
def chanAsleep (s : State) (c : Nat) : Bool := regF s (.memCh c) Fd.memChPd == 1

/-- The order in which the copies of a granule are read (R293, R298): the preferred channel first, unless it is out of service, or
wakes while its partner is awake. -/
def readOrder (s : State) (a : Nat) : List Nat :=
  match servingChans s a with
  | [c, d] => if chanAsleep s c && !chanAsleep s d then [d, c] else [c, d]
  | l => l

/-- The channel that a read of an address is charged on (R294). -/
def readChan (s : State) (a : Nat) : Nat := (readOrder s a).headD (gddrDecode s a).1

/-- Data bits that stand wrong in a channel's copy of a granule. -/
def wrongBits (s : State) (c a : Nat) : List Nat := (getChan s c).wrong.get (granule a) []
def setWrong (c a : Nat) (e : List Nat) (s : State) : State :=
  modChan s c (fun y => { y with wrong := y.wrong.set (granule a) e [] })

/-- Reads a channel's own copy of a granule, with codeword positions turned over: the data bits it delivers wrong, or none when it
is detected-uncorrectable; with its records and counts (R281, R282, R299). A corrected copy is written back as delivered. -/
def copyRead (c a : Nat) (err : List Nat) (s : State) : Option (List Nat) × State :=
  let w := (regionOf s a).map (regionWorld s)
  let g := granule a
  match readOutcome (s.poison.contains g) err with
  | .good f => (some (errNorm (wrongBits s c a ++ f)), s)
  | .corrected f =>
    let e := errNorm (wrongBits s c a ++ f)
    let t := modChan (record s 13 w c g) c (fun x => { x with corr := x.corr + 1, due := if 4096 < x.corr + 1 then 5 else x.due })
    (some e, incRegF (setWrong c a e t) (.memChErr c) Fd.memChErrCorr 1)
  | .bad _ _ =>
    let bad := NSet.add (getChan s c).badGath (gddrDecode s a).2.1
    let t := modChan (record s (if inDup s a then 14 else 15) w c g) c
      (fun y => { y with badGath := bad, due := if 4 ≤ bad.length then 4 else y.due })
    (none, setRegF t (.memChErr c) Fd.memChErrUncorr (min 255 bad.length))

/-- Channels of the copies of a granule record that no channel in service holds it (R299): class 15, or 14 for each of a pair
(R302). -/
def recordGone (a : Nat) (s : State) : State :=
  (copyChans s a).foldl (fun t c => record t (if inDup s a then 14 else 15) ((regionOf s a).map (regionWorld s)) c (granule a)) s

/-- A constant region's granule bad on both copies is rewritten from the image reserve (R292). -/
def constRepair (a : Nat) (t : State) : State :=
  match regionOf t a with
  | some r =>
    if regLatF t (.memRgnAttr r) Fd.memRgnAttrType = 2 then
      let src := if t.live.rgns.contains r then t.live.base else gddrBase
      copyAny t (src + regF t (.memRgnSrc r) Fd.memRgnSrcOffset + (granule a - (regionRange t r).1)) (granule a) 32
    else t
  | none => t

/-- Reads a granule from the channels of a list, one copy after the other with its own pattern (R293): a good copy is delivered and
the bad one rewritten from it; when none is good the granule is poisoned and, in a constant region, repaired (R282, R292). -/
def readCopies (a : Nat) (cs : List Nat) (errs : List (List Nat)) (s : State) : Option (List Nat) × State :=
  match cs with
  | [] => (none, constRepair a (poisonGranule (recordGone a s) a))
  | c :: rest =>
    match copyRead c a (errs.headD []) s with
    | (some f, t) => (some f, t)
    | (none, t) =>
      match rest with
      | [] => (none, constRepair a (poisonGranule t a))
      | d :: _ =>
        match copyRead d a (errs.tail.headD []) t with
        | (some f, u) => (some f, setWrong c a f u)
        | (none, u) => (none, constRepair a (poisonGranule u a))

/-- What the controller finds for a GDDR7 granule that is requested: the copies that are in service, in the order of R293 and R298,
the first read with `err` and the other with `err2`. A copy on a channel out of service is none (R299). The request goes to the
preferred channel, to the awake partner that serves it in its place, and to a partner that is read again (R293, R298). -/
def gddrRead (s : State) (a : Nat) (err err2 : List Nat) : Option (List Nat) × State :=
  let o := readOrder s a
  let again := match readOutcome (s.poison.contains (granule a)) err with | .bad _ _ => o.drop 1 | _ => []
  let t := ((servingChans s a).take 1 ++ o.take 1 ++ again).foldl (fun u c => chanRequest c u) s
  readCopies a o [err, err2] t

/-- Granules of a GDDR7 range that a read would not find as they were written: poisoned, miscorrected, or with no copy in service. -/
def gddrMarked (s : State) (a n : Nat) : List Nat :=
  let wrong := s.memSys.chan.flatMap (fun e => (e.2.wrong.map (·.1)).filter (inSpan a n))
  let gone := if (List.range (memChans s)).all (fun c => chanState s c == 2) then [] else
    ((List.range (n / 32)).map (fun i => granule a + 32 * i)).filter (fun g => (servingChans s g).isEmpty)
  NSet.addAll (NSet.addAll (s.poison.filter (inSpan a n)) wrong) gone

/-- Requests for a GDDR7 range reach the channels that hold it (R298): as many gatherings in a row as there are channels reach
all. -/
def rangeRequest (a n : Nat) (s : State) : State :=
  (List.range (min 8 (n / 256 + 1))).foldl (fun t i => ((servingChans s (a + 256 * i)).take 1).foldl (fun u c => chanRequest c u) t) s

/-- The granules of a range are read under the code: the state with its records, and the granules delivered with wrong bits. -/
def decodeAny (s : State) (a n : Nat) : State × List (Nat × List Nat) :=
  if gddrBase ≤ a ∧ a < 0x0A00000000 then
    (gddrMarked s a n).foldl (fun x g =>
      match gddrRead x.1 g [] [] with
      | (some f, t) => (t, if f.isEmpty then x.2 else x.2 ++ [(g, f)])
      | (none, t) => (t, x.2)) (rangeRequest a n s, [])
  else decodeRange s a n none

/-- Copies a range of any memory as its reader sees it (R281, R282), into one whose unlisted bytes read 0. -/
def copyChecked (s : State) (src dst n : Nat) : State :=
  let x := decodeAny s src n
  let t := x.2.foldl (fun t e => flipBits t (e.1 - src + dst) e.2) (copyAny x.1 src dst n)
  if gddrBase ≤ dst ∧ dst < 0x0A00000000 then rangeRequest dst n t else t

/-! ### Channels (R295–R301) -/

/-- The channels after `c` begin to train in their order: the first that has not (R295). -/
def trainNext (c : Nat) (s : State) : State :=
  match (List.range (memChans s)).find? (fun n => decide (c ≤ n) && chanState s n == 0) with
  | some n => setRegF s (.memCh n) Fd.memChState 1
  | none => s

/-- Whether a channel is in a state from which it can be retired. -/
def chanLive (s : State) (c : Nat) : Bool := [1, 2, 4, 5].contains (chanState s c)

/-- A channel is retired with a cause (R299), and classes 14 and 15 record it for what it holds. A retirement that overrules a
passing training state, for anything but a training step or a slice, is also of class 26 (R271). A channel belongs to no world, and
its retirement counts in neither world's CUR_FCNT: DESIGN CHOICE: assumption 44. -/
def retireChan (c cause : Nat) (s : State) : State :=
  let st := chanState s c
  let t := setRegF (setRegF (setRegF s (.memCh c) Fd.memChState 3) (.memCh c) Fd.memChCause cause) (.memCh c) Fd.memChPd 0
  let t0 := modChan t c (fun y => { y with due := 0 })
  let t1 := if 0 < gDup s then record t0 14 none c 0 else t0
  let t2 := if gDup s < gCh s then record t1 15 none c 0 else t1
  let t3 := if (st = 2 ∨ st = 5) ∧ 3 ≤ cause then record t2 26 none c 0 else t2
  if st = 1 then trainNext c t3 else t3

/-- A channel has failed for a cause: while the tick runs it is retired at the next edge, otherwise at once (R299). -/
def failChan (c cause : Nat) (s : State) : State :=
  if running s then modChan s c (fun y => { y with due := if y.due = 0 then cause else y.due }) else retireChan c cause s

/-- CHANNEL_RETIRE: a training step of the channel has failed, a transfer has failed its link check on 8 consecutive retries, or the
channel has met one of the other conditions of R299. -/
def doChannelRetire (c : Fin 8) (cause : Fin 6) (s : State) : State :=
  let st := chanState s c.val
  let may := (cause.val == 1 && (st == 1 || st == 4)) || cause.val == 3 || (cause.val != 0 && (getChan s c.val).due == cause.val)
  if !may || !chanLive s c.val then s else failChan c.val cause.val s

/-- The channels that are due are retired at an edge (R299). -/
def retireEdge (s : State) : State :=
  (List.range (memChans s)).foldl (fun t c =>
    let d := (getChan t c).due
    if d = 0 then t else if chanLive t c then retireChan c d t else modChan t c (fun y => { y with due := 0 })) s

/-- A write of MEM_CHc: either world's RETRAIN bit sends a retired channel to retraining (R300). -/
def chanWrite (x : Writer) (c : Nat) (v : Word) (s : State) : State :=
  let t := plainWrite x (.memCh c) v s
  let ask := (owns x (.world .prg) && Fd.memChRetrainPrg.get v == 1) || (owns x (.world .grd) && Fd.memChRetrainGrd.get v == 1)
  if ask && chanState s c == 3 then setRegF t (.memCh c) Fd.memChState 4 else t

/-- The RETRAIN bit that a curator writes. -/
def retrainWord (w : World) : Word := match w with | .prg => 0x10#32 | .grd => 0x20#32

/-- Zeroes every simplex gathering of a channel (R300). -/
def zeroSimplex (s : State) (c : Nat) : State :=
  let mine (a : Nat) : Bool := decide (dupTop s ≤ a) && decide (a < memTop s) && (gddrDecode s a).1 == c
  modChan { s with mem := s.mem.filter (fun e => !mine e.1), poison := s.poison.filter (fun g => !mine g) } c
    (fun y => { y with wrong := y.wrong.filter (fun e => !mine e.1) })

/-- The other channel of a pair. -/
def pairChan (s : State) (c : Nat) : Nat := if c < memChans s / 2 then c + memChans s / 2 else c - memChans s / 2

/-- RETRAIN_END: a channel's training sequence ends, at boot, where the next channel then begins (R295), or in retraining (R300). A
failed step retires the channel. After retraining the simplex gatherings are zeroed, and resilvering starts, unless the channel
holds nothing duplexed. DESIGN CHOICE: assumption 34. -/
def doRetrainEnd (c : Fin 8) (pass : Bool) (s : State) : State :=
  if chanState s c.val = 1 then
    if pass then trainNext c.val (setRegF s (.memCh c.val) Fd.memChState 2) else failChan c.val 1 s
  else if chanState s c.val ≠ 4 then s
  else if !pass then failChan c.val 1 s
  else
    let n := 8 * (gCh s - gDup s)
    let t := zeroSimplex (setRegF s (.memChRslv c.val) Fd.memChRslvNext 0) c.val
    let t1 := setRegF t (.memCh c.val) Fd.memChState (if gDup s = 0 then 2 else 5)
    if n = 0 then t1 else stageRecord t1 ⟨BitVec.ofNat 32 s.tick.count.toNat, 15, 6, c.val, 0, min 65535 n⟩

/-- Resilvering copies gatherings from the partner as they stand, check granule included (R300), which must serve them (R302): up to
`n` more. -/
def resilver (c n : Nat) (s : State) : State :=
  if chanState s c = 5 ∧ chanState s (pairChan s c) = 2 then
    let lo := regF s (.memChRslv c) Fd.memChRslvNext
    let hi := min (gDup s) (lo + n)
    let done (a : Nat) : Bool := inDup s a && decide (lo ≤ (gddrDecode s a).2.1) && decide ((gddrDecode s a).2.1 < hi)
    let copied := (getChan s (pairChan s c)).wrong.filter (fun e => done e.1)
    let t := modChan s c (fun y => { y with wrong := copied.foldl (fun m e => SMap.insert m e.1 e.2) (y.wrong.filter (fun e => !done e.1)) })
    setRegF t (.memChRslv c) Fd.memChRslvNext hi
  else s

/-- Resilvering ends: the copy has reached the last gathering, and the pair is restored. -/
def doResilverEnd (c : Fin 8) (s : State) : State :=
  let t := resilver c.val (gDup s) s
  if chanState s c.val = 5 ∧ regF t (.memChRslv c.val) Fd.memChRslvNext = gDup s then setRegF t (.memCh c.val) Fd.memChState 2 else s

/-- The patrol scrubber reads a gathering of a channel (R301): the channel's own copies, `g` the granule that the patterns fall on.
One that is detected-uncorrectable is repaired from the partner. It is no request of R298. -/
def patrolChan (c g : Nat) (err err2 : List Nat) (s : State) : State :=
  if chanState s c ≠ 2 ∨ gCh s = 0 then s else
  let idx := (getChan s c).patrol
  let dup := decide (idx < gDup s) && chanServes s (pairChan s c) idx
  let t := (List.range 8).foldl (fun t i =>
    let e := if i = g then (err, err2) else ([], [])
    (readCopies (gddrEncode s c idx i) (if dup then [c, pairChan s c] else [c]) [e.1, e.2] t).2) s
  let next := if idx + 1 < gCh s then idx + 1 else 0
  let t1 := modChan t c (fun x => { x with patrol := next })
  let lead := (List.range 8).find? (fun n => chanState s n == 2)
  if lead ≠ some c then t1 else
  let t2 := setRegF t1 .memScrub Fd.memScrubIndex next
  if next = 0 then incRegF t2 .memScrub Fd.memScrubPasses 1 else t2

/-- The sweep of a quire controller reads a granule of tile SRAM, a press store or an archive (R301): a corrected one is rewritten as
corrected. -/
def sweepGranule (a : Nat) (err : List Nat) (s : State) : State :=
  match memClass s a with
  | none => s
  | some (cls, _, _) =>
    if 14 ≤ cls then s else
    match readGranule s a err (addrWorld s a) with
    | (some f, t) => if (upsetsAt t a).isEmpty then t else setUpsets (flipBits t a f) a []
    | (none, t) => t

def doPatrolScrub (x : Scrub) (err err2 : List Nat) (s : State) : State :=
  match x with
  | .chan c g => patrolChan c.val g.val err err2 s
  | .granule a => sweepGranule a.toNat err s

/-- The channel whose slice is next in rotation: the first in service from the turn on (R296). -/
def sliceChan (s : State) : Option Nat :=
  ((List.range (memChans s)).map (fun i => (s.memSys.turn + i) % memChans s)).find? (fun c => chanState s c == 2 || chanState s c == 5)

/-- A recalibration slice (R296, R302): in every 256th tick one channel, in rotation, adjusts the next step of its cycle; it wakes a
channel in power-down, and a result that moves a setting too far makes its retirement due. The ticks of the slices are those whose
number is a multiple of 256: DESIGN CHOICE: assumption 34. -/
def doRecalibrationSlice (c : Fin 8) (pass : Bool) (s : State) : State :=
  if !running s ∨ s.tick.count.toNat % 256 ≠ 0 ∨ s.memSys.sliced ∨ sliceChan s ≠ some c.val then s
  else
    let t := { s with memSys := { s.memSys with turn := (c.val + 1) % memChans s, sliced := true } }
    let t1 := setRegF (modChan t c.val (fun y => { y with setting := (y.setting + 1) % 4 })) (.memCh c.val) Fd.memChPd 0
    if pass then t1 else failChan c.val 2 t1

/-- A channel enters power-down after 64 ticks without a request (R298). -/
def doChannelPowerDown (c : Fin 8) (s : State) : State :=
  if chanState s c.val = 2 ∧ 64 ≤ (getChan s c.val).idle then setRegF s (.memCh c.val) Fd.memChPd 1 else s

/-- The memory controller at a tick edge: due channels retire, resilvering has copied what 8 bytes a cycle move in the tick that has
ended, idle counts, the corrected reads of the tick, and the 65,536-tick window of uncorrectable gatherings. DESIGN CHOICE:
assumption 34. -/
def memEdge (s0 : State) : State :=
  let s := (List.range (memChans s0)).foldl (fun t c => resilver c (s0.tick.period / 32) t) (retireEdge s0)
  let n := s.tick.count.toNat
  let newWin := decide (s.memSys.window + 65536 ≤ n)
  let t := (List.range (memChans s)).foldl (fun t c =>
    let t1 := modChan t c (fun y => { y with idle := if y.busy then 0 else min 64 (y.idle + 1), busy := false, corr := 0,
                                             badGath := if newWin then [] else y.badGath })
    if newWin then setRegF t1 (.memChErr c) Fd.memChErrUncorr 0 else t1) s
  { t with memSys := { t.memSys with window := if newWin then n else t.memSys.window, sliced := false } }

/-! ### Evidence (R272, R273) -/

/-- An event that leaves an evidence record and nothing else here; classes 0 and 29–31 are reserved. -/
def doEvidenceRecord (cls : Fin 32) (w : Option World) (unit detail : BitVec 16) (s : State) : State :=
  if cls.val = 0 ∨ 28 < cls.val then s else record s cls.val w unit.toNat detail.toNat

/-- A write of CUR_FLUSHw: FLUSH has the keeper core program the staged records. -/
def flushWrite (x : Writer) (w : World) (v : Word) (s : State) : State :=
  let t := plainWrite x (.curFlush w.num) v s
  if owns x (.world w) ∧ Fd.curFlushFlush.get v = 1 then startPage t else t

def execRegionWrite (x : Writer) (r : Fin 64) (f : RgnReg) (v : Word) (s : State) : Out :=
  .next (withAccess x (regionCreg r.val f).addr (some v) (regionWrite x r.val f v) s)
def execZeroingEnd (r : Fin 64) (s : State) : Out := .next (doZeroingEnd r s)
def execPoisonClear (w : World) (v : Word) (s : State) : Out := .next (withAccess (.cur w) (Creg.addr (.memPclr w.num)) (some v) (poisonClear (.cur w) w v) s)
def execChannelRetire (c : Fin 8) (cause : Fin 6) (s : State) : Out := .next (doChannelRetire c cause s)
def execRetrain (w : World) (c : Fin 8) (s : State) : Out :=
  .next (withAccess (.cur w) (Creg.addr (.memCh c.val)) (some (retrainWord w)) (chanWrite (.cur w) c.val (retrainWord w)) s)
def execRetrainEnd (c : Fin 8) (pass : Bool) (s : State) : Out := .next (doRetrainEnd c pass s)
def execResilverEnd (c : Fin 8) (s : State) : Out := .next (doResilverEnd c s)
def execPatrolScrub (t : Scrub) (err err2 : List Nat) (s : State) : Out := .next (doPatrolScrub t err err2 s)
def execRecalibrationSlice (c : Fin 8) (pass : Bool) (s : State) : Out := .next (doRecalibrationSlice c pass s)
def execChannelPowerDown (c : Fin 8) (s : State) : Out := .next (doChannelPowerDown c s)
def execEvidenceRecord (cls : Fin 32) (w : Option World) (unit detail : BitVec 16) (s : State) : Out :=
  .next (doEvidenceRecord cls w unit detail s)
def execFlush (w : World) (s : State) : Out := .next (withAccess (.cur w) (Creg.addr (.curFlush w.num)) (some 1) (flushWrite (.cur w) w 1) s)

end Sys2Proof.Machine
end

