-- ==== Sys2Proof/Machine/GddrOps.lean ====
section
/-! DEFINITION. GDDR7 requests: the activity folios' parts on each channel (R246, R248, R294), and writes of the data
space (R283, R284, R293). -/

namespace Sys2Proof.Machine

/-- The channels that one access is charged on: one for a read, both of the pair for a duplexed write (R246). -/
def chargeChans (s : State) (a : Nat) (write : Bool) : List Nat :=
  if write then copyChans s a else [readChan s a]

/-- Units that an activity has been charged this tick, over all channels. -/
def actUsed (s : State) (act : Nat) : Nat :=
  (s.budget.act.filter (fun e => e.1 / 8 == act)).foldl (fun n e => n + e.2) 0

/-- Whether an activity's folio covers units on the given channels: as a whole, and in each channel's part. -/
def actCovers (s : State) (act : Nat) (cs : List Nat) : Bool :=
  let gran := regLatF s (.bdgAct act) Fd.bdgActGran
  let part := (gran + memChans s - 1) / memChans s
  !running s || (decide (actUsed s act + cs.length ≤ gran) &&
    cs.all (fun c => decide (s.budget.act.get (8 * act + c) 0 + 1 ≤ part)))

/-- Charges an activity for one access, or marks it held (R248): the charge succeeds or not. -/
def actCharge (act a : Nat) (write : Bool) (s : State) : Bool × State :=
  let cs := chargeChans s a write
  if actCovers s act cs then
    let b := if running s then cs.foldl (fun m c => bumpMap m (8 * act + c) 1) s.budget.act else s.budget.act
    (true, { s with budget := { s.budget with act := b } })
  else (false, { s with budget := { s.budget with heldAct := NSet.add s.budget.heldAct act } })

/-- Writes bytes inside one granule of the data space: a whole granule replaces it and clears its poison (R284), a
narrower write is merged into the copy that reads good (R283, R293). The write succeeds or not: a simplex granule whose
channel is out of service takes none (R299). -/
def gddrWrite (s : State) (a : Nat) (bs : List Byte) (err err2 : List Nat) : Bool × State :=
  let clean (t : State) : State := (copyChans t a).foldl (fun u c => setWrong c a [] u) t
  let s1 := (servingChans s a).foldl (fun t c => chanRequest c t) s
  if (servingChans s a).isEmpty then (false, s)
  else if bs.length = 32 then (true, clean (setBytes { s1 with poison := s1.poison.filter (· != granule a) } a bs))
  else
    match gddrRead s1 a err err2 with
    | (some f, t) => (true, clean (setBytes (flipBits t a f) a bs))
    | (none, t) => (false, t)

/-- Granules that a range touches. -/
def granules (a n : Nat) : Nat := (a + n + 31) / 32 - a / 32

/-- Reads a range of any memory under the binder code as a bulk transfer does (R281, R282): its bytes, or none where a granule is
detected-uncorrectable. -/
def readSpan (s : State) (a n : Nat) : Option (List Byte) × State :=
  let gddr : Bool := decide (gddrBase ≤ a) && decide (a < 0x0A00000000)
  let marked := if gddr then gddrMarked s (granule a) (32 * granules a n) else markedIn s (granule a) (32 * granules a n)
  let read (t : State) (g : Nat) : Option (List Nat) × State := if gddr then gddrRead t g [] [] else readGranule t g [] (addrWorld t g)
  let (ok, seen, t) := marked.foldl (fun (x : Bool × State × State) g =>
    match read x.2.2 g with
    | (some f, t) => (x.1, flipBits x.2.1 g f, t)
    | (none, t) => (false, x.2.1, t)) (true, s, if gddr then rangeRequest a n s else s)
  (if ok then some (memBytes seen a n) else none, t)

/-- The parts of an access in each granule: address and length. -/
def pieces : Nat → Nat → Nat → List (Nat × Nat)
  | 0, _, _ => []
  | fuel + 1, a, n =>
    if n = 0 then [] else
    let k := min n (32 - a % 32)
    (a, k) :: pieces fuel (a + k) (n - k)

/-- The bytes of a transfer that fall in one piece of its range. -/
def pieceBytes (a : Nat) (bs : List Byte) (p : Nat × Nat) : List Byte := (bs.drop (p.1 - a)).take p.2

/-- Writes a range of the data space granule by granule: whole granules replace, partial ones merge, and what is refused has no effect
(R283, R284). -/
def bulkWrite (s : State) (a : Nat) (bs : List Byte) : State :=
  (pieces (bs.length + 1) a bs.length).foldl (fun t p => (gddrWrite t p.1 (pieceBytes a bs p) [] []).2) s

end Sys2Proof.Machine
end

