-- ==== Sys2Proof/Machine/Quires.lean ====
section
/-! DEFINITION. Quire controllers: releases (R139–R141), takeover, LOADRES and handover commands (R131–R136), readmission
(R133), write-through acknowledgement (R126), curator messages (R236), quire starts (R58, R76, R93, R163, R238), the
cycle folio (R79, R81) and the deckle (R95). -/

namespace Sys2Proof.Machine

/-! ### Starting cores -/

/-- The accession number that PRS_UCVER reads in a tile loaded from an image slot (R171). -/
def ucver (s : State) (q slot : Nat) : Word :=
  (getQuire s q).patch.get slot (reg s (.truAcc (1 + (quireWorld s q).num)))

/-- A core that starts: supervisor level, empty stacks, apertures and windows invalid, the world's return-address check,
and the tick it has reached. -/
def freshCore (s : State) (w : Option World) (pc : Word) : Core :=
  let k : Core := { on := true, pc := pc, tick := s.tick.count }
  match w with
  | some w => setCcrF k .mode Fd.cModeRachk (regF s (.curWcfg w.num) Fd.curWcfgRachk)
  | none => k

/-- The cores loaded from an image slot read its present accession number in PRS_UCVER (R171). -/
def showUcver (q slot : Nat) (s : State) : State :=
  (List.range 17).foldl (fun t j =>
    let k := getCore t (tileId q j)
    if k.on ∧ k.slot = slot then setCore t (tileId q j) (setCcr k .prsUcver (ucver t q slot)) else t) s

/-- Starts a tile core at an entry (R139, R131), with TSTAT; far stores on their way stay final (R89). -/
def startTile (s : State) (q j slot : Nat) (entry verdict : Word) : State :=
  let c := tileId q j
  let k := setCcr (setCcr (freshCore s (some (quireWorld s q)) entry) .prsUcver (ucver s q slot)) .tstat verdict
  setCore s c { k with slot := slot, nextId := (getCore s c).nextId, unack := (getCore s c).unack, tx := { verdict := verdict } }

/-- Loads an image slot into a position: SRAM image, then press-store image (R128). -/
def loadImage (s : State) (q j slot : Nat) : State := copyCode s (imgBase q slot) (tileBase q j) 0x28000 (some (quireWorld s q))

/-! ### Release (R139–R141) -/

/-- Whether a quire is power-gated (R449). -/
def quireGated (s : State) (q : Nat) : Bool := regF s (.kprPwrQgate (q / 32)) Fd.kprPwrQgateGated / 2 ^ (q % 32) % 2 == 1

def setGated (q : Nat) (b : Bool) (s : State) : State :=
  let n := regF s (.kprPwrQgate (q / 32)) Fd.kprPwrQgateGated
  let base := if n / 2 ^ (q % 32) % 2 = 1 then n - 2 ^ (q % 32) else n
  setRegF s (.kprPwrQgate (q / 32)) Fd.kprPwrQgateGated (if b then base + 2 ^ (q % 32) else base)

/-- The block index of a quire (R437). -/
def quireBlock (q : Nat) : Nat := 2 + q

/-- A write of QRC_REL: cleared bits act at the next tick edge, set bits when the release load ends; a set bit powers a gated
quire up, and ends a quire's idle time (R449). A quire that is to be reset takes no release (R438). -/
def relWrite (x : Writer) (q : Nat) (v : Word) (s : State) : State :=
  if blockStopped s (quireBlock q) && owns x (regOwner s (.qrcRel q)) then s else
  let t0 := plainWrite x (.qrcRel q) v s
  let t := if regF t0 (.qrcRel q) Fd.qrcRelRel = 0 then t0 else modQuire t0 q (fun y => { y with idle := 0, busy := true })
  if quireGated t q && regF t (.qrcRel q) Fd.qrcRelRel != 0 then setGated q false t else t

def relBit (s : State) (q k : Nat) : Bool := regF s (.qrcRel q) Fd.qrcRelRel / 2 ^ k % 2 == 1

/-- Whether a takeover load goes into a position. -/
def takingOver (s : State) (q j : Nat) : Bool :=
  match (getQuire s q).load with
  | some (.takeover i _) => i == j
  | _ => false

/-- Whether the load of a release stands to be done at a position (R139). -/
def releasing (s : State) (q j : Nat) : Bool :=
  decide (role s q j < 16) && relBit s q (role s q j) && !inService s q j && regF s (.qrcStat q) Fd.qrcStatImg == 1 &&
    regF s (.qrcStat q) Fd.qrcStatPwr == 1 && !takingOver s q j

/-- The release load of a position ends: image, both ledger copies, and the core starts (R139). DESIGN CHOICE: assumption 45. -/
def doReleaseLoadEnd (q : Fin 64) (j : Fin 17) (s : State) : State :=
  let r := role s q.val j.val
  if releasing s q.val j.val then
    let t := loadImage s q.val j.val (imgMap s q.val r)
    let led := ledBase q.val (ledMap s q.val r)
    let win := tileBase q.val j.val + 0x1C000
    let t1 := copyRange (copyCode t win led 0x4000 (some (quireWorld s q.val))) win (led + 0x4000) 0x4000
    setRun (startTile t1 q.val j.val (imgMap s q.val r) 0 0) q.val r true
  else s

/-- The edge at which cleared release bits take effect: the positions halt (R141). -/
def relEdge (s : State) : State :=
  (List.range 64).foldl (fun t q =>
    let run := regF t (.qrcStat q) Fd.qrcStatRun
    if run = 0 then t else
    (List.range 16).foldl (fun t k =>
      if run / 2 ^ k % 2 = 1 ∧ !relBit t q k then
        match holder t q k with
        | some j => setRun (modCore t (tileId q j) (fun c => { c with on := false, tx := {} })) q k false
        | none => setRun t q k false
      else t) t) s

/-! ### Takeover and reserve loads (R131–R136) -/

/-- Delivers a curator message to a tile (R236): CMSG and IRQ.CMP. -/
def deliverMsg (s : State) (q j : Nat) (d : Word) : State :=
  modCore s (tileId q j) (fun k => setCcrF (setCcr k .cmsg d) .irq Fd.cIrqCmp 1)

/-- Delivers the messages held through a takeover load, or drops them with DROPPED (R236). -/
def deliverHeld (q : Nat) (msgs : List (Nat × Word)) (s : State) : State :=
  msgs.foldl (fun t m =>
    match holder t q m.1 with
    | some j =>
      let k := getCore t (tileId q j)
      if inService t q j && ccrF k .irq Fd.cIrqCmp == 0 then deliverMsg t q j m.2
      else raiseBit t (.curMsg (quireWorld t q).num) Fd.curMsgDropped
    | none => raiseBit t (.curMsg (quireWorld t q).num) Fd.curMsgDropped) s

/-- Opens the transaction of a position that has started (R76); its cycle folio counts from cycle `at_` (R62, R251). -/
def openTx (at_ : Nat) (k : Core) : Core :=
  { k with tx := { st := .open_, part := true, ready := true, verdict := k.tx.verdict, since := at_ } }

/-- The far accesses that waited for a logical tile are no longer held (R15, R267). -/
def unhold (n : Nat) (s : State) : State :=
  { s with cores := s.cores.map (fun e =>
      (e.1, if e.2.tx.farHeld = some n then { e.2 with tx := { e.2.tx with farHeld := none } } else e.2)) }

/-- The takeover load ends (R131, R268): the reserve starts at the takeover entry with TSTAT of the failed tick, takes
part in the running tick, and what was held proceeds. No load ends in the deckle (R267). A bit of QRC_REL that was cleared meanwhile
halts the tile at the edge that follows, like any other (R141). DESIGN CHOICE: assumption 45. -/
def doTakeoverLoadEnd (q : Fin 64) (s : State) : State :=
  let x := getQuire s q.val
  match x.load with
  | some (.takeover j k) =>
    if !x.loadOn || (running s && s.tick.deckle) then s else
    let t := loadLedger (loadImage s q.val j (imgMap s q.val k)) q.val j (ledMap s q.val k)
    let t1 := startTile t q.val j (imgMap s q.val k) 0x10 (getCore s (tileId q.val j)).tx.verdict
    let t2 := if running s then modCore t1 (tileId q.val j) (openTx 1440) else t1
    let t3 := setRun (setRegF (unhold (16 * q.val + k) t2) (.qrcStat q.val) Fd.qrcStatLoading 0) q.val k true
    let t4 := modQuire t3 q.val (fun x => { x with load := none, loadOn := false, heldMsg := [] })
    deliverHeld q.val x.heldMsg t4
  | _ => s

/-- The position of the reserve. -/
def reserveOf (s : State) (q : Nat) : Option Nat := holder s q 16

/-- Whether a tile of the quire has failed at the stitch that has just run: the cycle of a failure (R136). -/
def failedNow (s : State) (q : Nat) : Bool := !(getQuire s q).fresh.isEmpty

/-- The cycle of the failures is over at the edge that follows. -/
def freshEdge (s : State) : State :=
  s.quires.foldl (fun t e => if e.2.fresh.isEmpty then t else modQuire t e.1 (fun x => { x with fresh := [] })) s

/-- A write of QRC_HOVR (R134–R136): W1C bits and K; LOADRES and GO, each accepted or refused with ERR. LOADING shows a LOADRES
from the write on, also while the load still waits for the tick edge: DESIGN CHOICE: assumption 45. A quire that is to be reset takes
no command (R438). -/
def hovrWrite (x : Writer) (q : Nat) (v : Word) (s : State) : State :=
  if blockStopped s (quireBlock q) && owns x (.world (quireWorld s q)) then s else
  let t := plainWrite x (.qrcHovr q) v s
  if !owns x (.world (quireWorld s q)) then t else
  let refuse (u : State) : State := raiseBit u (.qrcHovr q) Fd.qrcHovrErr
  let t1 := if Fd.qrcHovrLoadres.get v = 0 then t else
    match reserveOf t q with
    | none => refuse t
    | some j =>
      let qq := getQuire t q
      let taking := match qq.load with | some (.takeover _ _) => true | _ => false
      if taking || !qq.verified.contains (imgMap t q 16) then refuse t
      else
        let u := modQuire t q (fun y => { y with load := some (.loadres (imgMap t q 16) (ledMap t q 16)), loadOn := !running t
                                                 idle := 0, busy := true })
        let u1 := setRegF u (.qrcStat q) Fd.qrcStatLoading 1
        if running t then u1
        else setRegF (modCore u1 (tileId q j) (fun k => { k with on := false })) (.qrcStat q) Fd.qrcStatRsvRun 0
  if Fd.qrcHovrGo.get v = 0 then t1
  else if (getQuire t1 q).armed ≠ none ∨ failedNow t1 q then refuse t1
  else setRegF (modQuire t1 q (fun y => { y with armed := some (Fd.qrcHovrK.get v) })) (.qrcHovr q) Fd.qrcHovrArmed 1

/-- A LOADRES load ends (R134): the reserve is released at its quire start in the next tick, or at once while the tick is
not running. The image slot and the ledger pair are those that the maps named at the write. -/
def doLoadresLoadEnd (q : Fin 64) (s : State) : State :=
  let x := getQuire s q.val
  match x.load, reserveOf s q.val with
  | some (.loadres slot pair), some j =>
    if !x.loadOn || (running s && s.tick.deckle) then s else
    let t := loadLedger (loadImage s q.val j slot) q.val j pair
    let t1 := startTile t q.val j slot 0 0
    let t2 := setRegF t1 (.qrcStat q.val) Fd.qrcStatLoading 0
    let t3 := modQuire t2 q.val (fun x => { x with load := none, loadOn := false, rsvNext := running s })
    if running s then t3 else setRegF t3 (.qrcStat q.val) Fd.qrcStatRsvRun 1
  | _, _ => s

/-- The edge at which queued loads begin and a loaded reserve enters service (R131, R134). -/
def loadEdge (s : State) : State :=
  s.quires.foldl (fun t e =>
    let x := getQuire t e.1
    let t1 := if x.rsvNext then
        setRegF (modQuire t e.1 (fun y => { y with rsvNext := false })) (.qrcStat e.1) Fd.qrcStatRsvRun 1 else t
    match x.load with
    | some l =>
      if x.loadOn then t1 else
      let t2 := modQuire t1 e.1 (fun y => { y with loadOn := true })
      match l, reserveOf t2 e.1 with
      | .loadres _ _, some j =>
        setRegF (modCore t2 (tileId e.1 j) (fun k => { k with on := false, tx := {} })) (.qrcStat e.1) Fd.qrcStatRsvRun 0
      | _, _ => t2
    | none => t1) s

/-! ### Readmission (R133) -/

/-- A write of QRC_POSj: READMIT asks for the test of a failed position, which begins at the next tick edge (R130). DEDUCED:
assumption 45. -/
def posWrite (x : Writer) (q j : Nat) (v : Word) (s : State) : State :=
  let t := plainWrite x (.qrcPos q j) v s
  if owns x (.world (quireWorld s q)) ∧ Fd.qrcPosReadmit.get v = 1 ∧ role t q j = 17 then
    modQuire t q (fun y => { y with readmit := NSet.add y.readmit j, idle := 0, busy := true })
  else t

/-- The readmission test ends while the tick runs: its result shows, and the role follows at the next edge (R130, R133). -/
def doReadmitTestEnd (q : Fin 64) (j : Fin 17) (pass : Bool) (s : State) : State :=
  if role s q.val j.val ≠ 19 ∨ !running s ∨ (getQuire s q.val).tested.any (fun e => e.1 == j.val) then s else
  let t := record s 27 (some (quireWorld s q.val)) (32 * q.val + j.val) 0
  let t1 := setRegF t (.qrcPos q.val j.val) Fd.qrcPosTestFail (if pass then 0 else 1)
  modQuire t1 q.val (fun y => { y with tested := SMap.insert y.tested j.val (if pass then 18 else 17) })

/-- The roles that tests give at an edge: a position that passed becomes the reserve if the quire has none, and otherwise a tested
spare; a new test begins (R130, R133). -/
def roleEdge (s : State) : State :=
  s.quires.foldl (fun t e =>
    if e.2.tested.isEmpty && e.2.readmit.isEmpty then t else
    let give (u : State) (x : Nat × Nat) : State :=
      if x.2 = 18 ∧ reserveOf u e.1 = none then
        setRegF (setRegF u (.qrcPos e.1 x.1) Fd.qrcPosRole 16) (.qrcStat e.1) Fd.qrcStatNoReserve 0
      else setRegF u (.qrcPos e.1 x.1) Fd.qrcPosRole x.2
    let t1 := e.2.readmit.foldl (fun u j => if role u e.1 j = 17 then setRegF u (.qrcPos e.1 j) Fd.qrcPosRole 19 else u)
      (e.2.tested.foldl give t)
    modQuire t1 e.1 (fun y => { y with readmit := [], tested := [] })) s

/-! ### Write-through (R92, R126, R127) -/

/-- The oldest queued granule of a tile's write-through is sent and acknowledged, up to the stitch freeze. DESIGN CHOICE: assumption 45. -/
def doWriteThroughAck (q : Fin 64) (j : Fin 17) (s : State) : State :=
  let c : CoreId := .tile q j
  let k := getCore s c
  match k.tx.wtq with
  | [] => s
  | g :: rest =>
    if s.tick.frozen then s
    else if arcSpent s q.val j.val k then setCore s c { k with tx := { k.tx with heldArc := true } }
    else
      let t := setCore s c { k with tx := { k.tx with wtq := rest, arc := k.tx.arc + 1 } }
      copyCode t (tileBase q.val j.val + 0x1C000 + 32 * g) (inflightAt t q.val (ledMap t q.val (maskBit t q.val j.val)) g) 32
        (some (quireWorld s q.val))

/-! ### Curator messages (R236) -/

/-- A write of CUR_MSGw: a send is refused with BUSY, held through a takeover load, or delivered. -/
def msgWrite (x : Writer) (w : World) (v : Word) (s : State) : State :=
  let t := plainWrite x (.curMsg w.num) v s
  if !owns x (.world w) ∨ Fd.curMsgSend.get v = 0 then t else
  let n := Fd.curMsgTile.get v
  let q := n / 16
  let busy (u : State) : State := raiseBit u (.curMsg w.num) Fd.curMsgBusy
  if quireWorld t q ≠ w then raisePriv (busy t) x (Creg.addr (.curMsg w.num))
  else
    match (getQuire t q).load with
    | some (.takeover _ k) =>
      if k = n % 16 then modQuire t q (fun y => { y with heldMsg := y.heldMsg ++ [(k, reg t (.curMsgd w.num))] })
      else deliverOr busy t q n w
    | _ => deliverOr busy t q n w
where
  deliverOr (busy : State → State) (t : State) (q n : Nat) (w : World) : State :=
    match holder t q (n % 16) with
    | some j =>
      if inService t q j && ccrF (getCore t (tileId q j)) .irq Fd.cIrqCmp == 0 then deliverMsg t q j (reg t (.curMsgd w.num))
      else busy t
    | none => busy t

/-! ### Quire start (R58, R76) -/

/-- The queued restore of a tile's ledger window: the dirty granules of its aborted tick, from their committed copies (R93). -/
def restoreTile (q j : Nat) (s : State) : State :=
  let t := (getCore s (tileId q j)).tx.restore.foldl (fun t g =>
    copyCode t (committedAt t q (ledMap t q (maskBit s q j)) g) (tileBase q j + 0x1C000 + 32 * g) 32 (some (quireWorld s q))) s
  modCore t (tileId q j) (fun k => { k with tx := { k.tx with restore := [] } })

/-- The restores that no quire start follows, since the edge is the final one (R66, R93). -/
def restoreAll (s : State) : State :=
  s.cores.foldl (fun t e => if e.1 < 1088 ∧ !e.2.tx.restore.isEmpty then restoreTile (e.1 / 17) (e.1 % 17) t else t) s

/-- Repairs and restores a tile's SRAM before its quire start (R93, R270): poisoned granules, then the queued restore. -/
def repairTile (q j : Nat) (s : State) : State :=
  let base := tileBase q j
  let r := maskBit s q j
  let w := some (quireWorld s q)
  let bad := s.poison.filter (fun g => decide (base ≤ g) && decide (g < base + 0x28000))
  let fix (t : State) (g : Nat) : State :=
    let off := g - base
    if 0x1C000 ≤ off ∧ off < 0x20000 then copyCode t (committedAt t q (ledMap t q r) ((off - 0x1C000) / 32)) g 32 w
    else copyCode t (imgBase q (imgMap t q r) + off) g 32 w
  restoreTile q j (bad.foldl fix s)

/-- The cause of a stop after which a tile takes RESUME (R238): DECKLE, BUDGET or FARHELD, or 0. -/
def stopCause (x : Tx) : Nat :=
  if x.st ≠ .stopped then 0
  else if x.causes.contains 7 then 7 else if x.causes.contains 1 then 1 else if x.causes.contains 3 then 3 else 0

/-- One position at its quire start: ledger restore, TSTAT, press flags, a new transaction, the start latch, and RESUME of
a tile that a stop had cut off (R238). A halted core delivers no status in this tick (R269). -/
def startPosition (q j : Nat) (s : State) : State :=
  let c := tileId q j
  let k := getCore s c
  if !(k.tx.ready && inService s q j) then s
  else if k.halted || !k.on then setCore s c { k with tx := { part := true, ready := true, verdict := k.tx.verdict } }
  else
    let t := repairTile q j s
    let cause := stopCause k.tx
    let k1 := setCcr (setCcr (setCcr k .tstat k.tx.verdict) .prsFlagp (ccr k .prsFlags)) .prsFlags 0
    let k2' : Core := { openTx (16 * q) k1 with tick := s.tick.count }
    let k2 : Core := if k2'.doomNext then doomUncorr 5 { k2' with doomNext := false } else k2'
    if cause ≠ 0 then enterException (setCore t c { k2 with latch := true, wait := .none }) c 11 cause 0 k2.pc
    else if k.wait = .wft then retire (setCore t c { k2 with latch := false, wait := .none }) c
    else setCore t c { k2 with latch := true, wait := .none }

/-- Whether a tile that was in service at the edge, in one of the quires that `among` names, has not reached its quire's start
(R57). -/
def startsDue (among : Nat → Bool) (s : State) : Bool :=
  s.cores.any (fun e => decide (e.1 < 1088) && e.2.tx.ready && inService s (e.1 / 17) (e.1 % 17) &&
    !s.tick.started.contains (e.1 / 17) && among (e.1 / 17))

/-- A quire starts its clocks in the running tick: in the order of quire numbers, before the ingress deadline (R57). -/
def doQuireStart (q : Fin 64) (s : State) : State :=
  if !running s ∨ s.tick.deadline ∨ s.tick.deckle ∨ s.tick.started.any (fun n => decide (q.val ≤ n)) ∨
      startsDue (fun n => decide (n < q.val)) s then s else
  let t := { s with tick := { s.tick with started := NSet.add s.tick.started q.val, cycle := max s.tick.cycle (16 * q.val) } }
  (List.range 17).foldl (fun u j => startPosition q.val j u) t

/-! ### Timer, folio, deckle -/

/-- The tick timer of a core reaches TTCYC (R234). -/
def doTickTimer (c : CoreId) (s : State) : State :=
  let k := getCore s c
  let n := ccrF k .irq Fd.cIrqTtcyc
  if running s ∧ ccrF k .irq Fd.cIrqTten = 1 ∧ n < s.tick.period then
    { setCore s c (setCcrF k .irq Fd.cIrqTtp 1) with tick := { s.tick with cycle := max s.tick.cycle n } }
  else s

/-- A tile's cycle folio runs out (R79, R81, R245). A core that is clock-gated in WFT spends no cycle (R246), and a folio that
reaches to the first deckle cycle or beyond does not run out before it (R62, R259). -/
def doCycleFolioExhausted (q : Fin 64) (j : Fin 17) (s : State) : State :=
  let c : CoreId := .tile q j
  let k := getCore s c
  let cyc := regLatF s (.bdgTfolA (folioIndex s q.val j.val)) Fd.bdgTfolACyc
  if !running s ∨ !k.tx.part ∨ !s.tick.started.contains q.val ∨ s.tick.deckle ∨ k.wait = .wft ∨ cyc = 0xFFFF ∨
      s.tick.period ≤ cyc + 640 + k.tx.since then s
  else match k.tx.st with
    | .open_ => setCore s c (stopTile k 3)
    | .stitched => setCore s c (holdCore k)
    | .aborting => setCore s c (holdCore k)
    | _ => s

/-- One tile core at the first deckle cycle (R95, R81, R166, R15). -/
def deckleCore (k : Core) : Core :=
  if !k.tx.part then k
  else match k.tx.st with
    | .open_ => stopTile k (if k.tx.farHeld.isSome then 7 else 1)
    | .stitched => abandonPress (holdCore k)
    | .aborting => abandonPress (holdCore k)
    | _ => k

/-- The deckle begins, after the ingress deadline (R57). -/
def doDeckle (s : State) : State :=
  if !running s ∨ s.tick.deckle ∨ !s.tick.deadline then s else
  { s with cores := s.cores.map (fun e => (e.1, if e.1 < 1088 then deckleCore e.2 else e.2))
           tick := { s.tick with deckle := true, cycle := max s.tick.cycle (s.tick.period - 640) } }

def execTileRelease (w : World) (q : Fin 64) (v : Word) (s : State) : Out :=
  .next (withAccess (.cur w) (Creg.addr (.qrcRel q.val)) (some v) (relWrite (.cur w) q.val v) s)
def execReleaseLoadEnd (q : Fin 64) (j : Fin 17) (s : State) : Out := .next (doReleaseLoadEnd q j s)
def execRelClear (w : World) (q : Fin 64) (v : Word) (s : State) : Out :=
  .next (withAccess (.cur w) (Creg.addr (.qrcRel q.val)) (some v) (relWrite (.cur w) q.val v) s)
def execTakeoverLoadEnd (q : Fin 64) (s : State) : Out := .next (doTakeoverLoadEnd q s)
def execLoadres (w : World) (q : Fin 64) (v : Word) (s : State) : Out :=
  .next (withAccess (.cur w) (Creg.addr (.qrcHovr q.val)) (some v) (hovrWrite (.cur w) q.val v) s)
def execLoadresLoadEnd (q : Fin 64) (s : State) : Out := .next (doLoadresLoadEnd q s)
def execHandoverGo (w : World) (q : Fin 64) (v : Word) (s : State) : Out :=
  .next (withAccess (.cur w) (Creg.addr (.qrcHovr q.val)) (some v) (hovrWrite (.cur w) q.val v) s)
def execReadmit (w : World) (q : Fin 64) (j : Fin 17) (v : Word) (s : State) : Out :=
  .next (withAccess (.cur w) (Creg.addr (.qrcPos q.val j.val)) (some v) (posWrite (.cur w) q.val j.val v) s)
def execReadmitTestEnd (q : Fin 64) (j : Fin 17) (pass : Bool) (s : State) : Out := .next (doReadmitTestEnd q j pass s)
def execWriteThroughAck (q : Fin 64) (j : Fin 17) (s : State) : Out := .next (doWriteThroughAck q j s)
def execSend (w : World) (v : Word) (s : State) : Out := .next (withAccess (.cur w) (Creg.addr (.curMsg w.num)) (some v) (msgWrite (.cur w) w v) s)
def execQuireStart (q : Fin 64) (s : State) : Out := .next (doQuireStart q s)
def execTickTimer (c : CoreId) (s : State) : Out := .next (doTickTimer c s)
def execCycleFolioExhausted (q : Fin 64) (j : Fin 17) (s : State) : Out := .next (doCycleFolioExhausted q j s)
def execDeckle (s : State) : Out := .next (doDeckle s)

end Sys2Proof.Machine
end

