-- ==== Sys2Proof/Machine/Bundle.lean ====
section
/-! DEFINITION. Bundles: header, sections, colophon (R374, R376), well-formedness (R375), verification (R380), press
patches (R169, R170), and the writing of image slots with their scanner expected values (R303, R305, R383). -/

namespace Sys2Proof.Machine

/-! ### Sections -/

/-- A section entry of a bundle (R374). -/
structure Section where
  ty : Nat
  index : Nat
  tmask : Nat
  off : Nat
  len : Nat
  dest : Nat
deriving DecidableEq, Repr

/-- Length limit of a bundle, 28 MiB. -/
def bundleMax : Nat := 29360128
/-- Length of an SLH-DSA-SHA2-128s signature. -/
def sigLen : Nat := 7856

def bundleNsec (s : State) (b : Nat) : Nat := memNat s (b + 6) 2
def bundleTotal (s : State) (b : Nat) : Nat := memNat s (b + 8) 4
/-- Address of the colophon. -/
def colophon (s : State) (b : Nat) : Nat := b + memNat s (b + 12) 4

/-- The section entry i of the bundle at an address. -/
def sectionAt (s : State) (b i : Nat) : Section :=
  let e := b + 0x40 + 16 * i
  ⟨memNat s e 1, memNat s (e + 1) 1, memNat s (e + 2) 2, memNat s (e + 4) 4, memNat s (e + 8) 4, memNat s (e + 12) 4⟩

/-- The sections of a bundle, at most the 160 that a header may name. -/
def sections (s : State) (b : Nat) : List Section := (List.range (min 160 (bundleNsec s b))).map (sectionAt s b)

/-- Accession numbers of the colophon: keeper, programme, guard. -/
def bundleAcc (s : State) (b k : Nat) : Word := memWord s (colophon s b + 8 + 4 * k)
/-- Curator start vectors of the colophon. -/
def bundleVec (s : State) (b : Nat) (w : World) : Word := memWord s (colophon s b + 0x14 + 4 * w.num)
def bundleSlot (s : State) (b : Nat) : Nat := memNat s (colophon s b + 6) 1

/-- The section of a curator image. -/
def curSection (s : State) (b : Nat) (w : World) : Option Section := (sections s b).find? (fun x => x.ty == 2 + w.num)

/-- The quires that the patch header at an address names. -/
def patchQuires (s : State) (p : Nat) : List Nat := (List.range 64).filter (fun q => memNat s (p + 12) 8 / 2 ^ q % 2 == 1)
def patchStart (s : State) (p : Nat) : Nat := memNat s (p + 0x14) 2
def patchCount (s : State) (p : Nat) : Nat := memNat s (p + 0x16) 2

/-- The checks of R170 on the patch header at an address. -/
def patchOk (s : State) (p : Nat) : Bool :=
  let w := memNat s (p + 8) 1
  memNat s p 4 == 0x50504E5A && decide (w < 2) && (patchQuires s p).all (fun q => quireWorld s q == World.ofNum w) &&
    decide (1 ≤ patchCount s p) && decide (patchStart s p + patchCount s p ≤ 2048)

/-- The range of a constant region: its length rounded up to 64 KiB. -/
def constRange (x : Section) : Nat × Nat := (65536 * x.dest, 65536 * x.dest + (x.len + 65535) / 65536 * 65536)

/-- Whether a section's fields follow the tables of R374. -/
def sectionOk (s : State) (b : Nat) (x : Section) : Bool :=
  x.off % 32 == 0 && (x.ty == 4 || x.tmask == 0) && (x.ty == 6 || x.dest == 0) && (x.ty == 4 || x.ty == 6 || x.index == 0) &&
  match x.ty with
  | 1 => decide (1 ≤ x.len) && decide (x.len ≤ 16384)
  | 2 => decide (1 ≤ x.len) && decide (x.len ≤ 262144)
  | 3 => decide (1 ≤ x.len) && decide (x.len ≤ 262144)
  | 4 => decide (x.index < 64) && x.len == 163840
  | 5 => patchOk s (b + x.off) && x.len == 32 + 16 * patchCount s (b + x.off)
  | 6 => decide (x.index < 2) && decide (1 ≤ x.len) && decide (x.len ≤ 16777216) && decide (x.dest < 2 ^ 24) &&
      decide (gddrBase + 0x2000000 ≤ (constRange x).1) && decide ((constRange x).2 ≤ dupTop s)
  | _ => false

def disjoint2 (a b : Nat × Nat) : Bool := decide (a.2 ≤ b.1) || decide (b.2 ≤ a.1)

/-- Whether every two members of a list pass a test. -/
def pairwise {α : Type} (t : α → α → Bool) : List α → Bool
  | [] => true
  | x :: l => l.all (t x) && pairwise t l

/-- Whether the bundle at an address is well formed, of `staged` bytes (R375). -/
def wellFormed (s : State) (b staged : Nat) : Bool :=
  let n := bundleNsec s b
  let total := bundleTotal s b
  let col := memNat s (b + 12) 4
  let secs := sections s b
  let consts := secs.filter (fun x => x.ty == 6)
  let count (t : Nat) : Nat := (secs.filter (fun x => x.ty == t)).length
  let vecOk (w : World) : Bool := match curSection s b w with
    | some x => (bundleVec s b w).toNat % 2 == 0 && decide ((bundleVec s b w).toNat < x.len)
    | none => false
  memNat s b 4 == 0x424C4E5A && memNat s (b + 4) 2 == 1 && decide (3 ≤ n) && decide (n ≤ 160) &&
    decide (total ≤ bundleMax) && decide (total ≤ staged) && col + 0x60 + 32 * n + sigLen == total &&
    memNat s (b + col) 4 == 0x4F434E5A && memNat s (b + col + 4) 2 == n &&
    secs.all (fun x => decide (0x40 + 16 * n ≤ x.off) && decide (x.off + x.len ≤ col)) &&
    pairwise (fun x y => disjoint2 (x.off, x.off + x.len) (y.off, y.off + y.len)) secs &&
    secs.all (sectionOk s b) && decide (count 1 ≤ 1) && count 2 == 1 && count 3 == 1 &&
    pairwise (fun x y => x.ty != 4 || y.ty != 4 || x.index != y.index || x.tmask &&& y.tmask == 0) secs &&
    pairwise (fun x y => disjoint2 (constRange x) (constRange y)) consts && decide (consts.length ≤ 64) &&
    vecOk .prg && vecOk .grd

/-! ### Verification -/

/-- The bytes of a digest, most significant first. -/
def digestBytes (d : BitVec 256) : List Byte := (List.range 32).map (fun i => BitVec.ofNat 8 (d.toNat / 256 ^ (31 - i)))

def fuse (s : State) (i : Nat) : Byte := s.trust.fuses.get i 0
/-- Fuse bytes 0x080–0x100 as they stand: key slots, REVOKE and DBG_FLOOR (R379). -/
def fuseSnap (s : State) : List Byte := (List.range 129).map (fun i => fuse s (0x80 + i))

/-- The colophon body: the signed bytes (R376). -/
def colBody (s : State) (b n : Nat) : List Byte := memBytes s (colophon s b) (0x60 + 32 * n)

/-- Checks 3 to 6 of R380 on a colophon at an address with `n` sections. -/
def verifyKey (s : State) (snap : List Byte) (col n : Nat) : Nat :=
  let slot := memNat s (col + 6) 1
  let key := (snap.drop (32 * slot)).take 32
  let pub := memBytes s (col + 0x20) 32
  if 4 ≤ slot ∨ key.all (· == 0) then 3
  else if (snap.getD 128 0).getLsbD slot then 4
  else if digestBytes (Config.sha256 pub) ≠ key then 5
  else if Config.slhVerify pub (memBytes s col (0x60 + 32 * n)) (memBytes s (col + 0x60 + 32 * n) sigLen) then 0 else 6

/-- Verification of the well-formed bundle at an address (R380): FAILCODE and FAILSEC. DESIGN CHOICE: assumption 36. -/
def verifyBundle (s : State) (snap : List Byte) (b : Nat) : Nat × Nat :=
  let n := bundleNsec s b
  let col := colophon s b
  let bad := (List.range n).find? (fun i =>
    let x := sectionAt s b i
    digestBytes (Config.sha256 (memBytes s (b + x.off) x.len)) != memBytes s (col + 0x60 + 32 * i) 32)
  if digestBytes (Config.sha256 (memBytes s b (0x40 + 16 * n))) ≠ memBytes s (col + 0x40) 32 then (1, 0)
  else match bad with
    | some i => (2, i)
    | none => (verifyKey s snap col n, 0)

/-! ### Image slots -/

/-- CRC-32C of a byte list (POLY 1 of R303). -/
def crc32cByte (c : Nat) (b : Byte) : Nat :=
  (List.range 8).foldl (fun x _ => if x % 2 = 1 then (x / 2) ^^^ 0x82F63B78 else x / 2) (c ^^^ b.toNat)

/-- The check value of a block (R303): base address, SEQ, data. -/
def blockCheck (poly addr : Nat) (seq : Word) (data : List Byte) : Nat :=
  let bs := leBytes 8 addr ++ wordBytes seq ++ data
  if poly = 0 then crc32 bs else (bs.foldl crc32cByte 0xFFFFFFFF) ^^^ 0xFFFFFFFF

/-- Key of a scanner's expected value. -/
def expKey (q slot blk : Nat) : Nat := 4096 * q + 160 * slot + blk

/-- Writes the expected values of an image slot from its contents (R305). -/
def setExpected (q slot : Nat) (s : State) : State :=
  let m := (List.range 160).foldl (fun (m : SMap Word) b =>
    let a := imgBase q slot + 1024 * b
    SMap.set m (expKey q slot b) (BitVec.ofNat 32 (blockCheck 0 a (ucver s q slot) (memBytes s a 1024))) 0) s.scan.expected
  { s with scan := { s.scan with expected := m } }

/-- An image slot has been written, or its accession number has changed: its expected values, and the cores loaded from it
(R171, R305). -/
def slotWritten (q slot : Nat) (s : State) : State := showUcver q slot (setExpected q slot s)

/-- The image of logical tile k in a bundle (R383 step 4): the quire's section whose TMASK has bit k, or its first. -/
def imageSection (s : State) (b q k : Nat) : Option Section :=
  let mine := (sections s b).filter (fun x => x.ty == 4 && x.index == q)
  match mine.find? (fun x => x.tmask / 2 ^ k % 2 == 1) with
  | some x => some x
  | none => mine.head?

/-- Writes microwords into an image slot, from a word number (R170). -/
def patchSlot (q slot : Nat) (acc : Word) (start : Nat) (words : List Byte) (s : State) : State :=
  let a := imgBase q slot + 0x20000 + 16 * start
  let t := setBytes { s with poison := s.poison.filter (fun g => decide (g < a) || decide (a + words.length ≤ g)) } a words
  modQuire t q (fun x => { x with patch := SMap.insert x.patch slot acc })

/-- Applies the press patches of a bundle to an image slot, in table order (R383 step 5). -/
def applyPatches (b q slot : Nat) (s : State) : State :=
  (sections s b).foldl (fun t x =>
    let p := b + x.off
    if x.ty = 5 ∧ (patchQuires s p).contains q then
      patchSlot q slot (memWord s (p + 4)) (patchStart s p) (memBytes s (p + 32) (16 * patchCount s p)) t
    else t) s

/-- Writes an image slot with the image of logical tile k of the bundle at an address, its patches and its expected
values. A slot of a quire with no image takes the patches that name the quire (R170). -/
def writeSlot (b q slot k : Nat) (s : State) : State :=
  match imageSection s b q k with
  | none =>
    if (sections s b).any (fun x => x.ty == 5 && (patchQuires s (b + x.off)).contains q) then slotWritten q slot (applyPatches b q slot s) else s
  | some x =>
    let t := copyChecked s (b + x.off) (imgBase q slot) 0x28000
    let t1 := modQuire t q (fun y => { y with patch := SMap.erase y.patch slot, verified := NSet.add y.verified slot })
    let sc := { t1.scan with holds := NSet.add t1.scan.holds (17 * q + slot), img := SMap.insert t1.scan.img (17 * q + slot) k }
    slotWritten q slot (applyPatches b q slot { t1 with scan := sc })

/-! ### Constant regions and curators -/

/-- Claims the lowest free entry of the region table for a constant section (R383 step 6, R292); the entry claimed. -/
def claimConst (b : Nat) (x : Section) (s : State) : Option Nat × State :=
  match (List.range 64).find? (fun r => regF s (.memRgnAttr r) Fd.memRgnAttrType == 0) with
  | none => (none, s)
  | some r =>
    let (lo, hi) := constRange x
    let a0 := Fd.memRgnAttrWorld.putN (Fd.memRgnAttrType.putN (reg s (.memRgnAttr r)) 2) x.index
    let a1 := Fd.memRgnAttrPend.putN (Fd.memRgnAttrDuplex.putN a0 1) (if running s then 1 else 0)
    let t := setReg (setReg (setReg s (.memRgnBase r) (BitVec.ofNat 32 (lo / 65536))) (.memRgnLim r) (BitVec.ofNat 32 (hi / 65536)))
      (.memRgnAttr r) a1
    let t1 := setRegF t (.memRgnSrc r) Fd.memRgnSrcOffset x.off
    (some r, copyChecked (zeroRange t1 lo (hi - lo)) (b + x.off) lo x.len)

/-- Writes a curator's image into its local SRAM, and all-ones data above it (R383 step 2). -/
def loadCurator (b : Nat) (w : World) (s : State) : State :=
  match curSection s b w with
  | none => s
  | some x =>
    let a := localBase (.curator w)
    setBytes (copyChecked (zeroRange s a 0x40000) (b + x.off) a x.len) (a + x.len) (List.replicate (0x40000 - x.len) 0xFF#8)

/-- A curator starts at an address with IE clear and every window and pointer 0 (R384). -/
def startCurator (w : World) (pc : Word) (s : State) : State :=
  let k := freshCore s (some w) pc
  setRegF (setCore s (.curator w) { k with nextId := (getCore s (.curator w)).nextId }) (.curStat w.num) Fd.curStatHalted 0

end Sys2Proof.Machine
end

