-- ==== Sys2Proof/Machine/Hosts.lean ====
section
/-! DEFINITION. Host ports and galleries (R360–R373): BAR0 and BAR2 accesses, stream rings, doorbells, notices, link
loss, and the HST registers with checks of their own. -/

namespace Sys2Proof.Machine

def getHost (s : State) (h : Nat) : HostPort := s.host.get h {}
def modHost (s : State) (h : Nat) (f : HostPort → HostPort) : State := { s with host := s.host.set h (f (getHost s h)) {} }

/-- The size of the BAR that a BAR register belongs to, 0 for none: BAR0 of the lead port, BAR2, BAR4 (R362, R363). -/
def barSize (s : State) (h i : Nat) : Nat :=
  match i / 2 with
  | 0 => if regF s (.hstStat h) Fd.hstStatRole = 3 then 0x2000000 else 0
  | 1 => 0x4000000
  | _ => 0x10000

/-- A BAR register (R363): its address bits, and in the low register the attributes 64-bit and, but for BAR4, prefetchable. DEDUCED:
assumption 33. -/
def barWord (s : State) (h i : Nat) : Word :=
  let n := barSize s h i
  let v := (getHost s h).bars.get i 0
  if n = 0 then 0 else if i % 2 = 1 then v
  else (v &&& ~~~(BitVec.ofNat 32 (n - 1))) ||| (if i / 2 = 2 then 4 else 0xC)

/-- A byte of the Type 0 configuration header (R360, R363, R391): the identifiers of the identity fuses, Memory Space and Bus Master
Enable in the command register, the class code 0x040100, the BAR registers. PRESUMED: assumption 33. -/
def configByte (s : State) (h off : Nat) : Byte :=
  let id (i : Nat) : Byte := s.trust.fuses.get (0x144 + i) 0
  match off with
  | 0 => id 0
  | 1 => id 1
  | 2 => id 2
  | 3 => id 3
  | 4 => if (getHost s h).bme then 6 else 2
  | 8 => s.trust.fuses.get 0x14C 0
  | 10 => 0x01
  | 11 => 0x04
  | 0x2C => id 4
  | 0x2D => id 5
  | 0x2E => id 6
  | 0x2F => id 7
  | n => if 0x10 ≤ n ∧ n < 0x28 then BitVec.ofNat 8 ((barWord s h ((n - 0x10) / 4)).toNat / 256 ^ (n % 4)) else 0

/-- Whether a port is the lead port (R362). -/
def isLead (s : State) (h : Nat) : Bool := regF s (.hstStat h) Fd.hstStatRole == 3
/-- Whether a port's gallery is up: its role is not off and its data link is (R372). -/
def galleryUp (s : State) (h : Nat) : Bool := (hostWorld s h).isSome && regF s (.hstStat h) Fd.hstStatDown == 0
/-- Whether a port's memory space takes requests: its gallery is up, and the function is in D0 (R360, R372). -/
def hostOpen (s : State) (h : Nat) : Bool := galleryUp s h && !(getHost s h).d3
/-- Whether an access of a port has been held in this tick, behind which the port's later ones wait. -/
def behind (s : State) (h : Nat) : Bool := running s && s.budget.heldGal.contains h
/-- Units that an activity has been charged this tick, over all channels. -/
def actSpent (s : State) (act : Nat) : Nat := (s.budget.act.filter (fun e => e.1 / 8 == act)).foldl (fun n e => n + e.2) 0
/-- Whether a port's credits are withheld to the next edge (R256): an access of it is held, or its host-stream folio or its activity
has nothing left. -/
def withheld (s : State) (h : Nat) : Bool :=
  behind s h || (running s && (decide (regLatF s (.bdgGal h) Fd.bdgGalHbytes ≤ s.budget.gal.get h 0) ||
    decide (regLatF s (.bdgAct (regLatF s (.bdgGal h) Fd.bdgGalAct)) Fd.bdgActGran ≤ actSpent s (regLatF s (.bdgGal h) Fd.bdgGalAct))))
def bootStage (s : State) : Nat := regF s .truBoot Fd.truBootStage

/-! ### Notices (R371) -/

/-- Sends an MSI-X message: nothing while MSI-X is disabled; a masked vector sets its pending bit. -/
def sendVec (h v : Nat) (s : State) : State :=
  let p := getHost s h
  if !p.msix || !p.bme || p.d3 then s
  else if p.mask.contains v then modHost s h (fun p => { p with pba := NSet.add p.pba v })
  else modHost s h (fun p => { p with sent := p.sent ++ [v] })

/-- HSTATUS of a port (R365). -/
def hstatus (s : State) (h : Nat) : Nat :=
  bootStage s + 16 * regF s .truBoot Fd.truBootVerified + 32 * regF s .truBoot Fd.truBootUnverified +
    64 * (if running s then 1 else 0) + 256 * (getHost s h).relErr

/-- Every change of HSTATUS sends vector 0 (R371). -/
def hostShow (s : State) : State :=
  (List.range 4).foldl (fun t h =>
    let n := hstatus t h
    if n = (getHost t h).shown then t
    else
      let u := modHost t h (fun p => { p with shown := n })
      if galleryUp u h then sendVec h 0 u else u) s

/-- The notices of a tick are sent after the next edge, one message for each vector. -/
def hostEdge (s : State) : State :=
  (List.range 4).foldl (fun t h =>
    let due := (getHost t h).due
    let u := modHost t h (fun p => { p with due := [], sent := [] })
    if galleryUp u h then due.foldl (fun u v => sendVec h v u) u else u) s

/-! ### The window and the rings -/

/-- Base address of a port's BAR2 window, when placed. -/
def windowBase (s : State) (h : Nat) : Option Nat :=
  if regLatF s (.hstWin h) Fd.hstWinPlaced = 1 then some (2 ^ 26 * regLatF s (.hstWin h) Fd.hstWinBase) else none

/-- Whether an address lies in a region of a gallery's world, which a write needs to be a data region (R366, R291). -/
def galleryAddr (s : State) (h a : Nat) (write : Bool) : Bool :=
  match regionOf s a with
  | some r => some (regionWorld s r) == hostWorld s h && !(write && regLatF s (.memRgnAttr r) Fd.memRgnAttrType == 2)
  | none => false

/-- A ring's configuration as it acts. -/
def ringF (s : State) (h r : Nat) (f : Fld) : Nat := regLatF s (.hstRing h r) f
def ringOn (s : State) (h r : Nat) : Bool := ringF s h r Fd.hstRingEn == 1
def ringIn (s : State) (h r : Nat) : Bool := ringF s h r Fd.hstRingDir == 1
def ringN (s : State) (h r : Nat) : Nat := 2 ^ ringF s h r Fd.hstRingLogn

/-- The address of a ring's header, when the ring is in use and its header can be reached. -/
def ringHeader (s : State) (h r : Nat) : Option Nat :=
  match windowBase s h with
  | some b => if ringOn s h r && galleryAddr s h (b + 32 * r) true then some (b + 32 * r) else none
  | none => none

/-- The entry area of a ring: first address and address after the last. -/
def ringArea (s : State) (h r : Nat) : Option (Nat × Nat) :=
  (windowBase s h).map (fun b =>
    let lo := b + 4096 * ringF s h r Fd.hstRingBase
    (lo, lo + 2 ^ (ringF s h r Fd.hstRingLogn + ringF s h r Fd.hstRingLogs + 6)))

/-- The header word that an address names: port, ring and word number (R367). -/
def headerWord (s : State) (a : Nat) : Option (Nat × Nat × Nat) :=
  (List.range 4).findSome? (fun h =>
    if (hostWorld s h).isNone then none else
    match windowBase s h with
    | some b => if b ≤ a ∧ a < b + 512 ∧ ringOn s h ((a - b) / 32) then some (h, (a - b) / 32, (a - b) % 32 / 4) else none
    | none => none)

/-- A device-side write of a header word has landed: it waits to be applied, and other words keep their values (R367). -/
def indexLanded (h r word core : Nat) (v : Word) (s : State) : State :=
  if word = (if ringIn s h r then 1 else 0) then modHost s h (fun p => { p with idx := p.idx ++ [(r, core, v)] }) else s

/-- The number of steps from one index to another, modulo 2^32. -/
def ahead (a b : Word) : Nat := (b - a).toNat

/-- A ring's header is read under the binder code: the memory as it reads, none where the granule cannot be read (R281, R282). -/
def hdrRead (a : Nat) (s : State) : Option State × State :=
  match gddrRead s a [] [] with
  | (some f, t) => (some (flipBits t a f), t)
  | (none, t) => (none, t)

/-- A word of a ring's header is merged into its granule (R283). -/
def hdrWrite (a : Nat) (v : Word) (s : State) : State := (gddrWrite s a (wordBytes v) [] []).2

/-- Adds entries skipped to LOST, in the header `v` as it reads and in HST_RSTAT. -/
def addLost (h r a n : Nat) (v s : State) : State :=
  incRegF (hdrWrite (a + 8) (memWord v (a + 8) + BitVec.ofNat 32 n) s) (.hstRstat h r) Fd.hstRstatLost n

/-- A device-side write advanced an index: a notice is due where NMODE is 1. -/
def ringNotice (h r : Nat) (s : State) : State :=
  if ringF s h r Fd.hstRingNmode = 1 then modHost s h (fun p => { p with due := NSet.add p.due (ringF s h r Fd.hstRingVec) }) else s

/-- An accepted outbound PROD (R368, R372): overflow moves CONS; a gallery that is down loses every entry. `v` is the header as it
reads. -/
def applyProd (h r a : Nat) (p : Word) (v s : State) : State :=
  let prod := memWord v a
  let cons := memWord v (a + 4)
  if 2 ^ 31 < ahead prod p then incRegF s (.hstRstat h r) Fd.hstRstatPerr 1
  else
    let t := hdrWrite a p s
    let t1 := if p = prod then t else ringNotice h r t
    let keep := if galleryUp s h then ringN s h r else 0
    if keep < ahead cons p then addLost h r a (ahead cons p - keep) v (hdrWrite (a + 4) (p - BitVec.ofNat 32 keep) t1) else t1

/-- An inbound CONS (R369): a value ahead of PROD is ignored. -/
def applyCons (h r a : Nat) (x : Word) (v s : State) : State :=
  let n := ahead (memWord v a) x
  if 0 < n ∧ n < 2 ^ 31 then incRegF s (.hstRstat h r) Fd.hstRstatPerr 1
  else if x = memWord v (a + 4) then s else ringNotice h r (hdrWrite (a + 4) x s)

/-- Whether an unacknowledged far store of a core lies in a ring's entries. -/
def entryPending (s : State) (core h r : Nat) : Bool :=
  match ringArea s h r with
  | some (lo, hi) => (s.cores.get core {}).unack.any (fun st => decide (lo ≤ st.addr) && decide (st.addr < hi))
  | none => false

/-- The engine applies the oldest landed index write of a ring, once the core's earlier entry stores are written. -/
def doRingProdApply (h : Fin 4) (r : Fin 16) (s : State) : State :=
  match (getHost s h.val).idx.find? (fun x => x.1 == r.val) with
  | none => s
  | some (_, core, v) =>
    if entryPending s core h.val r.val then s else
    let t := modHost s h.val (fun p => { p with idx := p.idx.eraseP (fun x => x.1 == r.val) })
    match ringHeader t h.val r.val with
    | none => t
    | some a =>
      match hdrRead a t with
      | (some u, t1) => if ringIn t1 h.val r.val then applyCons h.val r.val a v u t1 else applyProd h.val r.val a v u t1
      | (none, t1) => t1

/-- A doorbell value meets its ring (R368, R369); where the header cannot be read the write is discarded and counted (R283). -/
def ringBell (h r : Nat) (v : Word) (s : State) : State :=
  match ringHeader s h r with
  | none => s
  | some a =>
    match hdrRead a s with
    | (none, t) => incRegF t (.hstErr h) Fd.hstErrMergedrop 1
    | (some u, t) =>
      let prod := memWord u a
      let cons := memWord u (a + 4)
      let take (w : Nat) : State := hdrWrite (a + w) v (modHost t h (fun p => { p with db := SMap.set p.db r v 0 }))
      let bad := incRegF t (.hstRstat h r) Fd.hstRstatDerr 1
      if ringIn s h r then
        if ahead prod v < 2 ^ 31 ∧ ahead cons prod + ahead prod v ≤ ringN s h r then take 0 else bad
      else if ahead cons v ≤ ahead cons prod then take 4
      else if 2 ^ 31 ≤ ahead cons v then t
      else bad

/-- What the host sets in its configuration header and MSI-X table; pending messages that are no longer masked go out. -/
def setCfg (h : Nat) (cfg : HostCfg) (s : State) : State :=
  let masked := (List.range 16).filter (fun v => cfg.mask.getLsbD v)
  let go := (getHost s h).pba.filter (fun v => !masked.contains v)
  let on := cfg.msix && cfg.bme && !cfg.d3
  let t := modHost s h (fun p => { p with
    msix := cfg.msix, bme := cfg.bme, d3 := cfg.d3, mask := masked, pba := if on then p.pba.filter (masked.contains ·) else p.pba })
  go.foldl (fun u v => sendVec h v u) t

/-- A word of the doorbell page as the host reads it (R365): HSTATUS, the last accepted doorbell values, the MSI-X table and pending
bits; a write-only word and one the spec gives no meaning read 0. -/
def pageWord (s : State) (h a : Nat) : Word :=
  let p := getHost s h
  if a = 0 then BitVec.ofNat 32 (hstatus s h)
  else if 0x100 ≤ a ∧ a < 0x140 then p.db.get ((a - 0x100) / 4) 0
  else if 0x8000 ≤ a ∧ a < 0x8100 then
    if (a - 0x8000) / 4 % 4 = 3 then (if p.mask.contains ((a - 0x8000) / 16) then 1 else 0) else p.table.get ((a - 0x8000) / 4) 0
  else if a = 0x9000 then BitVec.ofNat 32 (p.pba.foldl (fun n v => n + 2 ^ v) 0)
  else 0

/-- A write of a word of the doorbell page other than a doorbell or RELEASE (R365): an MSI-X table entry takes it, and one that is
unmasked sends its pending message; a write to a read-only word is discarded. -/
def pageStore (h a : Nat) (v : Word) (s : State) : State :=
  let p := getHost s h
  if a < 0x8000 ∨ 0x8100 ≤ a then s
  else if (a - 0x8000) / 4 % 4 = 3 then
    let n := (a - 0x8000) / 16
    let mask := if v.getLsbD 0 then NSet.add p.mask n else p.mask.filter (· != n)
    let m : BitVec 16 := BitVec.ofNat 16 (mask.foldl (fun x i => x + 2 ^ i) 0)
    setCfg h ⟨p.msix, m, p.bme, p.d3⟩ s
  else modHost s h (fun p => { p with table := SMap.set p.table ((a - 0x8000) / 4) v 0 })

/-- An access to the doorbell page or to the configuration header has its effect. -/
def pageServe (h : Nat) (op : PageOp) (v : Word) (s : State) : State :=
  match op with
  | .bell r => ringBell h r.val v s
  | .read off n => modHost s h (fun p => { p with
      rd := (List.range n).map (fun i => BitVec.ofNat 8 ((pageWord s h ((off + i) / 4 * 4)).toNat / 256 ^ ((off + i) % 4))), ep := false })
  | .write off => pageStore h off v s
  | .headerRead off n => modHost s h (fun p => { p with rd := (List.range n).map (fun i => configByte s h (off + i)), ep := false })
  | .config cfg => setCfg h cfg s
  | .bar i => modHost s h (fun p => { p with bars := SMap.set p.bars i.val v 0 })

/-- Whether an access is a configuration request, which the function takes in D3hot too and which no credit of memory space holds. -/
def isConfig : PageOp → Bool
  | .headerRead _ _ | .config _ | .bar _ => true
  | _ => false

/-- A host's access to the doorbell page (R365): uncharged; a doorbell comes after the port's earlier posted writes (R368, R369), and an
access that finds the credits withheld waits for the next edge (R373). The configuration header answers while the link is up. DEDUCED:
assumption 33. -/
def doDoorbell (h : Fin 4) (op : PageOp) (v : Word) (s : State) : State :=
  if isConfig op then (if galleryUp s h.val then pageServe h.val op v s else s)
  else if !hostOpen s h.val || blockStopped s (115 + h.val) then s
  else if withheld s h.val then holdReq (.page h.val op v) s else pageServe h.val op v s

/-! ### BAR2 and the staging region -/

def opLen : HostOp → Nat
  | .read n => n
  | .write bs => bs.length

/-- Data bytes with the flips of a miscorrection. -/
def flipBytes (flips : List Nat) (a : Nat) (bs : List Byte) : List Byte :=
  bs.mapIdx (fun i b => flips.foldl (fun (x : Byte) f => if f / 8 = a % 32 + i then x ^^^ (1#8 <<< (f % 8)) else x) b)

/-- Bytes read from an address: those of words 3–7 of the header of a ring in use read 0 (R367). -/
def hideHeader (s : State) (a : Nat) (bs : List Byte) : List Byte :=
  bs.mapIdx (fun i b => match headerWord s (a + i) with | some (_, _, k) => if 3 ≤ k then 0 else b | none => b)

/-- One part of a host access: the bytes read, whether they were good, and the state. -/
def hostPiece (h : Nat) (wr : Bool) (bs : List Byte) (a n : Nat) (err err2 : List Nat) (s : State) : List Byte × Bool × State :=
  if !galleryAddr s h a wr then (List.replicate n 0, true, s)
  else if wr then
    match gddrWrite s a bs err err2 with
    | (true, t) => ([], true, t)
    | (false, t) => ([], true, incRegF t (.hstErr h) Fd.hstErrMergedrop 1)
  else
    match gddrRead s a err err2 with
    | (some f, t) => (hideHeader s a (flipBytes f a (memBytes t a n)), true, t)
    | (none, t) => (hideHeader s a (memBytes t a n), false, t)

/-- The parts of a host access in order; `i` counts them, and the patterns fall on part `g`. -/
def hostPieces (h : Nat) (wr : Bool) (g : Nat) (err err2 : List Nat) :
    Nat → List (Nat × Nat) → List Byte → List Byte → Bool → State → List Byte × Bool × State
  | _, [], _, acc, ok, s => (acc, ok, s)
  | i, (a, n) :: l, bs, acc, ok, s =>
    let (r, k, t) := hostPiece h wr (bs.take n) a n (if i = g then err else []) (if i = g then err2 else []) s
    hostPieces h wr g err err2 (i + 1) l (bs.drop n) (acc ++ r) (ok && k) t

/-- Charges the granules of an access that lie in the gallery's reach to its activity, or marks the activity held. -/
def chargeActs (h act : Nat) (wr : Bool) (ps : List (Nat × Nat)) (s : State) : Bool × State :=
  ps.foldl (fun x p => if x.1 && galleryAddr x.2 h p.1 wr then actCharge act p.1 wr x.2 else x) (true, s)

/-- Charges a host access (R255): its 64-byte units to HBYTES, its granules in reach to the gallery's activity. When either
folio does not cover it, nothing is charged (R248). -/
def hostCharge (h : Nat) (wr : Bool) (ps : List (Nat × Nat)) (len : Nat) (s : State) : Bool × State :=
  let units := (len + 63) / 64
  if running s && decide (regLatF s (.bdgGal h) Fd.bdgGalHbytes < s.budget.gal.get h 0 + units) then (false, s)
  else
    let r := chargeActs h (regLatF s (.bdgGal h) Fd.bdgGalAct) wr ps s
    if !r.1 then (false, { s with budget := { s.budget with heldAct := r.2.budget.heldAct } })
    else if running s then (true, { r.2 with budget := { r.2.budget with gal := bumpMap r.2.budget.gal h units } })
    else r

/-- A host access that its folios do not cover waits, and the port's credits are withheld to the next edge (R248, R256). -/
def orHold (h : Nat) (q : HeldReq) (r : Bool × State) : State :=
  if r.1 then r.2
  else holdReq q { r.2 with budget := { r.2.budget with heldGal := NSet.add r.2.budget.heldGal h } }

/-- A checked host access to the data space from an address, charged as one of `len` bytes (R255, R366); nothing happens when it is
not charged. -/
def hostAccess (h a len : Nat) (op : HostOp) (g : Nat) (err err2 : List Nat) (s : State) : Bool × State :=
  let wr := match op with | .write _ => true | .read _ => false
  let bs := match op with | .write l => l | .read _ => []
  let ps := pieces (opLen op + 1) a (opLen op)
  match hostCharge h wr ps len s with
  | (false, t) => (false, t)
  | (true, t) =>
    let (rd, ok, u) := hostPieces h wr g err err2 0 ps bs [] true t
    let u1 := if ps.all (fun p => galleryAddr t h p.1 wr) then u else incRegF u (.hstErr h) Fd.hstErrWindrop 1
    (true, if wr then u1 else modHost u1 h (fun p => { p with rd := rd, ep := !ok, aer := p.aer || !ok }))

/-- A host read that completes with data 0, or a host write that is discarded. -/
def hostNothing (h : Nat) (op : HostOp) (s : State) : State :=
  match op with
  | .read n => modHost s h (fun p => { p with rd := List.replicate n 0, ep := false })
  | .write _ => s

/-- A staging access that has no effect: a write counts in STGDROP, a read gives 0. -/
def stgDrop (h : Nat) (op : HostOp) (s : State) : State :=
  match op with
  | .write _ => incRegF s (.hstErr h) Fd.hstErrStgdrop 1
  | .read _ => hostNothing h op s

/-- Whether a range lies in the source of a replacement, which is frozen from acceptance to its end (R476): the staging region it was
staged in. -/
def inFrozen (s : State) (a n : Nat) : Bool :=
  s.live.world.isSome && s.live.slot == 0 && decide (a < s.live.base + 0x2000000) && decide (s.live.base < a + n)

/-- A BAR2 access that its port's credits admit (R366, R367): writes to the ring headers are discarded and counted. DEDUCED:
assumption 33. -/
def bar2Serve (h off : Nat) (op : HostOp) (g : Nat) (err err2 : List Nat) (s : State) : Bool × State :=
  match windowBase s h with
  | none =>
    let r := hostCharge h false [] (opLen op) s
    (r.1, if r.1 then hostNothing h op (incRegF r.2 (.hstErr h) Fd.hstErrWindrop 1) else r.2)
  | some b =>
    match op with
    | .read n => hostAccess h (b + off) n op g err err2 s
    | .write bs =>
      if inFrozen s (b + off) bs.length then (true, stgDrop h op s)
      else if 512 ≤ off then hostAccess h (b + off) bs.length op g err err2 s
      else
        let rest := bs.drop (512 - off)
        let head := pieces (bs.length + 1) (b + off) (min bs.length (512 - off))
        let lost := if head.all (fun p => galleryAddr s h p.1 true) then Fd.hstErrHdrdrop else Fd.hstErrWindrop
        let r := if rest.isEmpty then hostCharge h true [] bs.length s else hostAccess h (b + 512) bs.length (.write rest) g err err2 s
        (r.1, if r.1 then incRegF r.2 (.hstErr h) lost 1 else r.2)

/-- BAR2 (R256, R366, R367). -/
def doBar2Access (h : Fin 4) (off : Nat) (op : HostOp) (g : Nat) (err err2 : List Nat) (s : State) : State :=
  if !hostOpen s h.val || blockStopped s (115 + h.val) then s else
  let q : HeldReq := .host h.val 2 off op g err err2
  if withheld s h.val then holdReq q s else orHold h.val q (bar2Serve h.val off op g err err2 s)

/-- The region that a lead port's staging register names, while it is open (R364): first address and address after the last. -/
def stagingRange (s : State) (h : Nat) : Option (Nat × Nat) :=
  if isLead s h && regF s (.hstStg h) Fd.hstStgOpen == 1 then some (regionRange s (regF s (.hstStg h) Fd.hstStgRgn)) else none

/-- The staging region of the lead port, while it is open (R364): its first address. -/
def stagingBase (s : State) (h : Nat) : Option Nat :=
  (stagingRange s h).map (·.1)

/-- The lead port, if there is one. -/
def leadPort (s : State) : Option Nat := (List.range 4).find? (fun h => isLead s h)

/-- One part of a staging access to the archives: under the binder code (R277), uncharged (R364). A whole granule replaces it and
clears its poison; a narrower write that meets an uncorrectable granule is discarded and counted (R283). -/
def archPiece (h : Nat) (wr : Bool) (bs : List Byte) (a n : Nat) (err : List Nat) (s : State) : List Byte × Bool × State :=
  if wr then
    if n = 32 then ([], true, setBytes (setUpsets { s with poison := s.poison.filter (· != a) } a []) a bs)
    else
      match mergeBytes s a bs err (some .prg) with
      | (true, t) => ([], true, t)
      | (false, t) => ([], true, incRegF t (.hstErr h) Fd.hstErrMergedrop 1)
  else
    match readGranule s a err (some .prg) with
    | (some f, t) => (flipBytes f a (memBytes t a n), true, t)
    | (none, t) => (memBytes t a n, false, t)

/-- The parts of a staging access to the archives in order; `i` counts them, and the pattern falls on part `g`. -/
def archPieces (h : Nat) (wr : Bool) (g : Nat) (err : List Nat) :
    Nat → List (Nat × Nat) → List Byte → List Byte → Bool → State → List Byte × Bool × State
  | _, [], _, acc, ok, s => (acc, ok, s)
  | i, (a, n) :: l, bs, acc, ok, s =>
    let (r, k, t) := archPiece h wr (bs.take n) a n (if i = g then err else []) s
    archPieces h wr g err (i + 1) l (bs.drop n) (acc ++ r) (ok && k) t

/-- An access to the open staging region, or to the bytes of the window that the region shares: within the region's limit, and not a
write to a frozen source (R364, R476). -/
def stagedAccess (h a hi : Nat) (op : HostOp) (g : Nat) (err err2 : List Nat) (s : State) : Bool × State :=
  let wr := match op with | .write _ => true | .read _ => false
  if hi < a + opLen op || (wr && inFrozen s a (opLen op)) then (true, stgDrop h op s)
  else hostAccess h a (opLen op) op g err err2 s

/-- BAR0 (R364): the archives of quires 0–7, once quire 7 is ready (R377), before a release; the staged bytes, without writes, from an
accepted release until the curators run; the open region afterwards. DEDUCED: assumption 33. -/
def doBar0Access (h : Fin 4) (off : Nat) (op : HostOp) (g : Nat) (err err2 : List Nat) (s : State) : State :=
  if !hostOpen s h.val || !isLead s h.val || blockStopped s (115 + h.val) then s else
  let wr := match op with | .write _ => true | .read _ => false
  let bs := match op with | .write l => l | .read _ => []
  let taken := (bootStage s == 1 || bootStage s == 2) && regF s .truBoot Fd.truBootSource == 0 && regF s .truBoot Fd.truBootFastwake == 0
  if bootStage s = 3 then
    match stagingRange s h.val with
    | none => stgDrop h.val op s
    | some (b, hi) =>
      let q : HeldReq := .host h.val 0 off op g err err2
      if withheld s h.val then holdReq q s else orHold h.val q (stagedAccess h.val (b + off) hi op g err err2 s)
  else if !(getQuire s 7).raised || (wr && taken) then stgDrop h.val op s
  else
    let (rd, ok, t) := archPieces h.val wr g err 0 (pieces (opLen op + 1) (archBase 0 + off) (opLen op)) bs [] true s
    if wr then t else modHost t h.val (fun p => { p with rd := rd, ep := !ok, aer := p.aer || !ok })

/-- A held access of a host is made again at a tick edge: behind one of its port that is held again it waits on, and otherwise it meets
the new tick's folios, which an uncharged one does not need (R248, R256). -/
def hostResume (q : HeldReq) (s : State) : State :=
  match q with
  | .host h bar off op g err err2 =>
    if behind s h then holdReq q s
    else if bar = 2 then orHold h q (bar2Serve h off op g err err2 s)
    else match stagingRange s h with
      | none => stgDrop h op s
      | some (b, hi) => orHold h q (stagedAccess h (b + off) hi op g err err2 s)
  | .page h op v => if behind s h then holdReq q s else pageServe h op v s
  | _ => s

/-! ### Links (R372) -/

/-- A port's data link goes down, or its PERST is asserted: every request in flight is dropped. -/
def doHostLinkDown (h : Fin 4) (s : State) : State :=
  if !galleryUp s h.val then s else
  let s1 := { s with budget := { s.budget with held := s.budget.held.filter (fun q => q.port != some h.val) } }
  let t := setRegF (setRegF s1 (.hstStat h.val) Fd.hstStatLink 0) (.hstStat h.val) Fd.hstStatDown 1
  let t1 := setRegF (setRegF t (.hstStat h.val) Fd.hstStatSpeed 0) (.hstStat h.val) Fd.hstStatWidth 0
  record (incRegF t1 (.hstStat h.val) Fd.hstStatLinkdowns 1) 22 (hostWorld s h.val) h.val 0

/-- A port's data link comes up, with what the host has set in its configuration space; pending messages that are no longer
masked go out. -/
def doHostLinkUp (h : Fin 4) (speed : Fin 5) (width : Fin 3) (cfg : HostCfg) (s : State) : State :=
  if (hostWorld s h.val).isNone || galleryUp s h.val || !s.power.up || regF s .kprClkStat Fd.kprClkStatSdsHst == 0 then s else
  let t := setRegF (setRegF s (.hstStat h.val) Fd.hstStatLink 1) (.hstStat h.val) Fd.hstStatDown 0
  let t1 := setRegF (setRegF t (.hstStat h.val) Fd.hstStatSpeed (speed.val + 1)) (.hstStat h.val) Fd.hstStatWidth (2 ^ width.val)
  setCfg h.val cfg t1

/-! ### Registers -/

/-- Whether a range lies within regions of a gallery's world (R366). -/
def rangeInWorld (s : State) (h lo hi : Nat) : Bool :=
  (List.range ((hi + 65535) / 65536 - lo / 65536)).all (fun i => galleryAddr s h (max lo (65536 * (lo / 65536 + i))) false)

/-- A write of HST_WINh: refused when it places a window that does not lie within the gallery's world's regions. DEDUCED: assumption 33. -/
def winWrite (x : Writer) (h : Nat) (v : Word) (s : State) : State :=
  let b := 2 ^ 26 * Fd.hstWinBase.get v
  if owns x (regOwner s (.hstWin h)) && Fd.hstWinPlaced.get v == 1 && !rangeInWorld s h b (b + 2 ^ 26) then
    setRegF s (.hstErr2 h) Fd.hstErr2Winref 1
  else plainWrite x (.hstWin h) v s

/-- A write of HST_RINGh_r (R367): fields other than EN are ignored while EN is 1; refused when the entry area does not
end within the window, or when the ring is put in use outside the gallery's world's regions. DEDUCED: assumption 33. -/
def ringWrite (x : Writer) (h r : Nat) (v : Word) (s : State) : State :=
  let old := reg s (.hstRing h r)
  if !owns x (regOwner s (.hstRing h r)) then plainWrite x (.hstRing h r) v s else
  let n := if Fd.hstRingEn.get old = 1 then Fd.hstRingEn.putN old (Fd.hstRingEn.get v) else v
  let e := keepValid (.hstRing h r) (regEff s (.hstRing h r)) n
  let lo := 4096 * Fd.hstRingBase.get e
  let size := 2 ^ (Fd.hstRingLogn.get e + Fd.hstRingLogs.get e + 6)
  let bad := decide (2 ^ 26 < lo + size) ||
    (Fd.hstRingEn.get n == 1 && Fd.hstRingEn.get old == 0 &&
      (regF s (.hstWin h) Fd.hstWinPlaced == 0 ||
        let b := 2 ^ 26 * regF s (.hstWin h) Fd.hstWinBase
        !galleryAddr s h (b + 32 * r) true || !rangeInWorld s h (b + lo) (b + lo + size)))
  if bad then setRegF s (.hstErr2 h) Fd.hstErr2Winref 1 else plainWrite x (.hstRing h r) n s

/-- A write of HST_STGh (R364): refused when it opens a region that is no programme data region of 32 MiB. -/
def stgWrite (x : Writer) (h : Nat) (v : Word) (s : State) : State :=
  if !isLead s h then s
  else if !owns x (.world .prg) then plainWrite x (.hstStg h) v s
  else
    let r := Fd.hstStgRgn.get v
    let lo := 65536 * regLatF s (.memRgnBase r) Fd.memRgnBaseAddr
    let hi := 65536 * regLatF s (.memRgnLim r) Fd.memRgnLimAddr
    let ok := regLatF s (.memRgnAttr r) Fd.memRgnAttrType == 1 && regionWorld s r == .prg && decide (lo + 0x2000000 ≤ hi)
    if Fd.hstStgOpen.get v = 1 ∧ !ok then setRegF s (.hstErr2 h) Fd.hstErr2Stgref 1 else plainWrite x (.hstStg h) v s

/-- A write of HST_NOTEh sends one message at once (R371). -/
def noteWrite (x : Writer) (h : Nat) (v : Word) (s : State) : State :=
  let t := plainWrite x (.hstNote h) v s
  if owns x (regOwner s (.hstNote h)) && galleryUp s h then sendVec h (Fd.hstNoteVec.get v) t else t

def execBar0Access (h : Fin 4) (off : Nat) (op : HostOp) (g : Nat) (err err2 : List Nat) (s : State) : Out :=
  .next (doBar0Access h off op g err err2 s)
def execBar2Access (h : Fin 4) (off : Nat) (op : HostOp) (g : Nat) (err err2 : List Nat) (s : State) : Out :=
  .next (doBar2Access h off op g err err2 s)
def execDoorbell (h : Fin 4) (op : PageOp) (v : Word) (s : State) : Out := .next (doDoorbell h op v s)
def execRingProdApply (h : Fin 4) (r : Fin 16) (s : State) : Out := .next (doRingProdApply h r s)
def execNote (x : Writer) (h : Fin 4) (v : Word) (s : State) : Out := .next (withAccess x (Creg.addr (.hstNote h.val)) (some v) (noteWrite x h.val v) s)
def execHostLinkDown (h : Fin 4) (s : State) : Out := .next (doHostLinkDown h s)
def execHostLinkUp (h : Fin 4) (speed : Fin 5) (width : Fin 3) (cfg : HostCfg) (s : State) : Out :=
  .next (doHostLinkUp h speed width cfg s)
def execStgWrite (x : Writer) (h : Fin 4) (v : Word) (s : State) : Out := .next (withAccess x (Creg.addr (.hstStg h.val)) (some v) (stgWrite x h.val v) s)
def execRingConfigWrite (x : Writer) (h : Fin 4) (r : Option (Fin 16)) (v : Word) (s : State) : Out :=
  .next (withAccess x (Creg.addr (match r with | some r => .hstRing h.val r.val | none => .hstWin h.val)) (some v)
    (match r with | some r => ringWrite x h.val r.val v | none => winWrite x h.val v) s)

end Sys2Proof.Machine
end

