-- ==== Sys2Proof/Machine/WatchOps.lean ====
section
/-! DEFINITION. Watchdogs (R461–R474): periods, check-ins, expiry, the disable key, and the KPR_WDG registers. -/

namespace Sys2Proof.Machine

def getWatch (s : State) (w : Nat) : Watch := s.watch.get w {}
def modWatch (s : State) (w : Nat) (f : Watch → Watch) : State := { s with watch := s.watch.set w (f (getWatch s w)) {} }

/-- STATE of a watchdog: 0 disabled, 1 running, 2 EXPIRED, 3 stopped in sleep. -/
def wdgState (s : State) (w : Nat) : Nat := regF s (.kprWdgCtl w) Fd.kprWdgCtlState

/-- A new period: T and DONE are 0, and OPEN, CLOSE and REQ take the values written (R466). -/
def wdgPeriod (w : Nat) (s : State) : State :=
  let t := setRegF (setRegF s (.kprWdgT w) Fd.kprWdgTT 0) (.kprWdgStat w) Fd.kprWdgStatDone 0
  modWatch t w (fun x => { x with openNow := reg s (.kprWdgOpen w), closeNow := reg s (.kprWdgClose w), reqNow := reg s (.kprWdgReq w) })

/-- A watchdog starts a fresh period if it is enabled (R463). -/
def wdgStart (w : Nat) (s : State) : State :=
  if regF s (.kprWdgCtl w) Fd.kprWdgCtlEn = 1 ∧ wdgState s w ≠ 2 then wdgPeriod w (setRegF s (.kprWdgCtl w) Fd.kprWdgCtlState 1) else s

/-- A running watchdog stops for sleep and discards its period (R472). -/
def wdgStop (w : Nat) (s : State) : State :=
  if wdgState s w = 1 then setRegF (wdgPeriod w s) (.kprWdgCtl w) Fd.kprWdgCtlState 3 else s

/-- Expiry (R469): the state, the cause, the non-maskable event and the record. -/
def wdgExpire (w cause : Nat) (s : State) : State :=
  let t := setRegF s (.kprWdgCtl w) Fd.kprWdgCtlState 2
  let t1 := setRegF (setRegF t (.kprWdgStat w) Fd.kprWdgStatCause cause) (.kprWdgStat w) Fd.kprWdgStatExpired 1
  if w < 2 then setNme (record t1 23 (some (World.ofNum w)) w 0) (World.ofNum w) 3
  else modCore (record t1 23 none w 0) .keeper (fun k => { k with nmePend := true })

/-- The bits of a set that stand in a mask, one by one. -/
def bitsIn (v : Nat) : List Nat := (List.range 16).filter (fun k => v / 2 ^ k % 2 == 1)

/-- A write of KPR_WDG_CHKw when the count stands at `t` (R465–R467). DESIGN CHOICE: assumption 43. -/
def checkIn (x : Writer) (w : Nat) (v : Word) (t : Word) (s : State) : State :=
  let s1 := modWatch (plainWrite x (.kprWdgChk w) v s) w (fun y => { y with key := 0 })
  if !owns x (regOwner s (.kprWdgChk w)) ∨ wdgState s w ≠ 1 then s1 else
  let p := getWatch s w
  if p.closeNow.toNat < t.toNat then wdgExpire w 2 s1 else
  let done := regF s (.kprWdgStat w) Fd.kprWdgStatDone
  let ks := bitsIn (v.toNat % 65536)
  let stray := ks.filter (fun k => !p.reqNow.getLsbD k)
  let dup := ks.filter (fun k => p.reqNow.getLsbD k && done / 2 ^ k % 2 == 1)
  let new := ks.filter (fun k => p.reqNow.getLsbD k && done / 2 ^ k % 2 == 0)
  let s2 := incRegF (incRegF s1 (.kprWdgDup w) Fd.kprWdgDupDup dup.length) (.kprWdgDup w) Fd.kprWdgDupStray stray.length
  let s3 := setReg s2 (.kprWdgT w) t
  if !new.isEmpty ∧ t.toNat < p.openNow.toNat then wdgExpire w 1 s3
  else
    let done1 := new.foldl (fun d k => d + 2 ^ k) done
    let s4 := setRegF s3 (.kprWdgStat w) Fd.kprWdgStatDone done1
    if (bitsIn (p.reqNow.toNat % 65536)).all (fun k => done1 / 2 ^ k % 2 == 1) then wdgPeriod w s4 else s4

/-- A write of a watchdog's registers that is no step of its disable sequence breaks it, whoever makes it (R471). -/
def breakKey (w : Nat) (s : State) : State := modWatch s w (fun y => { y with key := 0 })

/-- A write of KPR_WDG_KEYw: the first two steps of the disable sequence (R471). -/
def wdgKey (x : Writer) (w : Nat) (v : Word) (s : State) : State :=
  let t := plainWrite x (.kprWdgKey w) v s
  if !owns x (regOwner s (.kprWdgKey w)) then breakKey w t else
  let k := Fd.kprWdgKeyKey.get v
  modWatch t w (fun y => { y with key := if k = 0x5A17 then 1 else if k = 0xC3E8 ∧ y.key = 1 then 2 else 0 })

/-- A write of KPR_WDG_CTLw: disable, enable, lock (R471). DESIGN CHOICE: assumption 43. -/
def wdgCtl (x : Writer) (w : Nat) (v : Word) (s : State) : State :=
  if !owns x (regOwner s (.kprWdgCtl w)) then breakKey w (plainWrite x (.kprWdgCtl w) v s) else
  let keyed := (getWatch s w).key = 2
  let t := modWatch s w (fun y => { y with key := 0 })
  let lock (u : State) : State := if Fd.kprWdgCtlLock.get v = 1 then setRegF u (.kprWdgCtl w) Fd.kprWdgCtlLock 1 else u
  if Fd.kprWdgCtlDis.get v = 1 ∧ keyed then
    if regF s (.kprWdgCtl w) Fd.kprWdgCtlLock = 1 ∨ wdgState s w = 2 then lock (setRegF t (.kprWdgStat w) Fd.kprWdgStatKeyerr 1)
    else lock (setRegF (setRegF t (.kprWdgCtl w) Fd.kprWdgCtlEn 0) (.kprWdgCtl w) Fd.kprWdgCtlState 0)
  else if Fd.kprWdgCtlEn.get v = 1 ∧ regF s (.kprWdgCtl w) Fd.kprWdgCtlEn = 0 then
    lock (wdgStart w (setRegF t (.kprWdgCtl w) Fd.kprWdgCtlEn 1))
  else lock t

/-- A write of OPEN, CLOSE or REQ (R468): refused with CFGERR, or taken at the next period start. -/
def wdgConfig (x : Writer) (w : Nat) (r : Creg) (v : Word) (s : State) : State :=
  if !owns x (regOwner s r) then breakKey w (plainWrite x r v s) else
  let t := modWatch s w (fun y => { y with key := 0 })
  let o := if r = .kprWdgOpen w then v else reg s (.kprWdgOpen w)
  let c := if r = .kprWdgClose w then v else reg s (.kprWdgClose w)
  let bad := decide (c.toNat < o.toNat) || c == 0 || (r == .kprWdgReq w && Fd.kprWdgReqReq.get v == 0)
  if bad then setRegF t (.kprWdgStat w) Fd.kprWdgStatCfgerr 1 else plainWrite x r v t

/-- A write of any other register of a watchdog breaks its disable sequence. -/
def wdgOther (x : Writer) (w : Nat) (r : Creg) (v : Word) (s : State) : State :=
  breakKey w (plainWrite x r v s)

/-- Address in retained memory of a watchdog's reset counter (R470). -/
def wdgCount (w : Nat) : Nat := retBase + 0xEFF0 + 2 * w

/-- KPR_WDG_RCNT or RCNT2: the retained words that it mirrors (R470). -/
def rcntWord (s : State) (second : Bool) : Word :=
  if second then BitVec.ofNat 32 (memNat s (wdgCount 2) 2) else memWord s (wdgCount 0)

/-- A write of KPR_WDG_RCNT or RCNT2 stores into the retained words that the writer owns (R470). -/
def rcntWrite (x : Writer) (second : Bool) (v : Word) (s : State) : State :=
  let r : Creg := if second then .kprWdgRcnt2 else .kprWdgRcnt
  let t := setReg s r (rcntWord s second)
  let n := writeMerge t x r v
  let u := if second then setNat s (wdgCount 2) n.toNat 2 else setWord s (wdgCount 0) n
  if writeDenied t x r v then raisePriv u x r.addr else u

/-- The register that a configuration write of a watchdog names. -/
def wdgCreg (w : Nat) : WdgReg → Creg
  | .openR => .kprWdgOpen w
  | .closeR => .kprWdgClose w
  | .req => .kprWdgReq w

def execCheckIn (x : Writer) (w : Fin 3) (v t : Word) (s : State) : Out := .next (withAccess x (Creg.addr (.kprWdgChk w.val)) (some v) (checkIn x w.val v t) s)
def execWindowClose (w : Fin 3) (s : State) : Out := .next (if wdgState s w.val = 1 then wdgExpire w.val 2 s else s)
def execWdgKey (x : Writer) (w : Fin 3) (v : Word) (s : State) : Out := .next (withAccess x (Creg.addr (.kprWdgKey w.val)) (some v) (wdgKey x w.val v) s)
def execWdgDisable (x : Writer) (w : Fin 3) (s : State) : Out := .next (withAccess x (Creg.addr (.kprWdgCtl w.val)) (some 2) (wdgCtl x w.val 2) s)
def execWdgEnable (x : Writer) (w : Fin 3) (lock : Bool) (s : State) : Out :=
  .next (withAccess x (Creg.addr (.kprWdgCtl w.val)) (some (if lock then 5 else 1)) (wdgCtl x w.val (if lock then 5 else 1)) s)
def execWdgLock (x : Writer) (w : Fin 3) (s : State) : Out := .next (withAccess x (Creg.addr (.kprWdgCtl w.val)) (some 4) (wdgCtl x w.val 4) s)
def execWdgConfigWrite (x : Writer) (w : Fin 3) (r : WdgReg) (v : Word) (s : State) : Out :=
  .next (withAccess x (Creg.addr (wdgCreg w.val r)) (some v) (wdgConfig x w.val (wdgCreg w.val r) v) s)

end Sys2Proof.Machine
end

