-- ==== Sys2Proof/Machine/Boot.lean ====
section
/-! DEFINITION. Boot (R377–R384): staging, verification, key derivation, loading and the release of the curators; fuse
programming (R43–R47). -/

namespace Sys2Proof.Machine

/-! ### Keys (R385) -/

/-- A number as `n` bytes, most significant first. -/
def beBytes (n v : Nat) : List Byte := (leBytes n v).reverse

/-- A list cut or filled with 0 to a length. -/
def fixLen (n : Nat) (l : List Byte) : List Byte := (l ++ List.replicate n 0).take n

/-- The device secret (R48). -/
def deviceSecret (s : State) : List Byte := (List.range 32).map (fun i => fuse s (0x120 + i))

/-- The key-derivation function of R385: HMAC-SHA-256 in counter mode, `bits` bits of output. -/
def kdf (s : State) (label ctx : List Byte) (bits : Nat) : List Byte :=
  let block (i : Nat) : List Byte :=
    digestBytes (Config.hmac (deviceSecret s) (beBytes 4 (i + 1) ++ label ++ [0] ++ ctx ++ beBytes 4 bits))
  ((List.range ((bits + 255) / 256)).flatMap block).take (bits / 8)

/-- ASCII "ZNQ1088-". -/
def labelHead : List Byte := [0x5A, 0x4E, 0x51, 0x31, 0x30, 0x38, 0x38, 0x2D]
def labelSeal : List Byte := labelHead ++ [0x53, 0x45, 0x41, 0x4C]
def labelIdnt : List Byte := labelHead ++ [0x49, 0x44, 0x4E, 0x54]

/-- The effective debug level (R41): 3 when the TAP is disabled. -/
def debugLevel (s : State) : Nat := regF s .kprStrapCond Fd.kprStrapCondDbgEff

/-- The byte d of R385. -/
def debugByte (s : State) : Byte := if debugLevel s = 0 then 1 else 0

/-- The sealing key of a world, a purpose and an accession (R385). -/
def sealKey (s : State) (w : World) (purpose : Nat) (acc : Word) : BitVec 256 :=
  let ctx := [BitVec.ofNat 8 w.num, BitVec.ofNat 8 purpose, debugByte s, 0] ++ beBytes 4 acc.toNat
  BitVec.ofNat 256 (leNat (kdf s labelSeal ctx 256).reverse)

/-- The three seeds of the identity key. -/
def identSeeds (s : State) : List Byte := kdf s labelIdnt [0xFF, 0, 0, 0, 0, 0, 0, 0] 384
/-- The identity public key, 32 bytes. -/
def identPublic (s : State) : List Byte := fixLen 32 (Config.slhPublic false (identSeeds s))
/-- The per-boot public key. -/
def bootPublic (s : State) : List Byte := fixLen 32 (Config.slhPublic true s.trust.seed)
/-- Identity data, by its offset (R391). -/
def identData (s : State) (off n : Nat) : List Byte := (List.range n).map (fun i => fuse s (0x140 + off + i))

/-- COLDIG as bytes, from the registers. -/
def coldigBytes (s : State) : List Byte := (List.range 8).flatMap (fun k => wordBytes (reg s (.truColdig k)))

/-- The boot certificate (R392). -/
def makeCert (s : State) : List Byte :=
  let body := [0x5A#8, 0x4E, 0x42, 0x43] ++ leBytes 4 1 ++ identData s 0x10 16 ++ bootPublic s ++ coldigBytes s ++ List.replicate 8 0
  body ++ fixLen sigLen (Config.slhSign false (identSeeds s) body)

/-- Draws 32 random bytes. -/
def drawRandom (s : State) : List Byte × State := (digestBytes (Config.random s.free), { s with free := s.free + 1 })

/-- Key derivation of step 10 (R386, R391, R392): the vitrine opens after a verified boot; the identity key is derived at
debug level 1 or above; the per-boot key is made anew. -/
def deriveKeys (verified : Bool) (s : State) : State :=
  let (a, s1) := drawRandom s
  let (b, s2) := drawRandom s1
  let ident := verified && debugLevel s != 0
  let good := ident && digestBytes (Config.sha256 (identPublic s)) == identData s 0x20 32
  let t := { s2 with trust := { s2.trust with vitrine := verified, handles := [], seed := (a ++ b).take 48, ident := good } }
  let t1 := setRegF t .truBoot Fd.truBootIdbad (if ident && !good then 1 else 0)
  if good then { t1 with trust := { t1.trust with cert := makeCert t1 } } else { t1 with trust := { t1.trust with cert := [] } }

/-! ### Sources (R36, R378) -/

/-- Whether the boot source allows the flash image, and whether it allows a host push (VAL1). -/
def bootFlash (s : State) : Bool := decide (4 ≤ strap s 1)
def bootHost (s : State) : Bool := decide (strap s 1 < 4) || decide (8 ≤ strap s 1)

/-- Address of a flash slot: 1 A, 2 B. -/
def slotBaseAddr (n : Nat) : Nat := flashBase + (if n = 2 then 0x2000000 else 0)

def setStage (n : Nat) (s : State) : State := setRegF s .truBoot Fd.truBootStage n

/-- A bit of the BOOT byte of the option record in force (R49, R50). -/
def bootBit (s : State) (k : Nat) : Bool :=
  match s.flash.opt with
  | some r => (r.getD 9 0).getLsbD k
  | none => false

/-- No image comes from flash: the staging window opens to the lead host, or the boot halts (R378, R38). -/
def notTaken (s : State) : State :=
  let t := { s with trust := { s.trust with staging := 0 } }
  let t1 := setRegF t .truBoot Fd.truBootSource 0
  hostShow (setStage (if bootHost s && (leadPort s).isSome then 0 else 4) t1)

/-- The flash slot that the slot rule of the option bytes names (R49, R378). -/
def bootSlot (s : State) : Nat :=
  if bootBit s 0 && !bootBit s 1 then 1 else if !bootBit s 0 && bootBit s 1 then 2
  else if regF s .flsStat Fd.flsStatActive = 2 then 2 else 1

/-- The image step begins once the main die is up (R377 step 8). -/
def imageStep (s : State) : State :=
  if bootFlash s then { s with trust := { s.trust with staging := bootSlot s } }
  else notTaken s

/-- Verification starts on a number of staged bytes (R379). -/
def startVerify (src n : Nat) (s : State) : State :=
  let t := { s with trust := { s.trust with snap := fuseSnap s, total := n, staging := 0 } }
  hostShow (setStage 1 (setRegF t .truBoot Fd.truBootSource src))

/-- A flash image has been staged in the archives of quires 0–7. -/
def doImageStaged (s : State) : State :=
  let n := s.trust.staging
  if n = 0 ∨ !s.power.up ∨ bootStage s ≠ 0 ∨ !(getQuire s 7).raised then s
  else
    let (v, t) := drawUndef s (slotBaseAddr n) bundleMax
    let u := copyAny v (slotBaseAddr n) (archBase 0) (min bundleMax (bundleTotal v (slotBaseAddr n)))
    startVerify n bundleMax { u with flash := t.flash }

/-- The lead host's RELEASE during boot is accepted. -/
def releaseBoot (len : Nat) (s : State) : State := startVerify 0 len s

/-- The registers that show a taken bundle at an address, with its verification (R380, R381). -/
def showBundle (b : Nat) (code sec : Nat) (s : State) : State :=
  let t := setRegF (setRegF s .truBoot Fd.truBootVerified (if code = 0 then 1 else 0)) .truBoot Fd.truBootUnverified (if code = 0 then 0 else 1)
  let t1 := setRegF (setRegF (setRegF t .truBoot Fd.truBootFailcode code) .truBoot Fd.truBootFailsec sec) .truBoot Fd.truBootSlot (bundleSlot s b)
  let whole := digestBytes (Config.sha256 (memBytes s b s.trust.total))
  let tr := { t1.trust with slot := BitVec.ofNat 8 (bundleSlot s b), digest := whole }
  let t2 := [0, 1, 2].foldl (fun u k => setReg u (.truAcc k) (bundleAcc s b k)) { t1 with trust := tr }
  let dig := digestBytes (Config.sha256 (colBody s b (bundleNsec s b)))
  (List.range 8).foldl (fun u k => setReg u (.truColdig k) (BitVec.ofNat 32 (leNat ((dig.drop (4 * k)).take 4)))) t2

/-- GDDR7 training begins on the first channel (R377 step 11); each next one follows when it ends (R295). DESIGN CHOICE:
assumption 34. -/
def startTraining (s : State) : State := trainNext 0 s

/-- Whether a channel has not ended its cold training. -/
def training (s : State) : Bool := (List.range (memChans s)).any (fun c => chanState s c == 0 || chanState s c == 1)

/-- The writes to the activation log that waited for the verification of step 9 begin (R415). -/
def startLog (s : State) : State :=
  if s.flash.logOps.isEmpty then s
  else flashPush { ch := 0, reg := false, log := true, ops := s.flash.logOps, left := 0 } { s with flash := { s.flash with logOps := [] } }

/-- The verification of a boot ends (R375, R378, R380): rejected, not taken, or taken. A failure is recorded in FAILCODE and
FAILSEC, of an image that is not taken too. -/
def bootVerified (s0 : State) : State :=
  if bootStage s0 ≠ 1 then s0 else
  let b := archBase 0
  let s := (decodeAny (startLog s0) b s0.trust.total).1
  let src := regF s .truBoot Fd.truBootSource
  let (code, sec) := verifyBundle s s.trust.snap b
  if !wellFormed s b s.trust.total then
    if src = 0 then
      match leadPort s with
      | some h => hostShow (setStage 0 (modHost s h (fun p => { p with relErr := 5 })))
      | none => setStage 4 s
    else notTaken s
  else if src ≠ 0 ∧ code ≠ 0 ∧ bootBit s 3 then
    notTaken (setRegF (setRegF s .truBoot Fd.truBootFailcode code) .truBoot Fd.truBootFailsec sec)
  else
    let t := showBundle b code sec { s with trust := { s.trust with total := bundleTotal s b } }
    hostShow (setStage 2 (startTraining (deriveKeys (code == 0) t)))

/-! ### Loading and release (R383, R384) -/

/-- One quire's image slots (R383 steps 4 and 5). -/
def loadQuire (b q : Nat) (s : State) : State :=
  let t := (List.range 17).foldl (fun t k => writeSlot b q k (if k = 16 then 0 else k) t) s
  if (imageSection s b q 0).isNone then t else setRegF t (.qrcStat q) Fd.qrcStatImg 1

/-- The keeper core calls an address: the return address goes onto its stacks as by CALL (R210, R383). -/
def keeperCall (a : Word) (s : State) : State :=
  let k := getCore s .keeper
  if !k.on || k.halted then s else
  match pushRet .keeper k.pc s with
  | .ok t => modCore t .keeper (fun k => { k with pc := a, lbuf := none })
  | .error _ => s

/-- The keeper patch, if it is applied (R383 step 3): the keeper core calls it, from where it stands. DESIGN CHOICE: assumption 36. -/
def loadKeeper (b : Nat) (s : State) : State :=
  match (sections s b).find? (fun x => x.ty == 1) with
  | some x =>
    if regF s .truBoot Fd.truBootVerified = 1 then
      keeperCall 0x14000 (setRegF (copyChecked s (b + x.off) (localBase .keeper + 0x4000) x.len) .truBoot Fd.truBootKpatch 1)
    else s
  | none => s

/-- The constant tables (R383 step 6). -/
def loadConsts (b : Nat) (s : State) : State :=
  ((sections s b).filter (fun x => x.ty == 6)).foldl (fun t x => (claimConst b x t).2) s

/-- The curators are released, and their watchdogs' first periods begin (R384, R463). -/
def releaseCurators (b : Nat) (s : State) : State :=
  let t := startCurator .grd (bundleVec s b .grd) (startCurator .prg (bundleVec s b .prg) s)
  let t1 := (List.range 4).foldl (fun u h => setRegF u (.hstStg h) Fd.hstStgArch 0) t
  hostShow (setStage 3 (wdgStart 1 (wdgStart 0 t1)))

/-- The load of R383, once every channel has been trained: from the archives on the cold path, from the image reserve on the fast
path (R395). -/
def doImageLoad (s : State) : State :=
  if bootStage s ≠ 2 || training s then s else
  let t1 := if regF s .truBoot Fd.truBootFastwake = 1 then s else copyChecked s (archBase 0) gddrBase s.trust.total
  let b := gddrBase
  let t2 := loadKeeper b (loadCurator b .grd (loadCurator b .prg t1))
  let t3 := (List.range 64).foldl (fun t q => loadQuire b q t) t2
  releaseCurators b (loadConsts b t3)

/-! ### Fuses (R43, R47) -/

/-- A write of TRU_FUSECTL: GO starts the programming of a byte, or is refused. DESIGN CHOICE: assumption 36. -/
def fuseWrite (x : Writer) (v : Word) (s : State) : State :=
  if !owns x .kpr then plainWrite x .truFusectl v s
  else if regF s .truFusectl Fd.truFusectlBusy = 1 then s
  else
    let t := plainWrite x .truFusectl v s
    let a := Fd.truFusectlAddr.get v
    let locked := (fuse s 0x100).getLsbD 7
    if Fd.truFusectlGo.get v = 0 then t
    else if locked && !(a == 0x100 && Fd.truFusectlData.get v < 64) then setRegF t .truFusectl Fd.truFusectlRefused 1
    else setRegF t .truFusectl Fd.truFusectlBusy 1

/-- Programming ends: the bits given are set, and set bits stay set. -/
def doFuseProgramEnd (s : State) : State :=
  if regF s .truFusectl Fd.truFusectlBusy = 0 then s else
  let a := regF s .truFusectl Fd.truFusectlAddr
  let v := fuse s a ||| BitVec.ofNat 8 (regF s .truFusectl Fd.truFusectlData)
  setRegF { s with trust := { s.trust with fuses := SMap.set s.trust.fuses a v 0 } } .truFusectl Fd.truFusectlBusy 0

def execImageStaged (s : State) : Out := .next (doImageStaged s)
def execImageLoad (s : State) : Out := .next (doImageLoad s)
def execFuseProgram (x : Writer) (addr : BitVec 9) (data : Byte) (s : State) : Out :=
  .next (withAccess x (Creg.addr .truFusectl) (some (addr.setWidth 32 ||| (data.setWidth 32 <<< 16) ||| 0x1000000#32))
    (fuseWrite x (addr.setWidth 32 ||| (data.setWidth 32 <<< 16) ||| 0x1000000#32)) s)
def execFuseProgramEnd (s : State) : Out := .next (doFuseProgramEnd s)

end Sys2Proof.Machine
end

