-- ==== Sys2Proof/Machine/Budgets.lean ====
section
/-! DEFINITION. Activity folios and the worlds' shares (R252, R253, R508): the meaning of ACT_WRITE. -/

namespace Sys2Proof.Machine

/-- The world an activity identifier belongs to (R253). -/
def actWorld (a : Nat) : World := if a < 48 then .prg else .grd

/-- A folio write is refused: the bit and the address in the register of world `w`. -/
def budgetRefuse (s : State) (w : World) (f : Fld) (r : Creg) : State :=
  setRegF (raiseBit s (.bdgErr w.num) f) (.bdgErr w.num) Fd.bdgErrOffset (r.addr % 65536)

/-- A write of BDG_ACTa: refused when its world's sum would exceed its share, otherwise SUM follows. -/
def actFolioWrite (x : Writer) (a : Nat) (v : Word) (s : State) : State :=
  let w := actWorld a
  if !owns x (.world w) then plainWrite x (.bdgAct a) v s else
  let sum := regF s (.bdgSum w.num) Fd.bdgSumSum + Fd.bdgActGran.get v - regF s (.bdgAct a) Fd.bdgActGran
  if regF s (.bdgShare w.num) Fd.bdgShareShare < sum then budgetRefuse s w Fd.bdgErrOvercommit (.bdgAct a)
  else setRegF (plainWrite x (.bdgAct a) v s) (.bdgSum w.num) Fd.bdgSumSum sum

/-- A write of a register that names an activity: refused when the activity is of the other world. -/
def namedActWrite (x : Writer) (r : Creg) (f : Fld) (v : Word) (s : State) : State :=
  match regOwner s r with
  | .world w =>
    if owns x (.world w) && actWorld (f.get v) != w then budgetRefuse s w Fd.bdgErrWorld r else plainWrite x r v s
  | _ => plainWrite x r v s

/-- The register that an ACT_WRITE names. -/
def actCreg : ActReg → Creg
  | .act a => .bdgAct a.val
  | .tfol i => .bdgTfolC i.val
  | .gal h => .bdgGal h.val

/-- ACT_WRITE by its register. -/
def actWrite (x : Writer) (t : ActReg) (v : Word) (s : State) : State :=
  match t with
  | .act a => actFolioWrite x a.val v s
  | .tfol i => namedActWrite x (.bdgTfolC i.val) Fd.bdgTfolCAct v s
  | .gal h => namedActWrite x (.bdgGal h.val) Fd.bdgGalAct v s

/-- Every register of a gallery whose role is off reads 0 and takes no write (R255). -/
def execActWrite (x : Writer) (t : ActReg) (v : Word) (s : State) : Out := .next (withAccess x (actCreg t).addr (some v) (actWrite x t v) s)

end Sys2Proof.Machine
end

