-- ==== Sys2Proof/Machine/StagePorts.lean ====
section
/-! DEFINITION. Maldex ports and the jack links: frames (R313–R317), link states (R318, R319), redundant pairs (R320), the
control subchannel (R321, R322), transmit-map claims (R312), and the meanings of MALDEX_FRAME, LOSS_OF_SIGNAL, BLOCK_LOCK,
BLOCK_LOCK_LOSS, PORT_ENABLE_GROUP, EVQ_READ, MALDEX_SIGNAL_PRESENT, JACK_SETTLING_EXPIRY and JACK_LINK_WRITE. -/

namespace Sys2Proof.Machine

/-! ### Ports -/

def getMdx (s : State) (p : Nat) : MdxPort := s.stage.mdx.get p {}
def modMdx (s : State) (p : Nat) (f : MdxPort → MdxPort) : State :=
  { s with stage := { s.stage with mdx := s.stage.mdx.set p (f (getMdx s p)) {} } }

/-- The world that owns the ports of an egress group (R312). -/
def groupWorld (s : State) (g : Nat) : World := if groupEar s g then .grd else .prg

def paired (s : State) (p : Nat) : Bool := regF s (.mdxStat p) Fd.mdxStatPaired == 1
/-- The other member of a pair. -/
def partner (p : Nat) : Nat := if p % 2 = 0 then p + 1 else p - 1
/-- The port identity under which a port publishes and takes its transmit map (R320). -/
def identityOf (s : State) (p : Nat) : Nat := if paired s p then p / 2 * 2 else p
def mdxState (s : State) (p : Nat) : Nat := regF s (.mdxStat p) Fd.mdxStatState
/-- Whether a port, or its pair, counts as UP (R318, R320). -/
def pairUp (s : State) (p : Nat) : Bool := mdxState s p == 3 || (paired s p && mdxState s (partner p) == 3)

/-! ### Link states (R318) -/

def showPairup (p : Nat) (s : State) : State :=
  if paired s p then
    let u := if pairUp s p then 1 else 0
    setRegF (setRegF s (.mdxStat p) Fd.mdxStatPairup u) (.mdxStat (partner p)) Fd.mdxStatPairup u
  else s

/-- A port enters a state; leaving UP writes class 17, or 16 on a member of a pair. -/
def mdxEnter (p n : Nat) (s : State) : State :=
  let old := mdxState s p
  if old = n then s else
  let t := modMdx (setRegF s (.mdxStat p) Fd.mdxStatState n) p (fun m => { m with good := 0, empty := 0 })
  let t1 := if old = 3 then record t (if paired s p then 16 else 17) (some (groupWorld s (mdxGroup p))) p 0 else t
  showPairup p t1

/-- Signal as the port sees it: LOOP ignores loss of signal. -/
def mdxSignal (s : State) (p : Nat) : Bool :=
  regF s (.mdxCfg p) Fd.mdxCfgLoop == 1 || regF s (.mdxStat p) Fd.mdxStatLos == 0

/-- DOWN leaves for LOCK when EN has taken effect and signal is present. -/
def mdxBring (p : Nat) (s : State) : State :=
  if mdxState s p = 0 ∧ (getMdx s p).live ∧ mdxSignal s p then mdxEnter p 1 s else s

/-- A write of MDX_CFGp: EN = 0 forces DOWN; EN = 1 waits for its group (R319); LOOP ignores loss of signal. -/
def mdxCfgWrite (x : Writer) (p : Nat) (v : Word) (s : State) : State :=
  let t := plainWrite x (.mdxCfg p) v s
  if regF t (.mdxCfg p) Fd.mdxCfgEn = 0 then mdxEnter p 0 (modMdx t p (fun m => { m with live := false }))
  else if mdxSignal t p then mdxBring p t else mdxEnter p 0 t

/-- The lane's detector has reported absence for 1 µs. -/
def doLossOfSignal (p : Fin 32) (s : State) : State :=
  if regF s (.mdxStat p.val) Fd.mdxStatLos = 1 then s else
  let t := incRegF (setRegF s (.mdxStat p.val) Fd.mdxStatLos 1) (.mdxErr p.val) Fd.mdxErrLoscnt 1
  if mdxSignal t p.val then t else mdxEnter p.val 0 t

def doMaldexSignalPresent (p : Fin 32) (s : State) : State := mdxBring p.val (setRegF s (.mdxStat p.val) Fd.mdxStatLos 0)

def doBlockLock (p : Fin 32) (s : State) : State := 
  if mdxState s p.val = 1 ∧ regF s .kprClkStat Fd.kprClkStatSdsMdx = 1 then mdxEnter p.val 2 s else s

def doBlockLockLoss (p : Fin 32) (s : State) : State :=
  if mdxState s p.val = 2 ∨ mdxState s p.val = 3 then
    mdxEnter p.val 1 (incRegF s (.mdxErr2 p.val) Fd.mdxErr2Blkloss 1)
  else s

/-- Whether a port's EN bit waits for its group. -/
def mdxPending (s : State) (p : Nat) : Bool := regF s (.mdxCfg p) Fd.mdxCfgEn == 1 && !(getMdx s p).live

/-- A group of four ports takes its pending EN bits, once no lower group has any (R319). -/
def doPortEnableGroup (g : Fin 8) (s : State) : State :=
  if (List.range (4 * g.val)).any (mdxPending s) then s else
  [4 * g.val, 4 * g.val + 1, 4 * g.val + 2, 4 * g.val + 3].foldl (fun t p =>
    if mdxPending t p then mdxBring p (modMdx t p (fun m => { m with live := true })) else t) s

/-! ### Jack links (R322, R330) -/

/-- Plug state of a link's source as it stands: an accepted pin state, or the last plug event of the pack. -/
def jackState (s : State) (g : Nat) : Bool :=
  match regEffF s (.egrJack g) Fd.egrJackSrc with
  | 1 => (s.panel.pin.get (regEffF s (.egrJack g) Fd.egrJackPin) {}).active
  | 2 => s.stage.plugs.contains
      (16 * (4 * g + regEffF s (.egrJack g) Fd.egrJackPort) + regEffF s (.egrJack g) Fd.egrJackPack)
  | _ => false

/-- A change of a link's plug state: the gain ramps toward 0 and the settling timer restarts. -/
def jackChange (g : Nat) (s : State) : State :=
  let t := hwField s (.egrJack g) Fd.egrJackPlugged (if jackState s g then 1 else 0)
  hwField t (.egrJack g) Fd.egrJackSettled 0

/-- A plug event of a pack on a port. -/
def plugEvent (p pack : Nat) (plugIn : Bool) (s : State) : State :=
  let key := 16 * p + pack
  if s.stage.plugs.contains key == plugIn then s else
  let t := { s with stage := { s.stage with
    plugs := if plugIn then NSet.add s.stage.plugs key else s.stage.plugs.filter (· != key) } }
  let g := mdxGroup p
  if regEffF t (.egrJack g) Fd.egrJackSrc = 2 ∧ 4 * g + regEffF t (.egrJack g) Fd.egrJackPort = p ∧
      regEffF t (.egrJack g) Fd.egrJackPack = pack then jackChange g t else t

/-- The group that a panel pin is linked to. -/
def jackOfPin (s : State) (k : Nat) : Option Nat :=
  (List.range 8).find? (fun g => regEffF s (.egrJack g) Fd.egrJackSrc == 1 && regEffF s (.egrJack g) Fd.egrJackPin == k)

/-- The part of a link's word that names its source. -/
def jackSource (w : Word) : Nat × Nat × Nat × Nat :=
  match Fd.egrJackSrc.get w with
  | 1 => (1, Fd.egrJackPin.get w, 0, 0)
  | 2 => (2, 0, Fd.egrJackPort.get w, Fd.egrJackPack.get w)
  | _ => (0, 0, 0, 0)

/-- A write of EGR_JACKg: refused with CLAIMED when the pin is not in jack-detect mode or is linked to another group; a
new source starts with GJ = 0, no source gives GJ = 2^24. -/
def jackWrite (x : Writer) (g : Nat) (v : Word) (s : State) : State :=
  let old := regEff s (.egrJack g)
  let t := plainWrite x (.egrJack g) v s
  if !owns x (.world .grd) then t else
  let src := jackSource (regEff t (.egrJack g))
  if src = jackSource old then t
  else
    let pin := src.2.1
    let other := match jackOfPin s pin with | some h => h != g | none => false
    let bad := src.1 == 1 && (regF s (.pnlCfg pin) Fd.pnlCfgMode != 6 || other)
    if bad then raiseBit s .egrErr Fd.egrErrClaimed
    else if src.1 = 0 then
      hwField (hwField (setRegF t (.egrJgain g) Fd.egrJgainGain (2 ^ 24)) (.egrJack g) Fd.egrJackPlugged 0) (.egrJack g)
        Fd.egrJackSettled 0
    else jackChange g (setRegF t (.egrJgain g) Fd.egrJgainGain 0)

/-- The 20 ms settling timer of a linked source expires. -/
def doJackSettlingExpiry (g : Fin 8) (s : State) : State :=
  if regEffF s (.egrJack g.val) Fd.egrJackSrc = 0 then s else hwField s (.egrJack g.val) Fd.egrJackSettled 1

/-! ### Control events (R321) -/

/-- Queues an event of a port, or drops it and counts it in OVF. -/
def queueEvent (p : Nat) (w : Word) (s : State) : State :=
  let q := (getMdx s p).evq
  if 64 ≤ q.length then incRegF s (.mdxEvstat p) Fd.mdxEvstatOvf 1 else
  let t := setRegF (modMdx s p (fun m => { m with evq := q ++ [w] })) (.mdxEvstat p) Fd.mdxEvstatLevel (q.length + 1)
  if q.length = regF t (.mdxEvstat p) Fd.mdxEvstatThresh then setRegF t (.mdxEvstat p) Fd.mdxEvstatEvirq 1 else t

/-- The events of a control subchannel, in order. -/
def takeEvents (p : Nat) : List Byte → State → State
  | b0 :: b1 :: b2 :: b3 :: r, s =>
    let ty := b0.toNat
    let t := if ty = 6 ∨ ty = 7 then plugEvent p (b1.toNat / 16) (ty == 6) s else s
    let u := if ty = 0 then t
      else if 8 ≤ ty ∧ ty < 128 then incRegF t (.mdxEvstat p) Fd.mdxEvstatOvf 1
      else queueEvent p (BitVec.ofNat 32 (leNat [b0, b1, b2, b3])) t
    takeEvents p r u
  | _, s => s

/-- The oldest event of a port, removed. -/
def evqPop (p : Nat) (s : State) : State :=
  let q := (getMdx s p).evq
  setRegF (modMdx s p (fun m => { m with evq := q.tail })) (.mdxEvstat p) Fd.mdxEvstatLevel q.tail.length

/-! ### Frames (R313–R317) -/

/-- The frame bytes that a block carries. -/
def LineBlock.bytes : LineBlock → List Byte
  | .start d | .data d | .term d => d
  | .other => []

/-- Data blocks of 8 bytes, and the terminate block with what remains. -/
def bodyBlocks : List Byte → List LineBlock
  | b0 :: b1 :: b2 :: b3 :: b4 :: b5 :: b6 :: b7 :: r => .data [b0, b1, b2, b3, b4, b5, b6, b7] :: bodyBlocks r
  | r => [.term r]

/-- The blocks that carry a frame on the line (R313). -/
def lineBlocks (bs : List Byte) : List LineBlock := .start (bs.take 7) :: bodyBlocks (bs.drop 7)

/-- Whether only data blocks stand between here and the terminate block. -/
def bodyGood : List LineBlock → Bool
  | [.term _] => true
  | .data _ :: r => bodyGood r
  | _ => false

/-- Whether a frame holds no other control block (R313). -/
def blocksGood : List LineBlock → Bool
  | .start _ :: r => bodyGood r
  | _ => false

/-- Little-endian words of a byte list. -/
def wordsOf : List Byte → List Word
  | b0 :: b1 :: b2 :: b3 :: r => BitVec.ofNat 32 (leNat [b0, b1, b2, b3]) :: wordsOf r
  | _ => []

/-- Set bits of a little-endian bit map. -/
def bitsOf (bs : List Byte) : NSet := (List.range (8 * bs.length)).filter (fun i => (bs.getD (i / 8) 0).getLsbD (i % 8))

/-- The two bytes of a tick number. -/
def tickBytes (n : Nat) : List Byte := [BitVec.ofNat 8 n, BitVec.ofNat 8 (n / 256)]

/-- The content of a frame, or none for a bad one: the checks of R314 and the CRC of R315 over the expected tick. -/
def frameContent (bs : List Byte) (tick : Nat) : Option RxFrame :=
  let nch := leNat ((bs.drop 4).take 2)
  let nctl := leNat ((bs.drop 6).take 1)
  let fin := 0x30 + 4 * nch + nctl
  if bs.length < 0x34 ∨ 256 < nch ∨ 64 < nctl ∨ nctl % 4 ≠ 0 ∨ leNat ((bs.drop 7).take 1) ≠ 1 ∨ bs.length ≠ fin + 4 then none
  else if crc32 (tickBytes tick ++ (bs.take fin).drop 2) ≠ leNat (bs.drop fin) then none
  else some ⟨wordsOf ((bs.drop 0x10).take (4 * nch)), bitsOf ((bs.drop (0x10 + 4 * nch)).take 32),
    (bs.drop (0x30 + 4 * nch)).take nctl⟩

/-- Publishes an ingress value on the ingress lanes (R116). -/
def publishIngress (slot : Nat) (v : Word) (conc frame : Bool) (s : State) : State :=
  inject { s with spine := { s.spine with ingress := SMap.insert s.spine.ingress slot ⟨v, conc, frame⟩ } } 64
    ⟨slot, v, conc, false, false, 0, 2047, slotWorld s slot, slotXw s slot, s.tick.count.getLsbD 0⟩

/-- Publishes channel values from `c` on under a port identity. -/
def publishChans (port : Nat) (cmap : NSet) : Nat → List Word → State → State
  | _, [], s => s
  | c, w :: l, s =>
    publishChans port cmap (c + 1) l (match ingressSlot s port c with
      | some slot => publishIngress slot w (cmap.contains c) true s
      | none => s)

/-- A frame held over an edge takes its place in the order of completion (R106); a later frame of a line group takes the place of
the one before it. -/
def noteHeld (src first len : Nat) (s : State) : State :=
  { s with stage := { s.stage with
    order := s.stage.order.filter (fun k => k.1 != src || decide (64 ≤ src)) ++ [(src, first, len)] } }

/-- A frame that its port, or the pair, takes: its events and its channels while UP, or held for the next tick. -/
def takeFrame (e : Nat) (f : RxFrame) (now : Bool) (s : State) : State :=
  if now then publishChans e f.cmap 0 f.chans (takeEvents e f.ctl s)
  else noteHeld e 0 1 { s with stage := { s.stage with held := s.stage.held ++ [(e, f)] } }

/-- An accepted frame. -/
def acceptFrame (p tick : Nat) (f : RxFrame) (now : Bool) (s : State) : State :=
  let t := modMdx (setRegF s (.mdxStat p) Fd.mdxStatLasttick (tick % 65536)) p
    (fun m => if now then { m with got := true } else { m with gotNext := true })
  let e := identityOf s p
  let x := getMdx t e
  if (if now then x.took || !pairUp s p else x.tookNext) then t
  else takeFrame e f now (modMdx t e (fun m => if now then { m with took := true } else { m with tookNext := true }))

/-- A frame that is counted and discarded: class 18 in UP, 16 on a member of a pair (R318). -/
def discardFrame (p : Nat) (f : Fld) (s : State) : State :=
  let t := incRegF s (.mdxErr p) f 1
  if mdxState s p = 3 then record t (if paired s p then 16 else 18) (some (groupWorld s (mdxGroup p))) p 0 else t

/-- A frame completes on a port whose blocks are locked, in a running tick (R317). With LOOP the port receives what it
sent itself. DEDUCED: assumption 29. -/
def doMaldexFrame (p : Fin 32) (blocks : List LineBlock) (s : State) : State :=
  let bs := blocks.flatMap LineBlock.bytes
  let st := mdxState s p.val
  let x := getMdx s p.val
  if !running s ∨ blockStopped s (66 + p.val) ∨ ¬(st = 2 ∨ st = 3) ∨ (regF s (.mdxCfg p.val) Fd.mdxCfgLoop = 1 ∧ blocks ≠ lineBlocks x.sent) then s else
  let m := s.tick.count.toNat
  let now := !s.tick.deadline
  let exp := if now then m else m + 1
  let tick := leNat (bs.take 2)
  if bs.length < 2 then discardFrame p.val Fd.mdxErrBad s
  else if tick ≠ exp % 65536 then
    discardFrame p.val (if tick = m % 65536 ∧ !now then Fd.mdxErrLate else Fd.mdxErrWtick) s
  else if (if now then x.got else x.gotNext) then discardFrame p.val Fd.mdxErrWtick s
  else
    match frameContent bs exp with
    | some f => if blocksGood blocks then acceptFrame p.val exp f now s else discardFrame p.val Fd.mdxErrBad s
    | none => discardFrame p.val Fd.mdxErrBad s

/-! ### The tick edge -/

/-- The state machine of a port at the end of a tick (R318). A port that has gone DOWN for want of frames, with EN and signal
present, leaves DOWN for LOCK at once. -/
def mdxEval (p : Nat) (s : State) : State :=
  let x := getMdx s p
  let st := mdxState s p
  let t :=
    if st = 2 then
      if !x.got then modMdx s p (fun m => { m with good := 0 })
      else if 7 ≤ x.good then mdxEnter p 3 s else modMdx s p (fun m => { m with good := m.good + 1 })
    else if st = 3 then
      if x.got then modMdx s p (fun m => { m with empty := 0 })
      else if 7 ≤ x.empty then
        mdxBring p (record (mdxEnter p 0 (incRegF s (.mdxErr2 p) Fd.mdxErr2Downs 1)) 26 (some (groupWorld s (mdxGroup p))) p 0)
      else modMdx s p (fun m => { m with empty := m.empty + 1 })
    else s
  modMdx t p (fun m => { m with got := m.gotNext, gotNext := false, took := m.tookNext, tookNext := false })

/-- Every port at the end of a tick. DEDUCED: assumption 29. -/
def mdxEdge (s : State) : State := (List.range 32).foldl (fun t p => mdxEval p t) s

/-- Frames of an identity held for the tick that has opened are injected, if their port or pair is UP in it (R317). -/
def publishHeld (e : Nat) (s : State) : State :=
  (s.stage.held.filter (fun f => f.1 == e)).foldl (fun t f => if pairUp t f.1 then takeFrame f.1 f.2 true t else t)
    { s with stage := { s.stage with held := s.stage.held.filter (fun f => f.1 != e) } }

/-! ### Transmit-map claims (R312) -/

/-- A write of a transmit-map entry, in an ear group or in a line group or stream. -/
def txWrite (x : Writer) (ear : Bool) (r : Creg) (v : Word) (s : State) : State :=
  let old := reg s r
  let claimed := Fd.mdxTxchClaimed.get old == 1
  let en := Fd.mdxTxchEn.get v
  let t := plainWrite x r v s
  if ear then
    let n := reg t r
    setReg t r (Fd.mdxTxchClaimed.putN (Fd.mdxTxchWorld.putN n 1) (Fd.mdxTxchEn.get n))
  else
    match x with
    | .cur w =>
      if claimed then
        if Fd.mdxTxchWorld.get old ≠ w.num then t
        else if en = 0 then setReg t r (Fd.mdxTxchClaimed.putN (Fd.mdxTxchWorld.putN (reg t r) 0) 0) else t
      else if en = 1 then setReg t r (Fd.mdxTxchClaimed.putN (Fd.mdxTxchWorld.putN (reg t r) w.num) 1) else t
    | .kpr =>
      if claimed then
        if en = 0 then setReg t r (Fd.mdxTxchClaimed.putN (Fd.mdxTxchWorld.putN (reg t r) 0) 0) else t
      else if en = 1 then s else t

/-- A write of MDX_TXCTLNp (R323): the last valid N acts at the latch. -/
def txctlnWrite (x : Writer) (p : Nat) (v : Word) (s : State) : State :=
  let t := plainWrite x (.mdxTxctln p) v s
  let n := Fd.mdxTxctlnN.get v
  if owns x (groupOwn s (mdxGroup p)) ∧ n % 4 = 0 ∧ n ≤ 64 then modMdx t p (fun m => { m with txn := n }) else t

/-! ### Meanings -/

def execMaldexFrame (p : Fin 32) (blocks : List LineBlock) (s : State) : Out := .next (doMaldexFrame p blocks s)
def execLossOfSignal (p : Fin 32) (s : State) : Out := .next (doLossOfSignal p s)
def execBlockLock (p : Fin 32) (s : State) : Out := .next (doBlockLock p s)
def execBlockLockLoss (p : Fin 32) (s : State) : Out := .next (doBlockLockLoss p s)
def execPortEnableGroup (g : Fin 8) (s : State) : Out := .next (doPortEnableGroup g s)
def execEvqRead (w : World) (p : Fin 32) (s : State) : Out := .next (withAccess (.cur w) (Creg.addr (.mdxEvq p.val)) none (evqPop p.val) s)
def execMaldexSignalPresent (p : Fin 32) (s : State) : Out := .next (doMaldexSignalPresent p s)
def execJackSettlingExpiry (g : Fin 8) (s : State) : Out := .next (doJackSettlingExpiry g s)
def execJackLinkWrite (x : Writer) (g : Fin 8) (v : Word) (s : State) : Out := .next (withAccess x (Creg.addr (.egrJack g.val)) (some v) (jackWrite x g.val v) s)

end Sys2Proof.Machine
end

