-- ==== Sys2Proof/Machine/Egress.lean ====
section
/-! DEFINITION. The egress stage (R312, R327–R331), the frames it latches (R316, R323), hush pins (R329) and TDM ports
(R324–R326): the meanings of EGRESS_FRAME_START, TDM_FRAME, TDM_EGRESS_FRAME, TDM_CLOCK_LOSS and TDM_BCLK_RETURN, and what
the stitch and the tick edge do at the stage ports. -/

namespace Sys2Proof.Machine

/-! ### One channel (R312, R327, R328) -/

/-- Whether a transmit-map entry passes the check against the latched slot table: `ear` for an ear group, `w` the world of
an entry of a line group or stream. -/
def entryPasses (s : State) (ear : Bool) (slot : Nat) (w : World) : Bool :=
  if ear then slotType s slot == 1 && slotWorld s slot == .grd
  else slotType s slot != 0 && (slotWorld s slot == w || slotXw s slot)

/-- The clamp constant K of a ceiling code (R328); 0 for a line. -/
def clampK (code : Nat) : Nat :=
  [530542, 667913, 840853, 1058571, 1332662, 1677722, 2112126, 2659010, 3347495, 4214246, 5305422, 6679130, 8408526,
    16777216, 0, 4214246].getD code 0

/-- The clamp of a binary32 value. -/
def clampF32 (k : Nat) (y : Word) : Word :=
  let l := (f32Round (f32Sign y) k (-24)).val
  if l.toNat % 2 ^ 31 < y.toNat % 2 ^ 31 then l else y

/-- The clamp of an integer value. -/
def clampInt (k : Nat) (i : Int) : Int :=
  let l : Int := min (k * 128) (2 ^ 31 - 1)
  max (-l) (min l i)

/-- An ear-group channel (R327): gains as one exact product, one rounding, the clamp; and whether the clamp changed it.
`pick` is the free choice for an infinity under a gain of 0, for which the spec states no product. -/
def earValue (int : Bool) (k gj gh pick : Nat) (v : Word) : Word × Bool :=
  if int then
    let i := roundIntShift (v.toInt * (gj * gh : Nat)) 48
    (BitVec.ofInt 32 (clampInt k i), clampInt k i != i)
  else if f32IsNaN v then (0, false)
  else if f32IsInf v then
    if gj * gh = 0 ∧ pick % 2 = 0 then (0, false) else (clampF32 k v, true)
  else
    let y := (f32Round (f32Sign v) (f32Mant v * (gj * gh)) (f32Pow v - 48)).val
    (clampF32 k y, clampF32 k y != y)

/-- What the egress stage forms for a port in a tick. -/
structure EgrOut where
  words : List Word := []
  cmap : NSet := []
  rejected : Bool := false
  clamps : Nat := 0
  /-- Enabled entries that carried a candidate, by the world of the slot. -/
  concPrg : Bool := false
  concGrd : Bool := false
  /-- The next free value. -/
  free : Nat := 0
deriving DecidableEq, Repr

/-- The committed value of a slot, or its concealment value (R96, R265). -/
def committedOf (s : State) (slot : Nat) : Committed := s.conceal.out.get slot ⟨0, true⟩

/-- One channel of a group: its entry `en`, at channel number `c`. DESIGN CHOICE: assumption 28. -/
def egressChan (s : State) (ear : Bool) (g : Nat) (o : EgrOut) (c : Nat) (en : Word) : EgrOut :=
  if Fd.mdxTxchEn.get en = 0 then { o with words := o.words ++ [0] }
  else
    let slot := Fd.mdxTxchSlot.get en
    if !entryPasses s ear slot (World.ofNum (Fd.mdxTxchWorld.get en)) then
      { o with words := o.words ++ [0], cmap := NSet.add o.cmap c, rejected := true }
    else
      let v := committedOf s slot
      let o1 := if v.cand then { o with cmap := NSet.add o.cmap c } else o
      let o2 := if v.cand then (match slotWorld s slot with | .prg => { o1 with concPrg := true } | .grd => { o1 with concGrd := true }) else o1
      if ear then
        let (w, ch) := earValue (Fd.mdxTxchFmt.get en == 1) (clampK (regF s (.egrGrp g) Fd.egrGrpCode))
          (regF s (.egrJgain g) Fd.egrJgainGain) (regF s (.egrGain g) Fd.egrGainGain) (Config.freeNat o2.free) v.value
        { o2 with words := o2.words ++ [w], clamps := o2.clamps + (if ch then 1 else 0), free := o2.free + 1 }
      else { o2 with words := o2.words ++ [v.value] }

/-- The channels of a port by their entries. -/
def egressChans (s : State) (ear : Bool) (g : Nat) (entries : List Word) : EgrOut :=
  (entries.zipIdx).foldl (fun o x => egressChan s ear g o x.2 x.1) { free := s.free }

/-- Marks the worlds whose egress carried a candidate in this stitch (R265's CUR_CONC), as 1 and 2. -/
def noteConc (o : EgrOut) (m : Nat) : Nat :=
  let a := if o.concPrg ∧ m % 2 = 0 then m + 1 else m
  if o.concGrd ∧ a / 2 % 2 = 0 then a + 2 else a

/-! ### Gains (R329, R330) -/

/-- Ticks per second (R53). -/
def tickRate (s : State) : Nat := [44100, 48000, 88200, 96000, 176400, 192000].getD (rate s) 192000

/-- A gain moves by a step toward a target and never passes it. -/
def toward (x target step : Nat) : Nat := if x ≤ target then min target (x + step) else max target (x - step)

/-- `a / b` rounded up. -/
def ceilDiv (a b : Nat) : Nat := if b = 0 then 0 else (a + b - 1) / b

/-- The hush depth and the step per stitch of VAL17. -/
def hushDepth (s : State) : Nat := [1677722, 530542, 167772, 0].getD (strap s 17 / 4) 0
def hushStep (s : State) : Nat :=
  ceilDiv (2 ^ 24 - hushDepth s) (tickRate s * [5, 10, 20, 50].getD (strap s 17 % 4) 50 / 1000)

/-- Whether an ear group is hushed: its pin's filtered state at the tick's edge, or SHUSH. -/
def hushed (s : State) (g : Nat) : Bool :=
  groupEar s g && (s.stage.hushLow.contains (g / 2) || regF s (.egrGrp g) Fd.egrGrpShush == 1)

/-- The gains of a group move once at the stitch. -/
def gainStep (g : Nat) (s : State) : State :=
  if !groupEar s g then s else
  let t := setRegF s (.egrGain g) Fd.egrGainGain
    (toward (regF s (.egrGain g) Fd.egrGainGain) (if hushed s g then hushDepth s else 2 ^ 24) (hushStep s))
  let gj := regF s (.egrJgain g) Fd.egrJgainGain
  if regEffF s (.egrJack g) Fd.egrJackSrc = 0 then setRegF t (.egrJgain g) Fd.egrJgainGain (2 ^ 24)
  else if regF s (.egrJack g) Fd.egrJackSettled = 1 ∧ regF s (.egrJack g) Fd.egrJackPlugged = 1 then
    setRegF t (.egrJgain g) Fd.egrJgainGain (toward gj (2 ^ 24) (ceilDiv (2 ^ 24) (tickRate s * 50 / 1000)))
  else setRegF t (.egrJgain g) Fd.egrJgainGain (toward gj 0 (ceilDiv (2 ^ 24) (tickRate s * 2 / 1000)))

def stepGains (s : State) : State := (List.range 8).foldl (fun t g => gainStep g t) s

/-- Shows HUSHED of every group. -/
def showHushed (s : State) : State :=
  (List.range 8).foldl (fun t g =>
    let u := setRegF t (.egrGrp g) Fd.egrGrpPinhush (if groupEar t g && t.stage.hushLow.contains (g / 2) then 1 else 0)
    setRegF u (.egrGrp g) Fd.egrGrpHushed (if hushed u g then 1 else 0)) s

/-- The hush pins are sampled at a tick edge: two consecutive low samples make a pin low, two high ones high. -/
def hushSample (low : BitVec 4) (s : State) : State :=
  let lows := (List.range 4).filter (fun h => low.getLsbD h)
  let next := (List.range 4).filter (fun h =>
    if low.getLsbD h == s.stage.hushPrev.contains h then low.getLsbD h else s.stage.hushLow.contains h)
  let t := { s with stage := { s.stage with hushPrev := lows, hushLow := next } }
  let bits (l : List Nat) : Nat := l.foldl (fun n h => n + 2 ^ h) 0
  showHushed (setRegF (setRegF t .egrPins Fd.egrPinsRaw (15 - bits lows)) .egrPins Fd.egrPinsFilt (15 - bits next))

/-- A write of EGR_GRPg: SHUSH takes effect and HUSHED follows. -/
def egrGrpWrite (x : Writer) (g : Nat) (v : Word) (s : State) : State := showHushed (plainWrite x (.egrGrp g) v s)

/-! ### Maldex egress (R316, R323) -/

/-- The transmit-map entries of a Maldex port identity, for its NCH channels. -/
def mdxEntries (s : State) (e : Nat) : List Word :=
  (List.range (regEffF s (.mdxCfg e) Fd.mdxCfgTxnch)).map (fun c => reg s (.mdxTxch e c))

/-- The control bytes latched for a port identity. -/
def txctlBytes (s : State) (e : Nat) : List Byte :=
  ((List.range 16).flatMap (fun i => wordBytes (reg s (.mdxTxctl e i)))).take (getMdx s e).txn

def countClamps (g n : Nat) (s : State) : State := incRegF s (.egrCnt g) Fd.egrCntClamps n

/-- Latches the egress frame of one port identity: both members of a pair take the same content (R320). -/
def latchMdx (e : Nat) (s : State) (m : Nat) : State × Nat :=
  let ports := if paired s e then [e, e + 1] else [e]
  if !ports.any (fun p => (getMdx s p).live) then (ports.foldl (fun t p => modMdx t p (fun x => { x with frame := none })) s, m)
  else
    let g := mdxGroup e
    let o := egressChans s (groupEar s g) g (mdxEntries s e)
    let f : TxFrame := ⟨s.tick.count.toNat % 65536, regF s .tckSrc Fd.tckSrcHold == 1, o.words.length, o.words, o.cmap, txctlBytes s e⟩
    let t := countClamps g o.clamps { s with free := o.free }
    let t1 := ports.foldl (fun t p =>
      let t2 := modMdx t p (fun x => { x with frame := if x.live then some f else none })
      if o.rejected && (getMdx t p).live then incRegF t2 (.mdxErr2 p) Fd.mdxErr2Rej 1 else t2) t
    (t1, noteConc o m)

/-- The TXCTL latch clears every N. -/
def clearTxctl (s : State) : State :=
  (List.range 32).foldl (fun t p => modMdx (setReg t (.mdxTxctln p) 0) p (fun x => { x with txn := 0 })) s

def latchAllMdx (s : State) : State × Nat :=
  let r := (List.range 32).foldl (fun (x : State × Nat) p => if identityOf x.1 p = p then latchMdx p x.1 x.2 else x) (s, 0)
  (clearTxctl r.1, r.2)

/-- Bytes of a bit map of 256 bits. -/
def cmapBytes (m : NSet) : List Byte :=
  (List.range 32).map (fun i => BitVec.ofNat 8 ((List.range 8).foldl (fun n b => if m.contains (8 * i + b) then n + 2 ^ b else n) 0))

/-- The bytes of an egress frame (R314, R315). -/
def frameBytes (f : TxFrame) (port flags : Nat) : List Byte :=
  let body : List Byte := [BitVec.ofNat 8 port, BitVec.ofNat 8 flags, BitVec.ofNat 8 f.nch, BitVec.ofNat 8 (f.nch / 256),
    BitVec.ofNat 8 f.ctl.length, 1] ++ wordBytes Config.srcId ++ [0, 0, 0, 0] ++ f.chans.flatMap wordBytes ++ cmapBytes f.cmap ++ f.ctl
  let all := tickBytes f.tick ++ body
  all ++ wordBytes (BitVec.ofNat 32 (crc32 all))

/-- The flags of a port's frame: PAIR, MEMBER, HOLD. -/
def frameFlags (s : State) (p : Nat) (f : TxFrame) : Nat :=
  (if paired s p then 1 + 2 * (p % 2) else 0) + (if f.hold then 4 else 0)

/-- The egress frames of the last stitch begin (R316). -/
def doEgressFrameStart (s : State) : State :=
  if !s.stage.frameDue || s.tick.frozen then s else
  let t := { s with stage := { s.stage with frameDue := false }, tick := { s.tick with cycle := max s.tick.cycle 160 } }
  (List.range 32).foldl (fun t p =>
    match (getMdx t p).frame with
    | some f => if (getMdx t p).live then modMdx t p (fun x => { x with sent := frameBytes f (identityOf t p) (frameFlags t p f), frame := none })
      else modMdx t p (fun x => { x with frame := none })
    | none => t) t

/-! ### TDM ports (R324–R326) -/

def getTdm (s : State) (t : Nat) : TdmPort := s.stage.tdm.get t {}
def modTdm (s : State) (t : Nat) (f : TdmPort → TdmPort) : State :=
  { s with stage := { s.stage with tdm := s.stage.tdm.set t (f (getTdm s t)) {} } }
def tdmMaster (s : State) (t : Nat) : Bool := regF s (.tdmCfg t) Fd.tdmCfgMaster == 1
def tdmOn (s : State) (t : Nat) : Bool := regF s (.tdmCfg t) Fd.tdmCfgEn == 1

/-- Slots of a port's frame: two in the stereo formats, SLOTS in TDM. -/
def tdmSlots (s : State) (t : Nat) : Nat :=
  if regEffF s (.tdmCfg t) Fd.tdmCfgFormat = 2 then regEffF s (.tdmCfg t) Fd.tdmCfgSlots else 2

/-- The most slots at the tick rate. -/
def tdmLimit (s : State) : Nat := if 4 ≤ rate s then 8 else 16

/-- Bits of a slot that carry data. -/
def tdmWidth (s : State) (t : Nat) : Nat := [32, 24, 16].getD (regEffF s (.tdmCfg t) Fd.tdmCfgDwidth) 32

/-- A write of TDM_CFGt: a SLOTS value above the limit for the rate is reserved (R324). -/
def tdmCfgWrite (x : Writer) (t : Nat) (v : Word) (s : State) : State :=
  let u := plainWrite x (.tdmCfg t) v s
  if tdmLimit s < Fd.tdmCfgSlots.get v ∧ Fd.tdmCfgSlots.get v ≤ 16 ∧ owns x (groupOwn s (tdmGroup t)) then
    let w := Fd.tdmCfgSlots.putN (regEff u (.tdmCfg t)) (regEffF s (.tdmCfg t) Fd.tdmCfgSlots)
    { u with eff := u.eff.set (Creg.addr (.tdmCfg t)) w (Creg.resetWord (.tdmCfg t)) }
  else u

/-- Whether a port has its bit clock: a slave port, CLKOK; a master port, its audio PLL's. -/
def tdmClocked (s : State) (t : Nat) : Bool := regF s (.tdmStat t) Fd.tdmStatClkok == 1

/-- The data bits of a received slot: the bits beyond DWIDTH are ignored. -/
def tdmData (s : State) (t : Nat) (w : Word) : Word := BitVec.ofNat 32 (w.toNat / 2 ^ (32 - tdmWidth s t) * 2 ^ (32 - tdmWidth s t))

/-- A TDM ingress frame completes: it belongs to the running tick up to the deadline, and to the next tick after it. DESIGN CHOICE: assumption 30. -/
def doTdmFrame (t : Fin 16) (slots : List Word) (s : State) : State :=
  if !running s || !tdmOn s t.val || !tdmClocked s t.val || blockStopped s (98 + t.val) then s else
  let ws := (slots.take (tdmSlots s t.val)).map (tdmData s t.val)
  let x := getTdm s t.val
  let slip (b : Bool) (u : State) : State := if b then incRegF u (.tdmStat t.val) Fd.tdmStatSlip 1 else u
  if s.tick.deadline then
    noteHeld (32 + t.val) 0 1 (modTdm (slip x.gotNext s) t.val (fun y => { y with gotNext := true, heldNext := ws }))
  else publishChans (32 + t.val) [] 0 ws (modTdm (slip x.got s) t.val (fun y => { y with got := true }))

/-- A TDM frame held for the tick that has opened is published, unless its port's clock has gone: its channels are then
concealed at the deadline (R325, R429). -/
def publishTdm (t : Nat) (s : State) : State :=
  let u := modTdm s t (fun y => { y with heldNext := [] })
  if (getTdm s t).gotNext && tdmOn s t && tdmClocked s t then publishChans (32 + t) [] 0 (getTdm s t).heldNext u else u

/-- TDM ports at a tick edge, after their held frames are published: a frame held for the tick is the tick's. -/
def tdmEdge (s : State) : State :=
  s.stage.tdm.foldl (fun u e =>
    modTdm u e.1 (fun y => { y with got := y.gotNext && tdmClocked u e.1, gotNext := false, heldNext := [] })) s

/-- Ports that took no frame in the window that ends at a deadline count MISS. -/
def tdmDeadline (s : State) : State :=
  (List.range 16).foldl (fun u t =>
    if tdmOn u t && !(getTdm u t).got then incRegF u (.tdmStat t) Fd.tdmStatMiss 1 else u) s

/-- The integer a TDM channel sends: a binary32 value scaled, rounded and saturated, then its top DWIDTH bits truncated
toward zero (R326). A NaN, for which the spec states no integer, gives the free value `nan`. -/
def tdmOut (int : Bool) (width : Nat) (nan : Word) (w : Word) : Word :=
  let i : Int :=
    if int then w.toInt
    else if f32IsNaN w then nan.toInt
    else if f32IsInf w then (if f32Sign w then -(2 ^ 31) else 2 ^ 31 - 1)
    else
      let e := f32Pow w + 31
      let n := if 0 ≤ e then f32Int w * 2 ^ e.toNat else roundIntShift (f32Int w) (-e).toNat
      max (-(2 ^ 31)) (min (2 ^ 31 - 1) n)
  BitVec.ofInt 32 (i.tdiv (2 ^ (32 - width)) * 2 ^ (32 - width))

/-- The words a TDM port latches at a stitch, drawing a free value per channel. -/
def latchTdm (t : Nat) (s : State) (m : Nat) : State × Nat :=
  if !tdmOn s t then (s, m) else
  let g := tdmGroup t
  let entries := (List.range (tdmSlots s t)).map (fun i => reg s (.tdmTxslot t i))
  let o := egressChans s (groupEar s g) g entries
  let ws := ((o.words.zip entries).zipIdx).map (fun x =>
    tdmOut (Fd.mdxTxchFmt.get x.1.2 == 1) (tdmWidth s t) (Config.freeWord (o.free + x.2)) x.1.1)
  let x := getTdm s t
  let lost := !tdmMaster s t && x.latch.isSome && x.sends == 0
  let u := countClamps g o.clamps { s with free := o.free + ws.length }
  let u1 := if o.rejected then incRegF u (.tdmStat t) Fd.tdmStatRej 1 else u
  let u2 := if lost then incRegF u1 (.tdmStat t) Fd.tdmStatSlip 1 else u1
  (modTdm u2 t (fun y => { y with latch := some ws, sends := 0 }), noteConc o m)

/-- A TDM egress frame starts: it carries the latest latched values; a slave port counts a latch sent twice. -/
def doTdmEgressFrame (t : Fin 16) (s : State) : State :=
  if !tdmOn s t.val || !tdmClocked s t.val then s else
  let x := getTdm s t.val
  match x.latch with
  | none => s
  | some ws =>
    let u := modTdm s t.val (fun y => { y with sent := ws, sends := y.sends + 1 })
    if !tdmMaster s t.val && decide (1 ≤ x.sends) then incRegF u (.tdmStat t.val) Fd.tdmStatSlip 1 else u

/-- No BCLK edge for 1 µs on a slave port. -/
def doTdmClockLoss (t : Fin 16) (s : State) : State :=
  if tdmMaster s t.val then s else setRegF s (.tdmStat t.val) Fd.tdmStatClkok 0

/-- BCLK edges on a slave port. -/
def doTdmBclkReturn (t : Fin 16) (s : State) : State :=
  if tdmMaster s t.val then s else setRegF s (.tdmStat t.val) Fd.tdmStatClkok 1

/-- The egress stage at a stitch (R96, R327): gains, the frames of every port, and the worlds that carried candidates. -/
def egressStitch (s : State) : State × Nat :=
  let r := latchAllMdx (stepGains s)
  (List.range 16).foldl (fun (x : State × Nat) t => latchTdm t x.1 x.2) r

def execEgressFrameStart (s : State) : Out := .next (doEgressFrameStart s)
def execTdmFrame (t : Fin 16) (slots : List Word) (s : State) : Out := .next (doTdmFrame t slots s)
def execTdmEgressFrame (t : Fin 16) (s : State) : Out := .next (doTdmEgressFrame t s)
def execTdmClockLoss (t : Fin 16) (s : State) : Out := .next (doTdmClockLoss t s)
def execTdmBclkReturn (t : Fin 16) (s : State) : Out := .next (doTdmBclkReturn t s)

end Sys2Proof.Machine
end

