-- ==== Sys2Proof/Machine/Sources.lean ====
section
/-! DEFINITION. Tick sources and the flywheel (R65, R67–R71): the meanings of SEL_WRITE, WORD_CLOCK_READY, PTP_LOCK,
PTP_LOCK_LOSS, TICK_SOURCE_FAIL, ACQUISITION_END and HOLD_END, and the steering at a tick edge. -/

namespace Sys2Proof.Machine

def setSrc (f : Fld) (n : Nat) (s : State) : State := hwField s .tckSrc f n
def srcF (s : State) (f : Fld) : Nat := regF s .tckSrc f

/-- Whether the generator may take a source: the named one is ready (R69). -/
def sourceReady (s : State) (sel : Nat) : Bool :=
  match sel with
  | 0 => true
  | 1 => srcF s Fd.tckSrcRdyWc == 1
  | 2 => srcF s Fd.tckSrcRdyPtp == 1
  | _ => false

/-- The generator takes a source into control: after tick start it slews, before it aligns by a phase step (R65). Under PTP,
TCK_MEDIA takes the offset and MEDIA_VALID sets (R336). -/
def adopt (sel : Nat) (s : State) : State :=
  let t := setSrc Fd.tckSrcSlewing (if running s then 1 else 0) (setSrc Fd.tckSrcActive sel s)
  if sel = 2 then setSrc Fd.tckSrcMediaValid 1 { t with tick := { t.tick with media := t.tick.ptpOfs } } else t

/-- What the media count minus TCK_COUNT is as a SEL write takes PTP into control: no command carries it, and it is a free value
(assumption 3). -/
def drawMedia (s : State) : State :=
  let (lo, t) := drawFree s
  let (hi, u) := drawFree t
  { u with tick := { u.tick with ptpOfs := hi ++ lo } }

/-- The strap-selected source is ready for the first time: it is adopted without a write (R65). -/
def adoptStrap (sel : Nat) (s : State) : State :=
  if !s.tick.adopted && regEffF s .tckSrc Fd.tckSrcSel == sel && srcF s Fd.tckSrcActive == 0 then
    adopt sel { s with tick := { s.tick with adopted := true } }
  else s

/-- A write of TCK_SRC (R69): a SEL write whose source is not ready, or PTP at a 44.1 kHz family rate, is refused whole. SEL
value 3 is reserved: it is stored and starts nothing. DEDUCED: assumption 23. -/
def srcWrite (x : Writer) (v : Word) (s : State) : State :=
  let sel := Fd.tckSrcSel.get v
  if !owns x (.world .prg) ∨ sel = srcF s Fd.tckSrcSel then plainWrite x .tckSrc v s
  else if sel = 3 then plainWrite x .tckSrc v s
  else
    let badRate := sel == 2 && rate s % 2 == 0
    let notReady := !sourceReady s sel
    if badRate || notReady then
      let t := if notReady then setSrc Fd.tckSrcErrNotready 1 s else s
      if badRate then setSrc Fd.tckSrcErrRate 1 t else t
    else
      let t := adopt sel (setSrc Fd.tckSrcHold 0 (plainWrite x .tckSrc v (if sel = 2 then drawMedia s else s)))
      if sel = 2 then t else setSrc Fd.tckSrcMediaValid 0 t

/-- WORD_CLOCK_READY (R68). -/
def doWordClockReady (s : State) : State :=
  if !s.power.up then s else adoptStrap 1 (setSrc Fd.tckSrcRdyWc 1 s)

/-- The active external source fails (R70): the steering stays where it is, the internal source takes over and HOLD sets. -/
def failSource (s : State) : State :=
  let src := srcF s Fd.tckSrcActive
  let t := if src = 1 then setSrc Fd.tckSrcFailWc 1 (setSrc Fd.tckSrcRdyWc 0 s) else setSrc Fd.tckSrcFailPtp 1 s
  let t1 := setSrc Fd.tckSrcSlewing 0 (setSrc Fd.tckSrcHold 1 (setSrc Fd.tckSrcSel 0 (setSrc Fd.tckSrcActive 0 t)))
  setNmeBoth (record t1 19 none src 0) 0

/-- The servo's locked state is lost: RDY_PTP clears, and the PTP source, when it is active, fails (R68, R336). -/
def ptpUnlock (s : State) : State :=
  let t := { s with eth := { s.eth with good := 0, bad := 0 } }
  let t1 := if regF t .ethPtpstat Fd.ethPtpstatLocked = 0 then t else
    incRegF (setRegF t .ethPtpstat Fd.ethPtpstatLocked 0) .ethPtpstat Fd.ethPtpstatLosses 1
  let t2 := setSrc Fd.tckSrcRdyPtp 0 t1
  if srcF t2 Fd.tckSrcActive = 2 then failSource t2 else t2

/-- PTP_LOCK (R336): a master is selected and 16 consecutive offsets lie within ±250 ns. `offset` is the media count minus
TCK_COUNT. -/
def doPtpLock (offset : BitVec 64) (s : State) : State :=
  if !s.power.up || decide (s.eth.good < 16) || regF s .ethPtpstat Fd.ethPtpstatState != 1 then s else
  let t := setRegF (setSrc Fd.tckSrcRdyPtp 1 { s with tick := { s.tick with ptpOfs := offset } }) .ethPtpstat Fd.ethPtpstatLocked 1
  adoptStrap 2 t

/-- PTP_LOCK_LOSS (R336): no Sync for 3 intervals, the announce timeout, or a change of grandmaster. -/
def doPtpLockLoss (s : State) : State :=
  if regF s .ethPtpstat Fd.ethPtpstatLocked = 0 then s else ptpUnlock s

/-- TICK_SOURCE_FAIL (R68, R70): the active external source fails; PTP does so by losing its locked state. -/
def doTickSourceFail (s : State) : State :=
  match srcF s Fd.tckSrcActive with
  | 1 => failSource s
  | 2 => ptpUnlock s
  | _ => s

/-- ACQUISITION_END (R67): the phase error falls within one cycle, and tracking begins. DEDUCED: assumption 23. -/
def doAcquisitionEnd (pherr : Word) (s : State) : State :=
  if srcF s Fd.tckSrcSlewing = 0 ∨ 16 < pherr.toInt.natAbs then s else setReg (setSrc Fd.tckSrcSlewing 0 s) .tckPherr pherr

/-! ### Steering (R67, R70, R71) -/

/-- TCK_STEER in 0.01 ppm, and the limit of its magnitude. -/
def steerOf (s : State) : Int := (BitVec.ofNat 16 (regF s .tckSteer Fd.tckSteerSteer)).toInt
def pullLimit (s : State) : Int := 100 * regEffF s .tckLimit Fd.tckLimitPull
def setSteer (n : Int) (s : State) : State := setRegF s .tckSteer Fd.tckSteerSteer (BitVec.ofInt 16 n).toNat

/-- A value held between two bounds. -/
def between (lo hi x : Int) : Int := max lo (min hi x)

/-- Cycles between two events of the active source, in 1/16 cycle: a base-rate word clock has one in several ticks (R67). -/
def sourceSpan (s : State) : Int :=
  16 * s.tick.period * (if srcF s Fd.tckSrcActive = 1 ∧ srcF s Fd.tckSrcWcBase = 1 then 2 ^ (rate s / 2) else 1)

/-- The phase error by the shorter direction, positive when the tick is late; exactly half a span counts as early, so that the
generator slews towards lateness (R67). -/
def shortError (span pherr : Int) : Int := (pherr + span / 2) % span - span / 2

/-- The minimum-time profile of an acquisition (R67), at a phase error `e` in 1/16 cycle and a steering `old` in 0.01 ppm: the
steering makes for the pull limit `lim` in the direction that reduces the error, and for 0 once what is left of the error is passed
while it ramps down at `slew` ppm per second. -/
def acquireAim (old lim e : Int) (slew : Nat) : Int :=
  let dir : Int := if 0 ≤ e then 1 else -1
  if 0 < dir * old ∧ 5 * (slew : Int) * e.natAbs ≤ 8 * old * old then 0 else dir * lim

/-- The steering after a period in which it may move by `d` (R67): it ramps to the limit from beyond it (R71), to 0 without an
external source (R70), and otherwise follows the loop's wish under both limits. -/
def steerNext (old lim d wish : Int) (ext : Bool) : Int :=
  let aim := if lim < old ∨ old < -lim then between (-lim) lim old else if ext then between (-lim) lim wish else 0
  between (old - d) (old + d) aim

/-- The steering and the phase detector over the period that a tick edge ends, under an external source: `pherr` is the detector's
reading. Beyond one cycle of error the generator acquires by the profile of R67; within it `wish` is the steering that the tracking
loop asks for. Without an external source TCK_PHERR keeps its last reading. DESIGN CHOICE: assumption 23. -/
def steerEdge (pherr : Word) (wish : BitVec 16) (s : State) : State :=
  let slew := regEffF s .tckLimit Fd.tckLimitSlew
  let acc := s.tick.slew + s.tick.period * 100 * slew
  let ext := srcF s Fd.tckSrcActive != 0
  let e := shortError (sourceSpan s) pherr.toInt
  let far := decide (16 < e.natAbs)
  let aim := if far then acquireAim (steerOf s) (pullLimit s) e slew else wish.toInt
  let t := setSteer (steerNext (steerOf s) (pullLimit s) (acc / 2000000000 : Nat) aim ext)
    { s with tick := { s.tick with slew := acc % 2000000000 } }
  if ext then setSrc Fd.tckSrcSlewing (if far then 1 else 0) (setReg t .tckPherr pherr) else t

/-- A write of TCK_LIMIT (R71): the steering ramps to a lowered PULL at the edges of a running tick; while the edges are suppressed no
command marks the time, and the ramp is over with the write. DESIGN CHOICE: assumption 23. -/
def limitWrite (x : Writer) (v : Word) (s : State) : State :=
  let t := plainWrite x .tckLimit v s
  let p := pullLimit t
  if running s || (decide (-p ≤ steerOf t) && decide (steerOf t ≤ p)) then t else setSteer (between (-p) p (steerOf t)) t

/-- HOLD_END (R70): the steering has reached 0. While the tick runs, its edges bring it there. -/
def doHoldEnd (s : State) : State :=
  if srcF s Fd.tckSrcHold = 0 ∨ (running s ∧ steerOf s ≠ 0) then s else setReg (setSrc Fd.tckSrcHold 0 s) .tckSteer 0

def execSelWrite (w : World) (v : Word) (s : State) : Out := .next (withAccess (.cur w) (Creg.addr .tckSrc) (some v) (srcWrite (.cur w) v) s)
def execWordClockReady (s : State) : Out := .next (doWordClockReady s)
def execPtpLock (offset : BitVec 64) (s : State) : Out := .next (doPtpLock offset s)
def execPtpLockLoss (s : State) : Out := .next (doPtpLockLoss s)
def execTickSourceFail (s : State) : Out := .next (doTickSourceFail s)
def execAcquisitionEnd (pherr : Word) (s : State) : Out := .next (doAcquisitionEnd pherr s)
def execHoldEnd (s : State) : Out := .next (doHoldEnd s)

end Sys2Proof.Machine
end

