-- ==== Sys2Proof/Machine/Ethernet.lean ====
section
/-! DEFINITION. Network ports (R333–R341): media streams, network time, control frames. -/

namespace Sys2Proof.Machine

def getEth (s : State) (e : Nat) : EthPort := s.eth.port.get e {}
def modEth (s : State) (e : Nat) (f : EthPort → EthPort) : State :=
  { s with eth := { s.eth with port := s.eth.port.set e (f (getEth s e)) {} } }

/-- Whether a port carries traffic: enabled, with its link up. -/
def ethUp (s : State) (e : Nat) : Bool :=
  regF s .ethCfg Fd.ethCfgEn / 2 ^ e % 2 == 1 && regF s (.ethPortstat e) Fd.ethPortstatLink == 1

def mediaValid (s : State) : Bool := regF s .tckSrc Fd.tckSrcMediaValid == 1
/-- The media count of the running tick (R63, R341). -/
def mediaCount (s : State) : BitVec 64 := s.tick.count + s.tick.media

/-- Samples per packet of a packet time at the tick rate (R337); 0 at a rate without streams. -/
def samplesPer (s : State) (ptime : Nat) : Nat :=
  match rate s with
  | 1 => [6, 12, 16, 48].getD ptime 0
  | 3 => [12, 24, 32, 96].getD ptime 0
  | _ => 0

/-- The 802.1Q tag of transmitted frames, when ETH_CFG.VLAN asks for one (R333). -/
def vlanTag (s : State) : Option Nat :=
  if regF s .ethCfg Fd.ethCfgVlan = 1 then some (2 ^ 13 * regF s .ethCfg Fd.ethCfgPcp + regF s .ethCfg Fd.ethCfgVid) else none

/-- A frame as it is sent: its bytes with the tag after the two addresses. -/
def tagFrame (tag : Option Nat) (bs : List Byte) : List Byte :=
  match tag with
  | none => bs
  | some t => bs.take 12 ++ [0x81, 0x00, BitVec.ofNat 8 (t / 256), BitVec.ofNat 8 t] ++ bs.drop 12

/-- Whether a frame of so many bytes without its check sequence is within the limit of R333. -/
def frameFits (n : Nat) : Bool := decide (n + 4 ≤ 1522)

/-- Bytes of a sample: L24 or L16. -/
def sampleBytes (fmt : Nat) : Nat := if fmt = 0 then 3 else 2

def sCfg (tx : Bool) (n : Nat) : Creg := if tx then .ethTxsCfg n else .ethRxsCfg n
def sMap (tx : Bool) (n : Nat) : Creg := if tx then .ethTxsMap n else .ethRxsMap n
def sAddr (tx : Bool) (n : Nat) : Creg := if tx then .ethTxsAddr n else .ethRxsAddr n

/-- Channels of a stream: NCH under R6, from a MAP word. -/
def nchOf (w : Word) : Nat := let n := Fd.ethRxsMapNch.get w; if 1 ≤ n ∧ n ≤ 64 then n else 1

/-- Whether a stream runs: enabled in the registers in force, with the media clock valid. -/
def streamOn (s : State) (tx : Bool) (n : Nat) : Bool :=
  Fd.ethRxsCfgEn.get (regLat s (sCfg tx n)) == 1 && mediaValid s

/-! ### STREAM_ENABLE (R337) -/

/-- The refusal bits of an enable: RATE, NOMEDIA, SIZE, CLAIMED, RANGE. -/
def streamRefusals (s : State) (tx : Bool) (n : Nat) (v : Word) : Nat :=
  let k := samplesPer s (Fd.ethRxsCfgPtime.get v)
  let m := reg s (sMap tx n)
  let nch := regEffF s (sMap tx n) Fd.ethRxsMapNch
  let base := Fd.ethRxsMapBase.get m
  let ofs := Fd.ethRxsMapOffset.get m
  let overlap := (List.range 64).any (fun i => i != n && regF s (sCfg tx i) Fd.ethRxsCfgEn == 1 &&
    regF s (sCfg tx i) Fd.ethRxsCfgPort == Fd.ethRxsCfgPort.get v &&
    decide (base < regF s (sMap tx i) Fd.ethRxsMapBase + regEffF s (sMap tx i) Fd.ethRxsMapNch) &&
    decide (regF s (sMap tx i) Fd.ethRxsMapBase < base + nch))
  (if rate s = 1 ∨ rate s = 3 then 0 else 1) + (if mediaValid s then 0 else 2) +
  (if 1440 < nch * k * sampleBytes (Fd.ethRxsCfgFmt.get v) then 4 else 0) + (if overlap then 8 else 0) +
  (if 512 < base + nch ∨ (!tx ∧ ofs < k) then 16 else 0)

/-- A write of a stream's CFG: an enable under any condition of R337 is refused and changes nothing. DESIGN CHOICE: assumption 31. -/
def streamCfgWrite (x : Writer) (tx : Bool) (n : Nat) (v : Word) (s : State) : State :=
  let bad := streamRefusals s tx n v
  if Fd.ethRxsCfgEn.get v = 1 ∧ owns x (.world .prg) ∧ bad ≠ 0 then
    let e := reg s .ethErr ||| BitVec.ofNat 32 bad
    setReg s .ethErr (Fd.ethErrStream.putN e (n + (if tx then 64 else 0)))
  else plainWrite x (sCfg tx n) v s

/-! ### Receive streams (R338) -/

def rxOf (s : State) (n : Nat) : SMap Word := s.eth.rx.get n []
def setRx (s : State) (n : Nat) (m : SMap Word) : State := { s with eth := { s.eth with rx := s.eth.rx.set n m [] } }

/-- A sample's word: its bytes big-endian, left-aligned. -/
def sampleWord (bs : List Byte) : Word :=
  BitVec.ofNat 32 ((bs.foldl (fun n b => 256 * n + b.toNat) 0) * 256 ^ (4 - bs.length))

/-- Publishes a stream's sample in the running tick. -/
def publishSample (n c : Nat) (v : Word) (s : State) : State :=
  let e := Fd.ethRxsCfgPort.get (regLat s (.ethRxsCfg n))
  let t := { s with eth := { s.eth with now := NSet.add s.eth.now (64 * n + c) } }
  match ingressSlot t (48 + e) (Fd.ethRxsMapBase.get (regLat t (.ethRxsMap n)) + c) with
  | some slot => publishIngress slot v false true t
  | none => t

/-- Places sample `i` of channel `c`: published, held for its tick, or counted in LATE. -/
def placeSample (n : Nat) (stamp : Word) (i c : Nat) (v : Word) (s : State) : State :=
  let m := stamp.toNat + i + Fd.ethRxsMapOffset.get (regLat s (.ethRxsMap n))
  let d := (m + 2 ^ 32 - (mediaCount s).toNat % 2 ^ 32) % 2 ^ 32
  let key := 64 * (m % 2 ^ 32) + c
  if 511 < d ∨ (d = 0 ∧ (s.tick.deadline ∨ s.eth.now.contains (64 * n + c))) ∨ (d ≠ 0 ∧ (rxOf s n).any (fun x => x.1 == key)) then
    incRegF s (.ethRxsCnt n) Fd.ethRxsCntLate 1
  else if d = 0 then publishSample n c v s
  else setRx s n (SMap.insert (rxOf s n) key v)

/-- The receive stream that matches a packet. -/
def matchStream (s : State) (e : Nat) (dest : Word) (udp pt : Nat) : Option Nat :=
  (List.range 64).find? (fun n => streamOn s false n &&
    Fd.ethRxsCfgPort.get (regLat s (.ethRxsCfg n)) == e && regLat s (.ethRxsAddr n) == dest &&
    Fd.ethRxsCfgUdp.get (regLat s (.ethRxsCfg n)) == udp && Fd.ethRxsCfgPt.get (regLat s (.ethRxsCfg n)) == pt)

/-- Places the samples of a payload, sample by sample, its channels in order. -/
def placePayload (n nch bps : Nat) (stamp : Word) : Nat → Nat → List Byte → State → State
  | 0, _, _, s => s
  | k + 1, i, bs, s =>
    placePayload n nch bps stamp k (i + 1) (bs.drop bps)
      (placeSample n stamp (i / nch) (i % nch) (sampleWord (bs.take bps)) s)

/-- DESIGN CHOICE: assumption 31. -/
def doMediaPacket (e : Fin 2) (dest : Word) (udp : BitVec 16) (pt : BitVec 7) (stamp : Word) (payload : List Byte)
    (s : State) : State :=
  if !running s || !ethUp s e.val || blockStopped s 114 then s else
  if !frameFits (54 + payload.length) then incRegF s (.ethPortstat e.val) Fd.ethPortstatDrop 1 else
  match matchStream s e.val dest udp.toNat pt.toNat with
  | none => s
  | some n =>
    let nch := nchOf (regLat s (.ethRxsMap n))
    let bps := sampleBytes (Fd.ethRxsCfgFmt.get (regLat s (.ethRxsCfg n)))
    let k := payload.length / (nch * bps)
    noteHeld (64 + n) ((stamp.toNat + Fd.ethRxsMapOffset.get (regLat s (.ethRxsMap n))) % 2 ^ 32) k
      (placePayload n nch bps stamp (k * nch) 0 payload s)

/-- Publishes the samples of a stream that are due in the running tick. -/
def publishDue (n : Nat) (due : SMap Word) (s : State) : State :=
  due.foldl (fun t y => publishSample n (y.1 % 64) y.2 t) s

/-- How many ticks lie between the running tick and a held sample's. -/
def ticksTo (s : State) (key : Nat) : Nat := (key / 64 + 2 ^ 32 - (mediaCount s).toNat % 2 ^ 32) % 2 ^ 32

/-- A stream's held samples of the tick that has opened are published, while the stream runs and its port is up. -/
def publishStream (n : Nat) (s : State) : State :=
  let m := rxOf s n
  if streamOn s false n && ethUp s (Fd.ethRxsCfgPort.get (regLat s (.ethRxsCfg n))) then
    publishDue n (m.filter (fun y => ticksTo s y.1 == 0)) (setRx s n (m.filter (fun y => ticksTo s y.1 != 0)))
  else s

/-- Streams at a tick edge, after their samples of the tick are published: those that no coming tick will take, and those of
stopped streams, are dropped. -/
def streamEdge (s : State) : State :=
  s.eth.rx.foldl (fun t x =>
    setRx t x.1 (if streamOn t false x.1 then
      (rxOf t x.1).filter (fun y => decide (1 ≤ ticksTo t y.1) && decide (ticksTo t y.1 ≤ 511)) else [])) s

/-- Publishes what one frame holds for the tick that has opened: a Maldex frame, a TDM frame, or the samples of a packet. -/
def publishOne (s : State) (k : Nat × Nat × Nat) : State :=
  if k.1 < 32 then publishHeld k.1 s
  else if k.1 < 64 then publishTdm (k.1 - 32) s
  else if ((mediaCount s).toNat + 2 ^ 32 - k.2.1) % 2 ^ 32 < k.2.2 then publishStream (k.1 - 64) s else s

/-- Whether a packet covers a tick still to come. -/
def stillHeld (s : State) (k : Nat × Nat × Nat) : Bool :=
  decide (64 ≤ k.1) && decide (1 ≤ (k.2.1 + k.2.2 + 2 ^ 32 - 1 - (mediaCount s).toNat % 2 ^ 32) % 2 ^ 32) &&
    decide ((k.2.1 + k.2.2 + 2 ^ 32 - 1 - (mediaCount s).toNat % 2 ^ 32) % 2 ^ 32 ≤ 1023)

/-- Frames held over the edge are injected in order of frame completion (R106). -/
def heldEdge (s : State) : State :=
  let t := s.stage.order.foldl publishOne { s with eth := { s.eth with now := [] } }
  streamEdge (tdmEdge { t with stage := { t.stage with held := [], order := t.stage.order.filter (stillHeld t) } })

/-- Receive streams with a channel that has not arrived by the deadline count MISS. -/
def streamDeadline (s : State) : State :=
  (List.range 64).foldl (fun t n =>
    if streamOn t false n && (List.range (nchOf (regLat t (.ethRxsMap n)))).any (fun c => !t.eth.now.contains (64 * n + c)) then
      incRegF t (.ethRxsCnt n) Fd.ethRxsCntMiss 1
    else t) s

/-! ### Transmit streams (R339) -/

def getTxs (s : State) (n : Nat) : TxStream := s.eth.tx.get n {}
def modTxs (s : State) (n : Nat) (f : TxStream → TxStream) : State :=
  { s with eth := { s.eth with tx := s.eth.tx.set n (f (getTxs s n)) {} } }

/-- The big-endian bytes of a sample: the top bytes of its word. -/
def sampleOut (bps : Nat) (w : Word) : List Byte := (wordBytes w).reverse.take bps

/-- A transmit stream at a stitch: it gathers k ticks from a media count that is a multiple of k. -/
def streamStitch (n : Nat) (s : State) (m : Nat) : State × Nat :=
  let cfg := regLat s (.ethTxsCfg n)
  let k := samplesPer s (Fd.ethRxsCfgPtime.get cfg)
  if !streamOn s true n || k == 0 then (modTxs s n (fun x => { x with vals := [] }), m)
  else
    let mc := mediaCount s
    let first := mc.toNat % k == 0
    let x := getTxs s n
    if !first && (x.vals.isEmpty || mc != x.base + BitVec.ofNat 64 x.vals.length) then (modTxs s n (fun x => { x with vals := [] }), m)
    else
      let map := regLat s (.ethTxsMap n)
      let e := Fd.ethRxsCfgPort.get cfg
      let bps := sampleBytes (Fd.ethRxsCfgFmt.get cfg)
      let entries := (List.range (nchOf map)).map (fun c => reg s (.ethTxch e (Fd.ethRxsMapBase.get map + c)))
      let o := egressChans s false 0 entries
      let ws := ((o.words.zip entries).zipIdx).map (fun y =>
        tdmOut (Fd.mdxTxchFmt.get y.1.2 == 1) (8 * bps) (Config.freeWord (o.free + y.2)) y.1.1)
      let base := if first then mc else x.base
      let vals := (if first then [] else x.vals) ++ [ws]
      let done := vals.length == k
      let t := modTxs { s with free := o.free + ws.length } n (fun x =>
        { x with
          base := base
          vals := if done then [] else vals
          made := if done then some (base.setWidth 32, vals.flatMap (fun l => l.flatMap (sampleOut bps))) else x.made })
      (if o.rejected then incRegF t (.ethTxsCnt n) Fd.ethTxsCntRej 1 else t, noteConc o m)

def streamsStitch (s : State) (m : Nat) : State × Nat :=
  (List.range 64).foldl (fun (x : State × Nat) n => streamStitch n x.1 x.2) (s, m)

/-- At a tick edge the packets that the stitch completed become due; a stopped stream has none (R339, R341). -/
def txEdge (s : State) : State :=
  (List.range 64).foldl (fun t n => modTxs t n (fun x =>
    if streamOn t true n then { x with ready := x.made, made := none } else { x with ready := none, made := none, vals := [] })) s

/-- Whether a port has stream packets due, among the streams below `n`. -/
def packetsDue (s : State) (e n : Nat) : Bool :=
  (List.range n).any (fun i => (getTxs s i).ready.isSome && streamOn s true i && Fd.ethRxsCfgPort.get (regLat s (.ethTxsCfg i)) == e)

/-- The control frames of a port leave, once no stream packet is due before them (R340); one over the limit of R333 is not sent. -/
def sendControl (e : Nat) (s : State) : State :=
  let x := getEth s e
  if x.ctx.isEmpty || !ethUp s e || packetsDue s e 64 then s
  else setRegF (modEth s e (fun y => { y with
    ctx := [], sent := (x.ctx.map (tagFrame (vlanTag s))).filter (fun f => frameFits f.length) })) (.ethCtx e) Fd.ethCtxFull 0

/-- A transmit stream sends its packet by TE + 2.0 µs, the packets of a port in stream-number order (R339). -/
def doStreamPacketTx (n : Fin 64) (s : State) : State :=
  let e := Fd.ethRxsCfgPort.get (regLat s (.ethTxsCfg n.val))
  match (getTxs s n.val).ready with
  | none => s
  | some p =>
    if !streamOn s true n.val || packetsDue s e n.val || decide (4000 < s.tick.cycle) then s
    else sendControl e (modTxs s n.val (fun x => { x with ready := none, sent := if ethUp s e then some (vlanTag s, p) else x.sent }))

/-! ### Network time (R334–R336) -/

/-- A received PTP event message: its timestamp, and on the PTP port the offset it completes. -/
def doPtpMessage (e : Fin 2) (stamp : BitVec 64) (offset : Option Word) (state : Fin 3) (s : State) : State :=
  if !ethUp s e.val || blockStopped s 114 then s else
  let t := { s with eth := { s.eth with stampRx := stamp } }
  if regF s .ethPtpcfg Fd.ethPtpcfgPort ≠ e.val then t else
  let master := state.val == 2 && regF s .ethPtpcfg Fd.ethPtpcfgSlaveonly == 1
  let t1 := setRegF t .ethPtpstat Fd.ethPtpstatState (if master then 0 else state.val)
  match offset with
  | none => t1
  | some o =>
    let a := o.toInt.natAbs
    let t2 := setReg { t1 with eth := { t1.eth with
      good := if a ≤ 250 then t1.eth.good + 1 else 0
      bad := if 1000 < a then t1.eth.bad + 1 else 0 } } .ethPtpofs o
    if 4 ≤ t2.eth.bad ∧ regF t2 .ethPtpstat Fd.ethPtpstatLocked = 1 then ptpUnlock t2 else t2

/-- The PTP profile of VAL18 (R36): 0 the IEEE 1588 default, 1 AES67, 2 ST 2059-2, 3 IEEE 802.1AS. -/
def ptpProfile (s : State) : Nat := (strap s 18 - 1) % 4

/-- The engine sends an event message: its timestamp, and in one-step mode the correctionField, the time from the origin time
that the message carries to its departure, in units of 2^−16 ns. DEDUCED: assumption 31. -/
def doPtpEventTransmit (stamp origin : BitVec 64) (s : State) : State :=
  if !ethUp s (regF s .ethPtpcfg Fd.ethPtpcfgPort) then s else
  let one := regF s .ethPtpcfg Fd.ethPtpcfgOnestep == 1
  { s with eth := { s.eth with
    stampTx := stamp
    corrTx := if one then (stamp - origin) * 2 ^ 15 else 0
    noSum := one && decide (ptpProfile s < 3) } }

/-- A write of ETH_PTPCFG: an interval outside the profile's range is reserved, and the last valid value stays in force; a clock made
slave-only while it is master goes back to listening (R334).
DESIGN CHOICE: assumption 31. -/
def ptpcfgWrite (x : Writer) (v : Word) (s : State) : State :=
  let t := plainWrite x .ethPtpcfg v s
  if !owns x (.world .prg) then t else
  let keep (f : Fld) (ann : Bool) (w : Word) : Word :=
    if Config.ptpRange (ptpProfile s) ann (BitVec.ofNat 4 (f.get v)) then w else f.putN w (regEffF s .ethPtpcfg f)
  let w := keep Fd.ethPtpcfgLogann true (keep Fd.ethPtpcfgLogsync false (reg t .ethPtpcfg))
  let u : State := { t with eff := t.eff.set (Creg.addr .ethPtpcfg) w (Creg.resetWord .ethPtpcfg) }
  if regF u .ethPtpcfg Fd.ethPtpcfgSlaveonly = 1 ∧ regF u .ethPtpstat Fd.ethPtpstatState = 2 then setRegF u .ethPtpstat Fd.ethPtpstatState 0 else u

/-! ### Control traffic (R340) -/

def beNat (bs : List Byte) : Nat := bs.foldl (fun n b => 256 * n + b.toNat) 0

/-- Offset of the EtherType, past one 802.1Q tag. -/
def typeAt (bs : List Byte) : Nat := if beNat ((bs.drop 12).take 2) = 0x8100 then 16 else 12
def etherType (bs : List Byte) : Nat := beNat ((bs.drop (typeAt bs)).take 2)

/-- Destination address and port of a UDP datagram over IPv4, and the RTP payload type it would carry. -/
def udpDest (bs : List Byte) : Option (Nat × Nat × Nat) :=
  let ip := bs.drop (typeAt bs + 2)
  let ihl := 4 * (beNat (ip.take 1) % 16)
  let udp := ip.drop ihl
  if etherType bs = 0x0800 ∧ beNat ((ip.drop 9).take 1) = 17 ∧ 8 ≤ udp.length then
    some (beNat ((ip.drop 16).take 4), beNat ((udp.drop 2).take 2), beNat ((udp.drop 9).take 1) % 128)
  else none

/-- Whether the PTP engine or an enabled receive stream takes a frame. -/
def frameTaken (s : State) (e : Nat) (bs : List Byte) : Bool :=
  let ieee := ptpProfile s == 3
  (ieee && etherType bs == 0x88F7) ||
  match udpDest bs with
  | some (ip, port, pt) => (!ieee && (port == 319 || port == 320)) || (matchStream s e (BitVec.ofNat 32 ip) port pt).isSome
  | none => false

/-- The MAC address of a port. -/
def macOf (s : State) (e : Nat) : Nat := (reg s (.ethMacLo e)).toNat + 2 ^ 32 * regF s (.ethMacHi e) Fd.ethMacHiMac

/-- Shows the head of the receive queue. -/
def showCrx (e : Nat) (s : State) : State :=
  let q := (getEth s e).crx
  setRegF (setRegF s (.ethCrx e) Fd.ethCrxLevel q.length) (.ethCrx e) Fd.ethCrxLen (q.headD []).length

/-- A control frame is received, its bytes without the frame check sequence. DESIGN CHOICE: assumption 31. -/
def doControlFrame (e : Fin 2) (bs : List Byte) (fcs : Bool) (s : State) : State :=
  if !ethUp s e.val || blockStopped s 114 then s
  else if !fcs then incRegF s (.ethPortstat e.val) Fd.ethPortstatFcserr 1
  else if etherType bs = 0x8808 then incRegF s (.ethPortstat e.val) Fd.ethPortstatPause 1
  else if frameTaken s e.val bs then s
  else
    let dest := beNat (bs.take 6)
    let q := (getEth s e.val).crx
    if (dest = macOf s e.val ∨ dest = 0xFFFFFFFFFFFF) ∧ frameFits bs.length ∧ q.length < 32 then
      showCrx e.val (modEth s e.val (fun x => { x with crx := q ++ [bs] }))
    else incRegF s (.ethPortstat e.val) Fd.ethPortstatDrop 1

/-- A write of ETH_CRXe: POP removes the head frame. -/
def crxWrite (x : Writer) (e : Nat) (v : Word) (s : State) : State :=
  let t := plainWrite x (.ethCrx e) v s
  if owns x (.world .prg) ∧ Fd.ethCrxPop.get v = 1 then showCrx e (modEth t e (fun y => { y with crx := y.crx.tail })) else t

/-- A word of a receive window: the head frame's bytes. -/
def crxWord (s : State) (e off : Nat) : Word :=
  let f := ((getEth s e).crx.headD []).drop off
  BitVec.ofNat 32 (leNat (f.take 4))

/-- A write of a transmit window word. -/
def ctxWindow (x : Writer) (e off : Nat) (v : Word) (s : State) : State :=
  if owns x (.world .prg) then modEth s e (fun y => { y with win := y.win.set off v 0 }) else raisePriv s x (0x0F0510A400 + 0x1000 * e + off)

/-- A write of ETH_CTXe: SEND queues the frame in the window unless 8 frames wait. -/
def ctxWrite (x : Writer) (e : Nat) (v : Word) (s : State) : State :=
  let t := plainWrite x (.ethCtx e) v s
  let q := (getEth t e).ctx
  if owns x (.world .prg) ∧ Fd.ethCtxSend.get v = 1 ∧ q.length < 8 then
    let bytes := ((List.range 384).flatMap (fun i => wordBytes ((getEth t e).win.get (4 * i) 0))).take (regF t (.ethCtx e) Fd.ethCtxLen)
    setRegF (modEth t e (fun y => { y with ctx := q ++ [bytes] })) (.ethCtx e) Fd.ethCtxFull (if q.length = 7 then 1 else 0)
  else t

/-- At a tick edge, control frames leave unless stream packets are due before them. -/
def ctxEdge (s : State) : State := sendControl 1 (sendControl 0 (txEdge s))

/-- An Ethernet link goes up or down (R333). -/
def doEthLinkChange (e : Fin 2) (up : Bool) (s : State) : State :=
  if up && (regF s .kprClkStat Fd.kprClkStatSdsEth == 0 || regF s (.ethPortstat e.val) Fd.ethPortstatMode == 0 || regF s .ethCfg Fd.ethCfgEn / 2 ^ e.val % 2 == 0) then s
  else setRegF s (.ethPortstat e.val) Fd.ethPortstatLink (if up then 1 else 0)

def execMediaPacket (e : Fin 2) (dest : Word) (udp : BitVec 16) (pt : BitVec 7) (stamp : Word) (payload : List Byte) (s : State) : Out :=
  .next (doMediaPacket e dest udp pt stamp payload s)
def execPtpMessage (e : Fin 2) (stamp : BitVec 64) (offset : Option Word) (state : Fin 3) (s : State) : Out :=
  .next (doPtpMessage e stamp offset state s)
def execPtpEventTransmit (stamp origin : BitVec 64) (s : State) : Out := .next (doPtpEventTransmit stamp origin s)
def execStreamEnable (x : Writer) (tx : Bool) (n : Fin 64) (v : Word) (s : State) : Out :=
  .next (withAccess x (Creg.addr (if tx then .ethTxsCfg n.val else .ethRxsCfg n.val)) (some v) (streamCfgWrite x tx n.val v) s)
def execStreamPacketTx (n : Fin 64) (s : State) : Out := .next (doStreamPacketTx n s)
def execControlFrame (e : Fin 2) (bytes : List Byte) (fcs : Bool) (s : State) : Out := .next (doControlFrame e bytes fcs s)
def execPop (w : World) (e : Fin 2) (s : State) : Out := .next (withAccess (.cur w) (Creg.addr (.ethCrx e.val)) (some 0x08000000) (crxWrite (.cur w) e.val 0x08000000) s)
def execCtxSend (w : World) (e : Fin 2) (v : Word) (s : State) : Out := .next (withAccess (.cur w) (Creg.addr (.ethCtx e.val)) (some v) (ctxWrite (.cur w) e.val v) s)
def execEthLinkChange (e : Fin 2) (up : Bool) (s : State) : Out := .next (doEthLinkChange e up s)

end Sys2Proof.Machine
end

