-- ==== Sys2Proof/Machine/PanelSerial.lean ====
section
/-! DEFINITION. Panel pins (R342–R349) and serial ports (R350–R358). -/

namespace Sys2Proof.Machine

/-! ### Panel pins -/

def getPin (s : State) (k : Nat) : PanelPin := s.panel.pin.get k {}
def modPin (s : State) (k : Nat) (f : PanelPin → PanelPin) : State :=
  { s with panel := { s.panel with pin := s.panel.pin.set k (f (getPin s k)) {} } }
def pinMode (s : State) (k : Nat) : Nat := regF s (.pnlCfg k) Fd.pnlCfgMode
def pinWorld (s : State) (k : Nat) : World := World.ofNum (regF s (.pnlCfg k) Fd.pnlCfgWorld)
def panelQueue (s : State) (w : World) : List Word := s.panel.evq.get w.num []
def setPanelQueue (s : State) (w : World) (q : List Word) : State :=
  setRegF { s with panel := { s.panel with evq := s.panel.evq.set w.num q [] } } (.pnlEvstat w.num) Fd.pnlEvstatLevel q.length

/-- Queues a panel event of a pin, or drops it and counts it in OVF (R349). -/
def panelEvent (k ty value : Nat) (s : State) : State :=
  let w := pinWorld s k
  let q := panelQueue s w
  if 32 ≤ q.length then incRegF s (.pnlEvstat w.num) Fd.pnlEvstatOvf 1 else
  let t := setPanelQueue s w (q ++ [BitVec.ofNat 32 (ty + 256 * k + 65536 * (value % 65536))])
  if q.length = regF t (.pnlEvstat w.num) Fd.pnlEvstatThresh then setRegF t (.pnlEvstat w.num) Fd.pnlEvstatEvirq 1 else t

/-- The level that the panel drives on a pin (R342): GPIO output, open drain and the LED sink, whose pulse is high impedance for
part of its period unless DUTY is 0. -/
def pinDriven (s : State) (k : Nat) : Option Bool :=
  match pinMode s k with
  | 2 => some (regF s (.pnlCfg k) Fd.pnlCfgOut == 1)
  | 3 => if regF s (.pnlCfg k) Fd.pnlCfgOut = 0 then some false else none
  | _ => none

/-- Whether a pin has its internal pull-up (R342). -/
def pinPulled (s : State) (k : Nat) : Bool := pinMode s k == 4 || pinMode s k == 6

/-- The part of a 1.024 ms period, in 1/256, during which a pin sinks current (R348). -/
def pinSinks (s : State) (k : Nat) : Nat := if pinMode s k = 7 then regF s (.pnlCfg k) Fd.pnlCfgDuty else 0

/-- IN shows the pin's level: what the panel drives, else what stands on it from outside. DESIGN CHOICE: assumption 32. -/
def showPin (k : Nat) (s : State) : State :=
  setRegF s (.pnlCfg k) Fd.pnlCfgIn (if (pinDriven s k).getD (getPin s k).ext then 1 else 0)

/-- A change of a button or jack pin is accepted (R345, R347). -/
def acceptPin (k : Nat) (active : Bool) (s : State) : State :=
  let t := modPin s k (fun p => { p with active := active, run := 0, holding := active })
  if pinMode s k = 6 then
    let u := panelEvent k (if active then 6 else 7) 0 t
    match jackOfPin u k with
    | some g => jackChange g u
    | none => u
  else panelEvent k (if active then 1 else 3) 0 t

/-- One pin at a sample (R344): IN, and the debounce of a button or jack pin. -/
def samplePin (levels : Word) (k : Nat) (s : State) : State :=
  let lv := levels.getLsbD k
  let t := showPin k (modPin s k (fun p => { p with ext := lv }))
  if ¬(pinMode s k = 4 ∨ pinMode s k = 6) then t else
  let active := lv == (regF s (.pnlCfg k) Fd.pnlCfgPol == 1)
  let p := getPin s k
  if active == p.active then modPin t k (fun p => { p with run := 0 })
  else if 8 * (regF s (.pnlCfg k) Fd.pnlCfgDeb + 1) ≤ p.run + 1 then acceptPin k active t
  else modPin t k (fun p => { p with run := p.run + 1 })

/-- DESIGN CHOICE: assumption 32. -/
def doPanelSample (levels : Word) (s : State) : State :=
  if !s.power.up then s else (List.range 32).foldl (fun t k => samplePin levels k t) s

/-- A button has been held for its hold time after its press event. -/
def doButtonHeld (k : Fin 32) (s : State) : State :=
  let p := getPin s k.val
  if s.power.up ∧ pinMode s k.val = 4 ∧ p.active ∧ p.holding then
    panelEvent k.val 2 0 (modPin s k.val (fun p => { p with holding := false }))
  else s

/-- A burst of a touch pair ends (R346). -/
def doTouchBurst (j : Fin 16) (count : Fin 4096) (s : State) : State :=
  let k := 2 * j.val
  if !s.power.up ∨ pinMode s k ≠ 5 then s else
  let t := setRegF (setRegF s (.pnlTch j.val) Fd.pnlTchCount count.val) (.pnlTch j.val) Fd.pnlTchOvr (if count.val = 4095 then 1 else 0)
  let level := regF s (.pnlTch j.val) Fd.pnlTchBase - count.val
  let last := (getPin s k).level
  if 2 ^ regF s (.pnlTch j.val) Fd.pnlTchHyst ≤ max level last - min level last then
    panelEvent k 5 level (modPin t k (fun p => { p with level := level }))
  else t

/-- A panel write is refused with an error bit of world `w`. -/
def pinRefuse (s : State) (w : World) (f : Fld) (k : Nat) : State :=
  setRegF (raiseBit s (.pnlErr w.num) f) (.pnlErr w.num) Fd.pnlErrPin k

/-- Claims or frees a pin's register. -/
def pinClaim (k : Nat) (w : World) (claimed : Bool) (s : State) : State :=
  setRegF (setRegF s (.pnlCfg k) Fd.pnlCfgWorld (if claimed then w.num else 0)) (.pnlCfg k) Fd.pnlCfgClaimed (if claimed then 1 else 0)

/-- A write of PNL_CFGk (R343, R508); OUT takes effect at once (R348). The keeper core claims nothing: its write of MODE 5, which would
claim the pair's free pin, is ignored. DESIGN CHOICE: assumption 32. -/
def pnlCfgWrite (x : Writer) (k : Nat) (v : Word) (s : State) : State :=
  let free := regF s (.pnlCfg k) Fd.pnlCfgClaimed == 0
  let ow := pinWorld s k
  let w := rights x ow
  let mode := Fd.pnlCfgMode.get v
  let old := pinMode s k
  let odd := k % 2 == 1
  if !free && w != ow then raisePriv (pinRefuse s w Fd.pnlErrClaimed k) x (Creg.addr (.pnlCfg k))
  else if x == .kpr && ((free && mode != 0) || (mode == 5 && old != 5)) then s
  else if mode = 6 ∧ w = .prg then pinRefuse s w Fd.pnlErrWorld k
  else if (odd && pinMode s (k - 1) == 5) || (mode == 5 && (odd || (old != 5 && regF s (.pnlCfg (k + 1)) Fd.pnlCfgClaimed == 1))) then
    pinRefuse s w Fd.pnlErrPair k
  else if mode ≠ old ∧ (jackOfPin s k).isSome then pinRefuse s w Fd.pnlErrLinked k
  else
    let t := plainWrite x (.pnlCfg k) v s
    let t1 := showPin k (if mode = old then t else modPin t k (fun p => { ext := p.ext }))
    let t2 := if mode = 5 then pinClaim (k + 1) w true t1 else if old = 5 then pinClaim (k + 1) w false t1 else t1
    if mode = 0 then pinClaim k w false t2 else if free then pinClaim k w true t2 else t2

/-- The oldest panel event of a world, removed. -/
def pnlEvqPop (q : World) (s : State) : State := setPanelQueue s q (panelQueue s q).tail

/-! ### Serial ports -/

def getUart (s : State) (n : Nat) : Uart := s.uart.get n {}
def modUart (s : State) (n : Nat) (f : Uart → Uart) : State := { s with uart := s.uart.set n (f (getUart s n)) {} }
def serBit (s : State) (n : Nat) (f : Fld) : Bool := regF s (.serCfg n) f == 1

/-- Whether SCLK runs the UARTs: not in a reset, nor in Deep sleep until a wake restarts KRC (R11, R358, R454). -/
def serClock (s : State) : Bool :=
  !s.power.off && !s.power.inReset && (s.power.sleep != 2 || s.power.wake || s.power.waking)

/-- RTS as it stands (R356): the driver enable in RS-485 mode, from before a start bit until a character ends with nothing left to
send; flow control otherwise. -/
def showRts (n : Nat) (s : State) : State :=
  let u := getUart s n
  if serBit s n Fd.serCfgRs485 then
    let due := !u.tx.isEmpty && serBit s n Fd.serCfgEn && (!serBit s n Fd.serCfgBrk || regF s (.serFlow n) Fd.serFlowRts == 1)
    setRegF s (.serFlow n) Fd.serFlowRts (if u.shift.isSome || due then 1 else 0)
  else if !serBit s n Fd.serCfgFlow then s
  else if regF s (.serFlow n) Fd.serFlowRtshi ≤ u.rx.length then setRegF s (.serFlow n) Fd.serFlowRts 0
  else if u.rx.length ≤ regF s (.serFlow n) Fd.serFlowRtslo then setRegF s (.serFlow n) Fd.serFlowRts 1
  else s

/-- A receive or transmit queue takes its new length, with RXIRQ or TXIRQ when the level reaches its threshold from
below (R354). -/
def setRxQueue (n : Nat) (q : List Word) (s : State) : State :=
  let old := (getUart s n).rx.length
  let t := setRegF (modUart s n (fun u => { u with rx := q })) (.serLvl n) Fd.serLvlRxlvl q.length
  let thr := regF s (.serLvl n) Fd.serLvlRxthr
  showRts n (if old < q.length ∧ q.length = thr then setRegF t (.serStat n) Fd.serStatRxirq 1 else t)
def setTxQueue (n : Nat) (q : List Byte) (s : State) : State :=
  let old := (getUart s n).tx.length
  let t := setRegF (modUart s n (fun u => { u with tx := q })) (.serLvl n) Fd.serLvlTxfree (16 - q.length)
  let thr := regF s (.serLvl n) Fd.serLvlTxthr
  if q.length < old ∧ 16 - q.length = thr then setRegF t (.serStat n) Fd.serStatTxirq 1 else t

/-- The odd parity of a byte's bits. -/
def parityOf (d : Byte) : Bool := (List.range 8).foldl (fun b i => b != d.getLsbD i) false

/-- The bits of a character on the line (R350): start, 7 or 8 data bits from the least significant, parity, 1 or 2 stop bits. -/
def charBits (s : State) (n : Nat) (b : Byte) : List Bool :=
  let len := if serBit s n Fd.serCfgDbits then 7 else 8
  let d := BitVec.ofNat 8 (b.toNat % 2 ^ len)
  let par := match regEffF s (.serCfg n) Fd.serCfgPar with
    | 0 => []
    | 2 => [!parityOf d]
    | _ => [parityOf d]
  [false] ++ (List.range len).map (fun i => d.getLsbD i) ++ par ++ List.replicate (if serBit s n Fd.serCfgStop2 then 2 else 1) true

/-- Whether SERn_TXD is held low by BRK: from the end of the current character until BRK is cleared (R357). -/
def txdBreak (s : State) (n : Nat) : Bool := serBit s n Fd.serCfgBrk && (getUart s n).shift.isNone

/-- A character starts when the shifter is free: the port enabled, no break sent, CTS asserted under flow control. -/
def startTx (n : Nat) (s : State) : State :=
  let u := getUart s n
  let cts := !(serBit s n Fd.serCfgFlow && !serBit s n Fd.serCfgRs485) || regF s (.serFlow n) Fd.serFlowCts == 1
  match u.shift, u.tx with
  | none, b :: r =>
    if serClock s && serBit s n Fd.serCfgEn && !serBit s n Fd.serCfgBrk && cts then
      showRts n (setTxQueue n r (modUart s n (fun u => { u with shift := some (charBits s n b), txDiv := regEffF s (.serBaud n) Fd.serBaudDiv })))
    else s
  | _, _ => s

/-- A complete character reaches a receiver that listens (R351, R353, R357). DESIGN CHOICE: assumption 32. -/
def doReceiveCharacter (n : Fin 4) (c : RxChar) (s : State) : State :=
  let u := getUart s n.val
  let driving := serBit s n.val Fd.serCfgRs485 && regF s (.serFlow n.val) Fd.serFlowRts == 1
  let div := if c.back = 0 then regEffF s (.serBaud n.val) Fd.serBaudDiv else u.divs.getD (c.back - 1) u.rxDiv
  if !serClock s || blockStopped s (120 + n.val) then s else
  if !serBit s n.val Fd.serCfgEn || regF s (.serStat n.val) Fd.serStatHeld == 1 || driving || (u.broke && !c.gap) then s else
  if u.wake && decide (div < 3200) then modUart s n.val (fun u => { u with wake := false }) else
  let data := if serBit s n.val Fd.serCfgDbits then c.data &&& 0x7F else c.data
  let pmode := regEffF s (.serCfg n.val) Fd.serCfgPar
  let two := serBit s n.val Fd.serCfgStop2
  let brk := data == 0 && !c.stop && (!two || !c.stop2) && (pmode == 0 || !c.par)
  let pe := pmode != 0 && (c.par != (parityOf data != (pmode == 2)))
  let fe := !c.stop || (two && !c.stop2)
  let item := BitVec.ofNat 32 (if brk then 2 ^ 10 + (if u.wake then 2 ^ 11 else 0)
    else data.toNat + (if pe then 2 ^ 8 else 0) + (if fe then 2 ^ 9 else 0) + (if u.wake then 2 ^ 11 else 0))
  let t := modUart s n.val (fun u => { u with wake := false, idle := true, rxDiv := div, divs := [], broke := brk })
  let t1 := if brk then setRegF t (.serStat n.val) Fd.serStatBrkirq 1
    else if pe || fe then incRegF t (.serStat n.val) Fd.serStatErrs 1 else t
  let left := if c.read then u.rx.tail else u.rx
  if 16 ≤ left.length then incRegF t1 (.serStat n.val) Fd.serStatOvr 1
  else setRxQueue n.val (left ++ [item]) t1

/-- A transmitter finishes its character and may start the next. -/
def doTransmitCharacter (n : Fin 4) (s : State) : State :=
  if !serClock s then s else
  match (getUart s n.val).shift with
  | none => s
  | some b => startTx n.val (showRts n.val (modUart s n.val (fun u => { u with shift := none, sent := some b })))

/-- A write of SER_DATAn: a character is queued, or discarded and counted. -/
def serDataWrite (x : Writer) (n : Nat) (v : Word) (s : State) : State :=
  let t := plainWrite x (.serData n) v s
  if !owns x (regOwner s (.serData n)) || blockStopped s (120 + n) then t else
  let q := (getUart s n).tx
  if 16 ≤ q.length then incRegF t (.serStat n) Fd.serStatTxovf 1
  else startTx n (showRts n (setTxQueue n (q ++ [BitVec.ofNat 8 v.toNat]) t))

/-- A read of SER_DATAn removes the oldest receive item. -/
def serDataRead (n : Nat) (s : State) : State := setRxQueue n (getUart s n).rx.tail s

/-- What a read of SER_DATAn returns. -/
def serDataWord (s : State) (n : Nat) : Word :=
  match (getUart s n).rx with
  | [] => 0x80000000
  | x :: _ => x

/-- No start bit has come for TOUT character times (R355). -/
def doReceiveTimeout (n : Fin 4) (s : State) : State :=
  let u := getUart s n.val
  if serClock s ∧ u.idle ∧ u.rx ≠ [] ∧ regF s (.serFlow n.val) Fd.serFlowTout ≠ 0 ∧ regF s (.serStat n.val) Fd.serStatHeld = 0 then
    setRegF (modUart s n.val (fun u => { u with idle := false })) (.serStat n.val) Fd.serStatToirq 1
  else s

/-- A line low for more than 32 character times is held, and a held line high for one character time is released. -/
def doLineHeld (n : Fin 4) (s : State) : State :=
  if serClock s && serBit s n.val Fd.serCfgEn then setRegF s (.serStat n.val) Fd.serStatHeld 1 else s
def doHeldClear (n : Fin 4) (s : State) : State :=
  if serClock s then setRegF (modUart s n.val (fun u => { u with broke := false })) (.serStat n.val) Fd.serStatHeld 0 else s

/-- SERn_CTS changes level; a waiting character starts when it falls. -/
def doCtsChange (n : Fin 4) (low : Bool) (s : State) : State :=
  startTx n.val (setRegF s (.serFlow n.val) Fd.serFlowCts (if low then 1 else 0))

/-- A write of SER_CFGn or SER_FLOWn. -/
def serCfgWrite (x : Writer) (n : Nat) (v : Word) (s : State) : State :=
  let t := plainWrite x (.serCfg n) v s
  let flows (x : State) : Bool := serBit x n Fd.serCfgFlow && !serBit x n Fd.serCfgRs485
  let u := if flows t && !flows s then
      setRegF t (.serFlow n) Fd.serFlowRts (if (getUart t n).rx.length < regF t (.serFlow n) Fd.serFlowRtshi then 1 else 0) else t
  startTx n (showRts n (if owns x (regOwner s (.serCfg n)) then modUart u n (fun y => { y with conf := true }) else u))
/-- A write of SER_BAUDn takes effect in each direction at its next start bit (R352). -/
def serBaudWrite (x : Writer) (n : Nat) (v : Word) (s : State) : State :=
  let t := plainWrite x (.serBaud n) v s
  let old := regEffF s (.serBaud n) Fd.serBaudDiv
  if old = regEffF t (.serBaud n) Fd.serBaudDiv then t else modUart t n (fun u => { u with divs := old :: u.divs })
def serFlowWrite (x : Writer) (n : Nat) (v : Word) (s : State) : State := showRts n (plainWrite x (.serFlow n) v s)

def execPanelSample (levels : Word) (s : State) : Out := .next (doPanelSample levels s)
def execButtonHeld (k : Fin 32) (s : State) : Out := .next (doButtonHeld k s)
def execTouchBurst (j : Fin 16) (count : Fin 4096) (s : State) : Out := .next (doTouchBurst j count s)
def execPnlCfgWrite (x : Writer) (k : Fin 32) (v : Word) (s : State) : Out := .next (withAccess x (Creg.addr (.pnlCfg k.val)) (some v) (pnlCfgWrite x k.val v) s)
def execPnlEvqRead (w q : World) (s : State) : Out := .next (withAccess (.cur w) (Creg.addr (.pnlEvq q.num)) none (pnlEvqPop q) s)
def execReceiveCharacter (n : Fin 4) (c : RxChar) (s : State) : Out := .next (doReceiveCharacter n c s)
def execTransmitCharacter (n : Fin 4) (s : State) : Out := .next (doTransmitCharacter n s)
def execSerDataWrite (x : Writer) (n : Fin 4) (v : Word) (s : State) : Out := .next (withAccess x (Creg.addr (.serData n.val)) (some v) (serDataWrite x n.val v) s)
def execSerDataRead (w : World) (n : Fin 4) (s : State) : Out := .next (withAccess (.cur w) (Creg.addr (.serData n.val)) none (serDataRead n.val) s)
def execReceiveTimeout (n : Fin 4) (s : State) : Out := .next (doReceiveTimeout n s)
def execLineHeld (n : Fin 4) (s : State) : Out := .next (doLineHeld n s)
def execHeldClear (n : Fin 4) (s : State) : Out := .next (doHeldClear n s)
def execSerBaudWrite (x : Writer) (n : Fin 4) (v : Word) (s : State) : Out := .next (withAccess x (Creg.addr (.serBaud n.val)) (some v) (serBaudWrite x n.val v) s)
def execCtsChange (n : Fin 4) (low : Bool) (s : State) : Out := .next (doCtsChange n low s)

end Sys2Proof.Machine
end

