-- ==== Sys2Proof/Machine/Vitrine.lean ====
section
/-! DEFINITION. The vitrine (R386–R393): handles, sealed blobs, quotes, certificates, and the TRU_CMD registers. -/

namespace Sys2Proof.Machine

/-- Whether a range lies in data regions of a world (R291, R389). -/
def dataRange (s : State) (w : World) (a n : Nat) : Bool :=
  (List.range ((a + n + 31) / 32 - a / 32)).all (fun i =>
    match regionOf s (32 * (a / 32 + i)) with
    | some r => regionWorld s r == w && regLatF s (.memRgnAttr r) Fd.memRgnAttrType == 1
    | none => false)

/-- The words of a write that lies in one granule of ring headers: the device side's index words go to their engine, the others keep
their values (R367). -/
def landHeader (core a : Nat) (bs : List Byte) (s : State) : State :=
  (List.range 8).foldl (fun t i =>
    let x := granule a + 4 * i
    match (if a ≤ x ∧ x + 4 ≤ a + bs.length then headerWord t x else none) with
    | some (h, r, k) => indexLanded h r k core (BitVec.ofNat 32 (leNat ((bs.drop (x - a)).take 4))) t
    | none => t) s

/-- A bulk write by the device side for a core: memory, and ring headers (R283, R284, R367). -/
def deviceWrite (core a : Nat) (bs : List Byte) (s : State) : State :=
  (pieces (bs.length + 1) a bs.length).foldl (fun t p =>
    let b := pieceBytes a bs p
    if (headerWord t (granule p.1)).isSome then landHeader core p.1 b t else (gddrWrite t p.1 b [] []).2) s

/-- A bulk read by the device side: the bytes, with what a ring header does not hold read as 0 (R367); none where a granule is
detected-uncorrectable (R282). -/
def deviceRead (s : State) (a n : Nat) : Option (List Byte) × State :=
  match readSpan s a n with
  | (some bs, t) => (some (hideHeader s a bs), t)
  | (none, t) => (none, t)

/-- A curator's bulk transfer of `n` granules, or the granules `left` of it from an earlier tick. What the BULK folio does not cover
waits for the next edge as the request `hold`, and the operation `f` completes with its last granule (R246, R257). -/
def bulkMove (left : Option Nat) (w : World) (n : Nat) (hold : Nat → HeldReq) (f : State → State) (s : State) : State :=
  let want := left.getD n
  let lim := regLatF s (.bdgCur w.num) Fd.bdgCurBulk
  let room := if running s && lim != 0xFFFF then lim - s.budget.bulk.get w.num 0 else want
  let part := min want room
  let t := if running s then { s with budget := { s.budget with bulk := bumpMap s.budget.bulk w.num part } } else s
  if want ≤ room then f t
  else holdReq (hold (want - part)) { t with budget := { t.budget with heldCur := NSet.add t.budget.heldCur w.num } }

def truStatus (w : World) (n : Nat) (s : State) : State := setRegF s (.truCmd w.num) Fd.truCmdStatus n
def truSrc (s : State) (w : World) : Nat := 256 * (reg s (.truSrc w.num)).toNat
def truDst (s : State) (w : World) : Nat := 256 * (reg s (.truDst w.num)).toNat

/-- A vitrine command ends: what it has made is written, and BUSY clears (R389). -/
def truFinish (w : World) (s : State) : State :=
  let o := s.trust.out.get w.num {}
  let t := deviceWrite (coreKey (.curator w)) (truDst s w) o.bytes { s with trust := { s.trust with out := s.trust.out.set w.num {} {} } }
  let t1 := match o.len with | some n => setRegF t (.truLen w.num) Fd.truLenLen n | none => t
  setRegF (truStatus w o.status t1) (.truCmd w.num) Fd.truCmdBusy 0

/-- A vitrine command that moves `n` granules: it forms its result at the moment of the command, and BUSY shows 1 while a part of the
transfer waits (R389, R393). -/
def truMove (w : World) (op n : Nat) (o : TruOut) (s : State) : State :=
  bulkMove none w n (fun m => .bulk w op m) (truFinish w)
    (setRegF { s with trust := { s.trust with out := s.trust.out.set w.num o {} } } (.truCmd w.num) Fd.truCmdBusy 1)

/-- A command goes on with the bytes of its source. One with a granule that is detected-uncorrectable ends there, with nothing written
and its STATUS as it was: DESIGN CHOICE: assumption 14. -/
def truRead (a n : Nat) (f : List Byte → State → State) (s : State) : State :=
  match deviceRead s a n with
  | (some bs, t) => f bs t
  | (none, t) => t

def getHandle (s : State) (w : World) (e : Nat) : Handle := s.trust.handles.get (64 * w.num + e) {}
def setHandle (s : State) (w : World) (e : Nat) (h : Handle) : State :=
  { s with trust := { s.trust with handles := s.trust.handles.set (64 * w.num + e) h {} } }

/-- The entry that a world's HDL names, if its handle is good (R388). -/
def handleOf (s : State) (w : World) : Option (Nat × Handle) :=
  let h := regF s (.truHdl w.num) Fd.truHdlHandle
  let x := getHandle s w (h % 64)
  if x.used ∧ x.gen = h / 64 then some (h % 64, x) else none

/-- DERIVE (R385, R387). -/
def truDerive (w : World) (s : State) : State :=
  let a := reg s (.truArg w.num)
  if (reg s (.truAcc (1 + w.num))).toNat < a.toNat then truStatus w 3 s
  else match (List.range 64).find? (fun e => !(getHandle s w e).used) with
    | none => truStatus w 6 s
    | some e =>
      let g := (getHandle s w e).gen
      let t := setHandle s w e ⟨true, g, regF s (.truCmd w.num) Fd.truCmdPurpose, a⟩
      truStatus w 0 (setRegF t (.truHdl w.num) Fd.truHdlHandle (64 * g + e))

/-- The header of a sealed blob (R390). -/
def blobHeader (s : State) (w : World) (x : Handle) (iv : List Byte) (n : Nat) : List Byte :=
  [0x5A#8, 0x4E, 0x53, 0x4C, 1, BitVec.ofNat 8 w.num, BitVec.ofNat 8 x.purpose, debugByte s] ++ wordBytes x.acc ++ iv ++
    leBytes 4 n ++ List.replicate 4 0

/-- SEAL (R390). -/
def truSeal (w : World) (s : State) : State :=
  match handleOf s w with
  | none => truStatus w 2 s
  | some (_, x) =>
    let n := regF s (.truLen w.num) Fd.truLenLen
    if n = 0 ∨ 16777216 < n then truStatus w 8 s
    else if !dataRange s w (truSrc s w) n || !dataRange s w (truDst s w) (n + 0x30) then truStatus w 4 s
    else truRead (truSrc s w) n (fun plain s =>
      let (rnd, t) := drawRandom s
      let key := sealKey t w x.purpose x.acc
      let iv := rnd.take 12
      let head := blobHeader t w x iv n
      let blob := head ++ fixLen n (Config.gcmCipher key iv head plain) ++ fixLen 16 (Config.gcmTag key iv head plain)
      truMove w 2 (granules (truSrc t w) n + granules (truDst t w) (n + 0x30)) ⟨0, blob, none⟩ t) s

/-- Whether the header of a sealed blob is one of a handle's: MAGIC, WORLD, PURPOSE and ACCESSION (R389). -/
def blobFits (w : World) (x : Handle) (head : List Byte) : Bool :=
  leNat (head.take 4) == 0x4C534E5A && (head.getD 5 0).toNat == w.num && (head.getD 6 0).toNat == x.purpose &&
    leNat ((head.drop 8).take 4) == x.acc.toNat

/-- OPEN: the plain text is written only after the tag checks, and only then does its write move data (R389). -/
def truOpen (w : World) (s : State) : State :=
  match handleOf s w with
  | none => truStatus w 2 s
  | some (_, x) =>
    let b := truSrc s w
    if !dataRange s w b 0x20 then truStatus w 4 s
    else truRead b 0x20 (fun head s =>
      let n := leNat ((head.drop 0x18).take 4)
      if !blobFits w x head then truStatus w 7 s
      else if n = 0 ∨ 16777216 < n then truStatus w 8 s
      else if !dataRange s w b (n + 0x30) || !dataRange s w (truDst s w) n then truStatus w 4 s
      else truRead b (n + 0x30) (fun blob s =>
        let key := sealKey s w x.purpose x.acc
        let iv := (head.drop 0x0C).take 12
        let plain := fixLen n (Config.gcmPlain key iv head ((blob.drop 0x20).take n))
        if fixLen 16 (Config.gcmTag key iv head plain) ≠ blob.drop (0x20 + n) then truMove w 3 (granules b (n + 0x30)) ⟨5, [], none⟩ s
        else truMove w 3 (granules b (n + 0x30) + granules (truDst s w) n) ⟨0, plain, some n⟩ s) s) s

/-- DESTROY (R388): the entry is freed and its generation advances. -/
def truDestroy (w : World) (s : State) : State :=
  match handleOf s w with
  | none => truStatus w 2 s
  | some (e, x) => truStatus w 0 (setHandle s w e { used := false, gen := (x.gen + 1) % 1024, purpose := 0, acc := 0 })

/-- The body of a quote (R393). -/
def quoteBody (s : State) (w : World) (nonce : List Byte) : List Byte :=
  let b (f : Fld) : Nat := regF s .truBoot f
  let flags := b Fd.truBootVerified + 2 * b Fd.truBootFastwake + 4 * debugLevel s + 16 * b Fd.truBootKpatch + 32 * b Fd.truBootIdbad
  [0x5A#8, 0x4E, 0x41, 0x51] ++ leBytes 2 1 ++ leBytes 2 flags ++ leBytes 8 s.tick.count.toNat ++ nonce ++
    [0, 1, 2].flatMap (fun k => wordBytes (reg s (.truAcc k))) ++
    [s.trust.slot] ++ identData s 1 2 ++ [BitVec.ofNat 8 (strap s 23)] ++ identData s 0x10 16 ++
    [0, 1, 2].flatMap (fun k => wordBytes (reg s (.kprStrapEff k))) ++ [BitVec.ofNat 8 w.num, 0, 0, 0] ++
    coldigBytes s ++ bootPublic s

/-- QUOTE (R393): the body is that of the moment of the command. -/
def truQuote (w : World) (s : State) : State :=
  if !dataRange s w (truSrc s w) 32 || !dataRange s w (truDst s w) 17248 then truStatus w 4 s
  else truRead (truSrc s w) 32 (fun nonce s =>
    let body := quoteBody s w nonce
    truMove w 5 (granules (truSrc s w) 32 + granules (truDst s w) 17248)
      ⟨0, body ++ fixLen 17088 (Config.slhSign true s.trust.seed body), none⟩ s) s

/-- CERT and IDPUB (R389, R392): bytes of the identity, while its key is usable. -/
def truIdent (w : World) (op : Nat) (bs : List Byte) (s : State) : State :=
  if !s.trust.ident then truStatus w 9 s
  else if !dataRange s w (truDst s w) bs.length then truStatus w 4 s
  else truMove w op (granules (truDst s w) bs.length) ⟨0, bs, none⟩ s

/-- Runs an operation (R389): a sealed vitrine refuses every operation but QUOTE; a reserved OP does nothing. -/
def truRun (w : World) (op : Nat) (s : State) : State :=
  if op = 5 then truQuote w s
  else if op = 0 ∨ 7 < op then s
  else if !s.trust.vitrine then truStatus w 1 s
  else match op with
    | 1 => truDerive w s
    | 2 => truSeal w s
    | 3 => truOpen w s
    | 4 => truDestroy w s
    | 6 => truIdent w 6 s.trust.cert s
    | _ => truIdent w 7 (identPublic s) s

/-- Whether a vitrine command of a world runs: it takes no other, and its registers take no write (R389). -/
def truBusy (s : State) (w : World) : Bool := regF s (.truCmd w.num) Fd.truCmdBusy == 1

/-- A write of TRU_CMDw. -/
def truCmdWrite (x : Writer) (w : World) (v : Word) (s : State) : State :=
  let t := plainWrite x (.truCmd w.num) v s
  if owns x (.world w) ∧ Fd.truCmdGo.get v = 1 ∧ !truBusy s w then truRun w (regEffF t (.truCmd w.num) Fd.truCmdOp) t else t

/-- A write of TRU_HDLw, ARGw, SRCw, DSTw or LENw. -/
def truArgWrite (x : Writer) (w : World) (r : Creg) (v : Word) (s : State) : State :=
  if truBusy s w && owns x (.world w) then s else plainWrite x r v s

/-- A vitrine command that the BULK folio held goes on at a tick edge, with `left` granules to move. -/
def truResume (w : World) (op left : Nat) (s : State) : State :=
  bulkMove (some left) w left (fun m => .bulk w op m) (truFinish w) s

/-- A curator starts an operation of its world: OP, GO, and PURPOSE. -/
def truStart (w : World) (op : Nat) (purpose : Byte) (s : State) : State :=
  let v := BitVec.ofNat 32 (op + 16 + 65536 * purpose.toNat)
  withAccess (.cur w) (Creg.addr (.truCmd w.num)) (some v) (truCmdWrite (.cur w) w v) s

def execDerive (w : World) (purpose : Byte) (s : State) : Out := .next (truStart w 1 purpose s)
def execVitrineSeal (w : World) (s : State) : Out := .next (truStart w 2 0 s)
def execVitrineOpen (w : World) (s : State) : Out := .next (truStart w 3 0 s)
def execDestroy (w : World) (s : State) : Out := .next (truStart w 4 0 s)
def execQuote (w : World) (s : State) : Out := .next (truStart w 5 0 s)
def execCert (w : World) (s : State) : Out := .next (truStart w 6 0 s)
def execIdpub (w : World) (s : State) : Out := .next (truStart w 7 0 s)

end Sys2Proof.Machine
end

