-- ==== Sys2Proof/Machine/FlashOps.lean ====
section
/-! DEFINITION. The flash array's commands (R398–R420): channels and their rights, the option records, the activation
log, lowering, and the FLS registers. -/

namespace Sys2Proof.Machine

/-- The inactive slot (R409): 1 A, 2 B. -/
def inactiveSlot (s : State) : Nat := if regF s .flsStat Fd.flsStatActive = 2 then 1 else 2
/-- The slot that a block belongs to; 0 for none (R399). -/
def blockSlot (b : Nat) : Nat := if b < 112 then 1 else if 128 ≤ b ∧ b < 240 then 2 else 0
def claimCh (s : State) : Nat := regF s .flsStat Fd.flsStatClaimch
/-- The level that a PROT byte decodes to (R49). -/
def protOf (b : Byte) : Nat := if b = 0xAA then 0 else if b = 0xCC then 2 else 1
def mfgLock (s : State) : Bool := (fuse s 0x100).getLsbD 7

/-- Whether a slot is the frozen source of a replacement (R476). -/
def frozenSlot (s : State) (n : Nat) : Bool := n != 0 && s.live.world.isSome && s.live.slot == n

/-- Whether the keeper core fetches from a bank: one of the eight instructions of its fetch queue, from its pc on, or what its loop
buffer holds lies in the bank's part of the read window (R404, R185). DEDUCED: assumption 38. -/
def keeperFetches (s : State) (k : Nat) : Bool :=
  let c := getCore s .keeper
  let inBank (a : Nat) : Bool := inFlashPc a && (a - 0x80000000) / 0x2000000 == k
  (List.range 8).any (fun i => inBank (c.pc.toNat + 2 * i)) ||
    (match c.lbuf with | some (lo, hi) => inBank lo || inBank (hi - 1) | none => false)

/-- The rights of a channel on a block for PROGRAM or ERASE (R401, R51, R404): 0, or RANGE, LEVEL or BUSY_SELF. DEDUCED: assumption 38. -/
def flashRights (s : State) (c b : Nat) (erase : Bool) : Nat :=
  let n := blockSlot b
  let busySelf := if c = 0 ∧ keeperFetches s (b / 128) then 3 else 0
  if n ≠ 0 then
    if frozenSlot s n then 4
    else if c = 0 then busySelf
    else if n = inactiveSlot s ∧ claimCh s = c then 0 else 4
  else if c ≠ 0 then 4
  else if b = 126 ∨ b = 127 then (if erase ∧ protLevel s = 2 then 6 else busySelf)
  else if 254 ≤ b then (if mfgLock s then 4 else busySelf)
  else busySelf

/-- The world of a curator channel. -/
def chanWorld (c : Nat) : World := if c = 1 then .prg else .grd

/-- Whether a source range may be read by a channel (R402). -/
def sourceOk (s : State) (c a n : Nat) : Bool :=
  let data := if c = 0 then dataRange s .prg a n || dataRange s .grd a n else dataRange s (chanWorld c) a n
  let own := c == 0 && ((decide (localBase .keeper ≤ a) && decide (a + n ≤ localBase .keeper + 0x8000)) ||
    (decide (retBase ≤ a) && decide (a + n ≤ retBase + 0x10000)))
  data || own

/-- A command goes on with the bytes of its source; one that reads detected-uncorrectable is refused with SOURCE (R402). -/
def sourceRead (c a n : Nat) (f : List Byte → State → State) (s : State) : State :=
  match deviceRead s a n with
  | (some bs, t) => f bs t
  | (none, t) => flashDone c 9 t

/-- A curator's source read of whole granules is charged to its BULK folio: what it does not cover waits for the next edge, with
the command BUSY (R246, R257). -/
def sourceMove (left : Option Nat) (c op bytes : Nat) (f : State → State) (s : State) : State :=
  if c = 0 then f s else bulkMove left (chanWorld c) (bytes / 32) (fun m => .flash c op m) f s

/-! ### Records -/

/-- Whether the granule of an address reads without an uncorrectable binder-code error (R50). -/
def readsGood (s : State) (a : Nat) : Bool :=
  match readOutcome (s.poison.contains (granule a)) (upsetsAt s a) with
  | .bad _ _ => false
  | _ => true

/-- Whether a page is stable-good (R408): programmed, not unstable, and without a detected-uncorrectable granule. -/
def pageGood (s : State) (p : Nat) : Bool :=
  s.flash.prog.contains p && !s.flash.undef.contains p && (markedIn s (pageAddr p) 4096).all (readsGood s)

/-- The IEEE CRC over the first 60 bytes agrees with the last four of 64. -/
def crcOk (r : List Byte) : Bool := crc32 (r.take 60) == leNat ((r.drop 60).take 4)

/-- The option record on a page, if valid (R50). -/
def optionAt (s : State) (p : Nat) : Option (List Byte) :=
  let r := memBytes s (pageAddr p) 64
  if pageGood s p ∧ leNat (r.take 4) = 0x424F4E5A ∧ crcOk r then some r else none

def recSeq (r : List Byte) : Nat := leNat ((r.drop 4).take 4)

/-- The better of two records by SEQ; of two valid records with equal SEQ, on which R50 is silent, the one on the lower page.
DESIGN CHOICE: assumption 38. -/
def newer (a b : Option (List Byte)) : Option (List Byte) :=
  match a, b with
  | some x, some y => if recSeq x < recSeq y then some y else some x
  | none, y => y
  | x, none => x

/-- The option record in force (R50). -/
def findOption (s : State) : Option (List Byte) :=
  (List.range 128).foldl (fun o i => newer o (optionAt s (126 * 64 + i))) none

/-- The 64 bytes that stand for the defaults of R50. -/
def defaultOption : List Byte :=
  [0x5A#8, 0x4E, 0x4F, 0x42] ++ leBytes 4 0 ++ [0xFF, 0, 0xFF, 0xFF] ++ leBytes 4 0xFFFF000A ++ leBytes 4 0xFFFF000A ++
    leBytes 4 0xFFFF000A ++ List.replicate 40 0xFF

def optionInForce (s : State) : List Byte := s.flash.opt.getD defaultOption

/-- A watchdog word of an option record, and its BOOT byte, whole: a reserved bit of a field is part of it. -/
def optWdg (r : List Byte) (w : Nat) : Nat := leNat ((r.drop (0x0C + 4 * w)).take 4)
def optBoot (r : List Byte) : Nat := (r.getD 9 0).toNat

/-- A record with its SEQ and CRC. -/
def sealOption (r : List Byte) (seq : Nat) : List Byte :=
  let b := r.take 4 ++ leBytes 4 seq ++ (r.drop 8).take 52
  b ++ leBytes 4 (crc32 b)

/-- OPTION (R411). DEDUCED: assumption 38. -/
def flashOption (left : Option Nat) (c : Nat) (s : State) : State :=
  let a := 256 * (reg s (.flsSrc c)).toNat
  if c = 0 then flashDone c 4 s
  else if !sourceOk s c a 64 then flashDone c 9 s
  else sourceMove left c 7 64 (sourceRead c a 64 (fun r s =>
    let f := optionInForce s
    let other := 1 - (chanWorld c).num
    if optWdg r other ≠ optWdg f other ∨ optWdg r 2 ≠ optWdg f 2 ∨ (c = 2 ∧ optBoot r ≠ optBoot f) then flashDone c 10 s
    else if protOf (r.getD 8 0) < protLevel s then flashDone c 6 s
    else if (optionPage s).isNone then flashDone c 6 s
    else flashPush { ch := c, reg := true, ops := [.append (sealOption r (recSeq f + 1))], left := 1 } s)) s

/-! ### The activation log (R413–R416) -/

/-- An activation record (R413) without its CRC. -/
def actRecord (s : State) (slot seq : Nat) : List Byte :=
  let b := slotBaseAddr slot
  let r := [0x5A#8, 0x4E, 0x41, 0x52] ++ leBytes 4 seq ++ [BitVec.ofNat 8 slot, 0xFF, 0xFF, 0xFF] ++ leBytes 4 (bundleTotal s b) ++
    [0, 1, 2].flatMap (fun k => wordBytes (bundleAcc s b k)) ++ digestBytes (Config.sha256 (memBytes s b (bundleTotal s b)))
  r ++ leBytes 4 (crc32 r)

/-- The seal of a record. -/
def actSeal (r : List Byte) (seq : Nat) : List Byte :=
  let x := [0x5A#8, 0x4E, 0x41, 0x53] ++ leBytes 4 seq ++ digestBytes (Config.sha256 r) ++ List.replicate 20 0xFF
  x ++ leBytes 4 (crc32 x)

/-- The pair at a pair position of the log (page 2i of blocks 112–125), if valid: its SEQ and its slot. -/
def pairAt (s : State) (p : Nat) : Option (Nat × Nat) :=
  let r := memBytes s (pageAddr p) 64
  let x := memBytes s (pageAddr (p + 1)) 64
  let slot := (r.getD 8 0).toNat
  if pageGood s p ∧ pageGood s (p + 1) ∧ leNat (r.take 4) = 0x52414E5A ∧ leNat (x.take 4) = 0x53414E5A ∧ crcOk r ∧ crcOk x ∧
      (slot = 1 ∨ slot = 2) ∧ recSeq r = recSeq x ∧ (x.drop 8).take 32 = digestBytes (Config.sha256 r) then
    some (recSeq r, slot)
  else none

/-- The active pair: page, SEQ, slot. -/
def activePair (s : State) : Option (Nat × Nat × Nat) :=
  (List.range 448).foldl (fun o i =>
    let p := 112 * 64 + 2 * i
    match pairAt s p, o with
    | some (q, n), some (p', q', n') => if q' < q then some (p, q, n) else some (p', q', n')
    | some (q, n), none => some (p, q, n)
    | none, o => o) none

/-- The log block after a block. -/
def logNext (b : Nat) : Nat := if 125 ≤ b then 112 else b + 1

/-- Whether every page of a block is stable-blank. -/
def blockBlank (s : State) (b : Nat) : Bool :=
  (List.range 64).all (fun i => !s.flash.prog.contains (64 * b + i) && !s.flash.undef.contains (64 * b + i))

/-- The operations that append a pair (R414), with the number of them that end the command. -/
def appendPair (s : State) (slot : Nat) : List FlashPrim × Nat :=
  let a := activePair s
  let seq := (match a with | some (_, q, _) => q | none => 0) + 1
  let p := match a with
    | some (p, _, _) => if p % 64 = 62 then 64 * logNext (p / 64) else p + 2
    | none => 112 * 64
  let r := actRecord s slot seq
  let pre := if p % 64 = 0 ∧ !blockBlank s (p / 64) then [FlashPrim.erase (p / 64)] else []
  let post := if p % 64 = 0 then [FlashPrim.erase (logNext (p / 64))] else []
  (pre ++ [.program (4096 * p) r, .program (4096 * (p + 1)) (actSeal r seq)] ++ post, pre.length + 2)

/-- ACTIVATE (R416). -/
def flashActivate (c : Nat) (s : State) : State :=
  let n := regEffF s (.flsAddr c) Fd.flsAddrSlot
  if c = 0 ∨ n ≠ inactiveSlot s ∨ claimCh s ≠ c then flashDone c 4 s
  else
    let b := slotBaseAddr n
    let (v, t) := drawUndef s flashBase 0x4000000
    if !wellFormed v b bundleMax || (verifyBundle v (fuseSnap v) b).1 != 0 then flashDone c 8 t
    else
      let (ops, left) := appendPair v n
      flashPush { ch := c, reg := true, ops := ops, left := left, act := n } t

/-! ### Commands -/

/-- CLAIM and UNCLAIM (R409). -/
def flashClaim (c : Nat) (take : Bool) (s : State) : State :=
  let n := regEffF s (.flsAddr c) Fd.flsAddrSlot
  if c = 0 ∨ n ≠ inactiveSlot s then flashDone c 4 s
  else if take then
    if claimCh s ≠ 0 ∧ claimCh s ≠ c then flashDone c 5 s
    else flashDone c 0 (setRegF s .flsStat Fd.flsStatClaimch c)
  else if claimCh s = c then flashDone c 0 (setRegF s .flsStat Fd.flsStatClaimch 0)
  else flashDone c 4 s

/-- PROGRAM (R401–R403, R51). -/
def flashProgram (left : Option Nat) (c : Nat) (s : State) : State :=
  let off := regF s (.flsAddr c) Fd.flsAddrOffset / 4096 * 4096
  let a := 256 * (reg s (.flsSrc c)).toNat
  let st := flashRights s c (off / 0x40000) false
  if st ≠ 0 then flashDone c st s
  else if !sourceOk s c a 4096 then flashDone c 9 s
  else sourceMove left c 1 4096 (sourceRead c a 4096 (fun data s =>
    let opt := off / 0x40000 = 126 ∨ off / 0x40000 = 127
    if opt ∧ leNat (data.take 4) = 0x424F4E5A ∧ protOf (data.getD 8 0) < protLevel s then flashDone c 6 s
    else flashPush { ch := c, reg := true, ops := [.program off data], left := 1 } s)) s

/-- ERASE. -/
def flashErase (c : Nat) (s : State) : State :=
  let b := regF s (.flsAddr c) Fd.flsAddrOffset / 0x40000
  let st := flashRights s c b true
  if st ≠ 0 then flashDone c st s else flashPush { ch := c, reg := true, ops := [.erase b], left := 1 } s

/-- Runs a command, or goes on with one whose source waits for its last `left` granules; a reserved OP ignores GO (R402), and the
lowering sequence refuses every command (R412). -/
def flashRun (left : Option Nat) (c op : Nat) (s : State) : State :=
  if op = 0 ∨ 7 < op then s else if s.flash.lower ≠ 0 then flashDone c 6 s else
  let t := setRegF s (.flsCmd c) Fd.flsCmdBusy 1
  match op with
  | 1 => flashProgram left c t
  | 2 => flashErase c t
  | 3 => flashPush { ch := c, reg := true, ops := [.blank (regF t (.flsAddr c) Fd.flsAddrOffset / 4096 * 4096)], left := 1 } t
  | 4 => flashActivate c t
  | 5 => flashClaim c true t
  | 6 => flashClaim c false t
  | _ => flashOption left c t

/-- Whether a held request is the source read of a channel's command. -/
def heldFlash (c : Nat) : HeldReq → Bool
  | .flash d _ _ => d == c
  | _ => false

/-- BUSY clears unless the command of the channel waits for the array or for its source. -/
def flashSettle (c : Nat) (s : State) : State :=
  if s.flash.jobs.any (fun j => j.reg && j.ch == c && decide (0 < j.left)) || s.budget.held.any (heldFlash c) then s
  else setRegF s (.flsCmd c) Fd.flsCmdBusy 0

/-- A command whose source the BULK folio held goes on at a tick edge. -/
def flashResume (c op left : Nat) (s : State) : State := flashSettle c (flashRun (some left) c op s)

/-- An UNCLAIM while the channel's command runs: the claim ends and the command goes on (R420). -/
def unclaimBusy (c : Nat) (s : State) : State :=
  if claimCh s = c ∧ c ≠ 0 ∧ regEffF s (.flsAddr c) Fd.flsAddrSlot = inactiveSlot s then setRegF s .flsStat Fd.flsStatClaimch 0 else s

/-- A write of FLS_CMDc: GO is ignored while BUSY, but for an UNCLAIM. DEDUCED: assumption 38. -/
def flsCmdWrite (x : Writer) (c : Nat) (v : Word) (s : State) : State :=
  let busy := regF s (.flsCmd c) Fd.flsCmdBusy = 1
  let t := plainWrite x (.flsCmd c) v s
  if owns x (regOwner s (.flsCmd c)) ∧ Fd.flsCmdGo.get v = 1 ∧ busy ∧ Fd.flsCmdOp.get v = 6 then unclaimBusy c t else
  if owns x (regOwner s (.flsCmd c)) ∧ Fd.flsCmdGo.get v = 1 ∧ !busy then flashSettle c (flashRun none c (Fd.flsCmdOp.get v) t) else t

/-- A write of FLS_ADDRc or FLS_SRCc: ignored while BUSY. -/
def flsArgWrite (x : Writer) (c : Nat) (r : Creg) (v : Word) (s : State) : State :=
  if owns x (regOwner s r) ∧ regF s (.flsCmd c) Fd.flsCmdBusy = 1 then s else plainWrite x r v s

/-- A writer starts an operation of a channel. -/
def flashGo (x : Writer) (c : Fin 3) (op : Nat) (s : State) : State :=
  withAccess x (Creg.addr (.flsCmd c.val)) (some (BitVec.ofNat 32 (op + 16))) (flsCmdWrite x c.val (BitVec.ofNat 32 (op + 16))) s

/-! ### Ends of operations (R405, R407) -/

/-- An operation has its effect. Programming can only clear bits (R398); the granules of a page beyond the data stay blank. A page
programmed a second time, which R403 never lets happen, would have no definite checks: it is undefined. -/
def applyPrim (o : FlashPrim) (s : State) : State :=
  match o with
  | .program off data =>
    let p := off / 4096
    let old := s.flash.prog.contains p
    let bits := if old then (memBytes s (flashBase + off) data.length).zipWith (· &&& ·) data else data
    setBytes { s with flash := { s.flash with
      prog := NSet.add s.flash.prog p, undef := if old then NSet.add s.flash.undef p else s.flash.undef
      short := if old then s.flash.short else SMap.set s.flash.short p ((data.length + 31) / 32) 128 } } (flashBase + off) bits
  | .append _ => s
  | .erase b => clearPages (64 * b) 64 s
  | .blank _ => s

/-- The first page of an operation and their number. -/
def primPages : FlashPrim → Nat × Nat
  | .program off _ => (off / 4096, 1)
  | .append _ => (126 * 64, 0)
  | .erase b => (64 * b, 64)
  | .blank off => (off / 4096, 0)

/-- An operation that did not complete leaves its pages undefined. -/
def undefPrim (o : FlashPrim) (s : State) : State :=
  let (p, n) := primPages o
  { s with flash := { s.flash with undef := NSet.addAll s.flash.undef ((List.range n).map (p + ·)) } }

/-- The index of the job that a bank is carrying out. -/
def runningJob (s : State) (k : Nat) : Option Nat := s.flash.jobs.findIdx? (fun j => j.started && jobBank j == k)

/-- FLS_STAT.ACTIVE follows the activation log (R409, R413); a claim ends when the claimed slot becomes active. -/
def showActive (s : State) : State :=
  let (v, t) := drawUndef s (pageAddr 7168) (14 * 0x40000)
  let n := match activePair v with | some (_, _, n) => n | none => 1
  if regF t .flsStat Fd.flsStatActive = n then t else setRegF (setRegF t .flsStat Fd.flsStatActive n) .flsStat Fd.flsStatClaimch 0

/-- Whether an operation touches the activation log. -/
def inLog (o : FlashPrim) : Bool := decide (112 * 64 ≤ (primPages o).1) && decide ((primPages o).1 < 126 * 64)

/-! ### Lowering (R412) -/

/-- A job of the controller's own. -/
def logJob (ops : List FlashPrim) : FlashJob := { ch := 0, reg := false, log := true, ops := ops, left := 0 }

/-- The lowering sequence goes on when its jobs are done: the erase of blocks 126 and 127; then the erase counters and retained memory
are cleared and the level 0 record is programmed; then it is over. DESIGN CHOICE: assumption 39. -/
def lowerNext (s : State) : State :=
  if s.flash.jobs.any (·.log) then s else
  let phase (n : Nat) (t : State) : State := { t with flash := { t.flash with lower := n } }
  match s.flash.lower with
  | 1 => flashPush (logJob [.erase 126, .erase 127]) (phase 2 s)
  | 2 =>
    let t := (List.range 256).foldl (fun t b => setReg t (.flsEcnt b) 0) s
    let u := showPend { zeroRange t retBase 0x10000 with evidence := {} }
    let f := optionInForce s
    flashPush (logJob [.program (4096 * (126 * 64)) (sealOption (f.take 8 ++ [0xAA] ++ f.drop 9) 1)]) (phase 3 u)
  | 3 => showActive (setRegF (phase 0 { s with flash := { s.flash with evPage := 15360 } }) .flsStat Fd.flsStatLowering 0)
  | _ => s

/-- The lowering sequence starts: commands that wait for the array or for their source are refused with LEVEL, operations already
running complete, and every block other than 126 and 127 is erased, each bank in block order. DESIGN CHOICE: assumption 39. -/
def startLower (s : State) : State :=
  let waits := s.flash.jobs.filter (fun j => j.reg && !j.started && decide (0 < j.left))
  let t := waits.foldl (fun t j => flashDone j.ch 6 t) s
  let t1 := [0, 1, 2].foldl (fun t c => if t.budget.held.any (heldFlash c) then flashDone c 6 t else t) t
  let t2 : State := { t1 with
    flash := { t1.flash with lower := 1, key := 0, jobs := t1.flash.jobs.filter (·.started) }
    budget := { t1.budget with held := t1.budget.held.filter (fun q => !(heldFlash 0 q || heldFlash 1 q || heldFlash 2 q)) } }
  flashPush (logJob ((List.range 128).map (fun i => .erase (128 + i))))
    (flashPush (logJob ((List.range 126).map .erase)) (setRegF t2 .flsStat Fd.flsStatLowering 1))

/-! ### Ends of operations (R405, R407) -/

/-- A job's current operation ends well: its effect, the command's end, and the next operation. DEDUCED: assumption 38. -/
def finishOp (i : Nat) (j : FlashJob) (s : State) : State :=
  match j.ops with
  | [] => s
  | o :: rest =>
    let t := applyPrim o s
    let jobs := if rest.isEmpty then t.flash.jobs.eraseIdx i
      else t.flash.jobs.modify i (fun j => { j with ops := rest, left := j.left - 1, started := false })
    let t1 := { t with flash := { t.flash with jobs := jobs } }
    let t2 := match j.reg || j.log, o with
      | false, .program _ _ =>
        let t2 := { t1 with evidence := { t1.evidence with held := [], due := false } }
        if t1.evidence.due then startPage t2 else t2
      | _, _ => t1
    let t3 := if j.left = 1 ∧ j.reg then
        flashDone j.ch 0 (if j.act = 0 then t2
          else setRegF (setRegF t2 .flsStat Fd.flsStatActive j.act) .flsStat Fd.flsStatClaimch 0)
      else t2
    if j.act = 0 ∧ inLog o then showActive t3 else t3

/-- An array operation completes. -/
def doFlashOperationEnd (k : Fin 2) (s : State) : State :=
  if !flashAlive s then s else
  match runningJob s k.val with
  | none => s
  | some i =>
    match s.flash.jobs[i]? with
    | some j => lowerNext (flashStart (finishOp i j s))
    | none => s

/-- A timed-out operation of the controller's own: an erase of the lowering sequence is made again; any other ends its job, and with
its record the lowering sequence. DESIGN CHOICE: assumption 39. -/
def logTimeout (i : Nat) (o : FlashPrim) (s : State) : State :=
  match s.flash.lower, o with
  | 0, _ => { s with flash := { s.flash with jobs := s.flash.jobs.eraseIdx i } }
  | _, .erase _ => { s with flash := { s.flash with jobs := s.flash.jobs.modify i (fun j => { j with started := false }) } }
  | _, _ => setRegF { s with flash := { s.flash with jobs := s.flash.jobs.eraseIdx i, lower := 0 } } .flsStat Fd.flsStatLowering 0

/-- An array operation reaches its timeout: TIMEOUT, and its page or block is undefined. The erase that follows an evidence page is
still made (R418). -/
def doFlashTimeout (k : Fin 2) (s : State) : State :=
  if !flashAlive s then s else
  match runningJob s k.val with
  | none => s
  | some i =>
    match s.flash.jobs[i]? with
    | some j =>
      match j.ops with
      | o :: rest =>
        let u := undefPrim o s
        let v := if inLog o then showActive u else u
        if j.log then flashStart (logTimeout i o v) else
        let jobs := if j.reg || rest.isEmpty then v.flash.jobs.eraseIdx i
          else v.flash.jobs.modify i (fun j => { j with ops := rest, started := false })
        let t := { v with flash := { v.flash with jobs := jobs } }
        let t1 := if j.reg && decide (0 < j.left) then flashDone j.ch 7 t else t
        match j.reg, o with
        | false, .program _ _ => startPage (restage (flashStart t1))
        | _, _ => flashStart t1
      | [] => s
    | none => s

/-- A write of FLS_LOWER by the keeper core or the TAP: the key words in order, then GO; any other write breaks the sequence. At
level 2 it is refused with LEVEL, which the status of the keeper's channel shows beside a command that runs. -/
def lowerStep (v : Word) (s : State) : State :=
  let k := Fd.flsLowerKey.get v
  let set (n : Nat) : State := { s with flash := { s.flash with key := n } }
  if Fd.flsLowerGo.get v = 1 then
    if s.flash.key ≠ 2 ∨ s.flash.lower ≠ 0 then set 0
    else if protLevel s = 2 then setRegF (set 0) (.flsCmd 0) Fd.flsCmdStatus 6
    else startLower s
  else if k = 0x6A21 then set 1
  else if k = 0x95DE ∧ s.flash.key = 1 then set 2
  else set 0

def flsLowerWrite (x : Writer) (v : Word) (s : State) : State :=
  if x = .kpr then lowerStep v s else plainWrite x .flsLower v s

def execProgram (x : Writer) (c : Fin 3) (s : State) : Out := .next (flashGo x c 1 s)
def execErase (x : Writer) (c : Fin 3) (s : State) : Out := .next (flashGo x c 2 s)
def execBlank (x : Writer) (c : Fin 3) (s : State) : Out := .next (flashGo x c 3 s)
def execActivate (x : Writer) (c : Fin 3) (s : State) : Out := .next (flashGo x c 4 s)
def execClaim (x : Writer) (c : Fin 3) (s : State) : Out := .next (flashGo x c 5 s)
def execUnclaim (x : Writer) (c : Fin 3) (s : State) : Out := .next (flashGo x c 6 s)
def execOption (x : Writer) (c : Fin 3) (s : State) : Out := .next (flashGo x c 7 s)
def execFlashOperationEnd (k : Fin 2) (s : State) : Out := .next (doFlashOperationEnd k s)
def execFlashTimeout (k : Fin 2) (s : State) : Out := .next (doFlashTimeout k s)
def execFlsLowerKey (x : Writer) (key : BitVec 16) (s : State) : Out := .next (withAccess x (Creg.addr .flsLower) (some (key.setWidth 32)) (flsLowerWrite x (key.setWidth 32)) s)
def execLowering (x : Writer) (s : State) : Out := .next (withAccess x (Creg.addr .flsLower) (some 0x10000) (flsLowerWrite x 0x10000) s)

end Sys2Proof.Machine
end

