-- ==== Sys2Proof/Machine/Live.lean ====
section
/-! DEFINITION. Live service (R475–R484): the offer of a replacement, its steps, its end, standalone press patches, and the
RELEASE doorbell (R365, R378, R382). -/

namespace Sys2Proof.Machine

/-- Status codes of TRU_LIVE. -/
def liveStatus (w : World) (n : Nat) (s : State) : State := setRegF s (.truLive w.num) Fd.truLiveStatus n
def livePhase (s : State) (w : World) : Nat := regF s (.truLive w.num) Fd.truLivePhase
def setPhase (w : World) (n : Nat) (s : State) : State := setRegF s (.truLive w.num) Fd.truLivePhase n

/-! ### Comparing bundles -/

/-- The digest of section i of a bundle. -/
def secDigest (s : State) (b i : Nat) : List Byte := memBytes s (colophon s b + 0x60 + 32 * i) 32

/-- The world that a section belongs to; none for the keeper part. -/
def secWorld (s : State) (b : Nat) (x : Section) : Option World :=
  match x.ty with
  | 2 => some .prg
  | 3 => some .grd
  | 4 => some (quireWorld s x.index)
  | 5 => some (World.ofNum (memNat s (b + x.off + 8) 1))
  | 6 => some (World.ofNum x.index)
  | _ => none

/-- Sections of a bundle that pass a test: entry without OFFSET, and digest. -/
def secKeys (s : State) (b : Nat) (t : Section → Bool) : List (Section × List Byte) :=
  (List.range (min 160 (bundleNsec s b))).filterMap (fun i =>
    let x := sectionAt s b i
    if t x then some ({ x with off := 0 }, secDigest s b i) else none)

/-- Whether two bundles agree on the sections that pass a test. -/
def sameSections (s : State) (a b : Nat) (ta tb : Section → Bool) : Bool := secKeys s a ta == secKeys s b tb

/-- Whether a section bears on a quire: an image of it, or a patch that names it. -/
def secOfQuire (s : State) (b q : Nat) (x : Section) : Bool :=
  (x.ty == 4 && x.index == q) || (x.ty == 5 && (patchQuires s (b + x.off)).contains q)

/-- The constant sections of a world that no region of the running image holds already. -/
def newConsts (s : State) (b : Nat) (w : World) : List Section :=
  let run := secKeys s gddrBase (fun x => x.ty == 6 && x.index == w.num)
  (List.range (min 160 (bundleNsec s b))).filterMap (fun i =>
    let x := sectionAt s b i
    if x.ty = 6 ∧ x.index = w.num ∧ !run.contains ({ x with off := 0 }, secDigest s b i) then some x else none)

/-! ### Standalone patches (R169, R482) -/

def isPatch (s : State) (b : Nat) : Bool := memNat s b 4 == 0x50504E5A

/-- Verification of a standalone patch: its colophon follows its words (FAILCODE as R380). DESIGN CHOICE: assumption 36. -/
def verifyPatch (s : State) (b : Nat) : Nat :=
  let n := 32 + 16 * patchCount s b
  let col := b + n
  if memNat s col 4 ≠ 0x4F434E5A ∨ memNat s (col + 4) 2 ≠ 1 then 2
  else if digestBytes (Config.sha256 (memBytes s b n)) ≠ memBytes s (col + 0x60) 32 then 2
  else verifyKey s (fuseSnap s) col 1

/-- Writes a pending patch into the quire's IMGMAP[16] slot; once all 17 slots carry it, it is no longer pending. -/
def patchReserve (q : Nat) (s : State) : State :=
  let slot := imgMap s q 16
  s.live.patches.foldl (fun t p =>
    if p.q ≠ q then t else
    let t1 := slotWritten q slot (patchSlot q slot p.acc p.start p.words t)
    let p1 := { p with slots := NSet.add p.slots slot }
    let others (l : List PendPatch) : List PendPatch := l.filter (fun x => x.q != q)
    let kept := t1.live.kept.filter (fun x => !(x.q == q && x.start == p.start && x.acc == p.acc))
    let pend := if p1.slots.length = 17 then others t1.live.patches else p1 :: others t1.live.patches
    { t1 with live := { t1.live with patches := pend, kept := p1 :: kept } }) s

/-- A standalone patch is offered (R170, R482): the status, and the state when it is accepted. -/
def offerPatch (by_ : Option World) (b : Nat) (s : State) : Nat × State :=
  let qs := patchQuires s b
  let w := World.ofNum (memNat s (b + 8) 1)
  if !patchOk s b then (2, s)
  else if verifyPatch s b ≠ 0 then (3, s)
  else if by_ ≠ none ∧ by_ ≠ some w then (5, s)
  else if s.live.patches.any (fun p => qs.contains p.q) then (1, s)
  else
    let words := memBytes s (b + 32) (16 * patchCount s b)
    (0, qs.foldl (fun t q =>
      patchReserve q { t with live := { t.live with patches := ⟨q, memWord s (b + 4), patchStart s b, words, []⟩ :: t.live.patches } }) s)

/-! ### Offering a bundle (R476) -/

/-- The world whose accession number alone differs from the running one (check 4). -/
def changedWorld (s : State) (b : Nat) : Option World :=
  let d (w : World) : Bool := bundleAcc s b (1 + w.num) != reg s (.truAcc (1 + w.num))
  if d .prg && !d .grd then some .prg else if d .grd && !d .prg then some .grd else none

/-- Whether the keeper part and the other world's part match the running ones (check 6). -/
def othersMatch (s : State) (b : Nat) (w : World) : Bool :=
  bundleAcc s b 0 == reg s (.truAcc 0) &&
    sameSections s b gddrBase (fun x => secWorld s b x != some w) (fun x => secWorld s gddrBase x != some w)

/-- Whether the new constant regions fit (check 7). -/
def constsFit (s : State) (b : Nat) (w : World) : Bool :=
  let new := newConsts s b w
  new.all (fun x => !regionOverlaps s 64 (constRange x).1 (constRange x).2) &&
    decide (new.length ≤ ((List.range 64).filter (fun r => regF s (.memRgnAttr r) Fd.memRgnAttrType == 0)).length)

/-- LIVEQ of a world. -/
def setLiveq (w : World) (qs : List Nat) (s : State) : State :=
  let word (lo : Nat) : Word := BitVec.ofNat 32 ((qs.filter (fun q => decide (lo ≤ q) && decide (q < lo + 32))).foldl (fun n q => n ||| 2 ^ (q - lo)) 0)
  setReg (setReg s (.truLiveqLo w.num) (word 0)) (.truLiveqHi w.num) (word 32)

/-- The quires whose 17 image slots all hold the new image, or whose sections are unchanged. -/
def liveQuires (s : State) (w : World) : List Nat :=
  (List.range 64).filter (fun q => quireWorld s q == w &&
    ((List.range 17).all (fun k => s.live.done.contains (17 * q + k)) ||
      sameSections s s.live.base gddrBase (secOfQuire s s.live.base q) (secOfQuire s gddrBase q)))

/-- A bundle is accepted for the changed world. -/
def acceptBundle (w : World) (slot b : Nat) (v s : State) : State :=
  let new := newConsts s b w
  let (rs, t) := new.foldl (fun (a : NSet × State) x =>
    let (r, u) := claimConst b x a.2
    (match r with | some r => NSet.add a.1 r | none => a.1, u)) ([], s)
  let dig := digestBytes (Config.sha256 (memBytes v b (bundleTotal v b)))
  let lv := { t.live with world := some w, slot := slot, base := b, total := bundleTotal v b, rgns := rs, done := [], digest := dig }
  let t1 := { t with live := lv }
  let cur := sameSections s b gddrBase (fun x => x.ty == 2 + w.num) (fun x => x.ty == 2 + w.num)
  let t2 := setRegF (setPhase w 2 (setLiveq w (liveQuires t1 w) t1)) (.truLive w.num) Fd.truLiveCurdone (if cur then 1 else 0)
  setReg t2 (.truLiveacc w.num) (bundleAcc s b (1 + w.num))

/-- The checks of R476 in order, by a curator or by a RELEASE, on a source that reads as `v` holds it (R407): the status, and the
state when it is accepted. A bundle that fails verification leaves its code in FAILCODE (R382). DEDUCED: assumption 37. -/
def judge (by_ : Option World) (slot b staged : Nat) (v s : State) : Nat × State :=
  let (code, sec) := verifyBundle v (fuseSnap s) b
  if s.live.world.isSome then (1, s)
  else if isPatch v b then offerPatch by_ b s
  else if !wellFormed v b staged then (2, s)
  else if code ≠ 0 then (3, setRegF (setRegF s .truBoot Fd.truBootFailcode code) .truBoot Fd.truBootFailsec sec)
  else match changedWorld v b with
    | none => (4, s)
    | some w =>
      if by_ ≠ none ∧ by_ ≠ some w then (5, s)
      else if !othersMatch v b w then (6, s)
      else if !constsFit v b w then (7, s)
      else (0, acceptBundle w slot b v s)

/-- The source that ACCEPT names: slot and address, none while no staging region is open. -/
def liveSource (s : State) (src : Nat) : Option (Nat × Nat) :=
  if src = 0 then (leadPort s).bind (fun h => (stagingBase s h).map (fun b => (0, b)))
  else some (src, slotBaseAddr src)

/-- An offer enters its checks, which end at VERIFICATION_END; an ACCEPT shows phase 1 in its world's register. -/
def startOffer (o : LiveOffer) (s : State) : State :=
  let t := { s with live := { s.live with offer := some o } }
  match o.world with
  | some w => setRegF (setPhase w 1 t) (.truLive w.num) Fd.truLiveBusy 1
  | none => t

/-- ACCEPT (R476): the first offer to arrive proceeds, and one beside it or beside a replacement is refused with BUSY (R484).
DEDUCED: assumption 37. -/
def liveAccept (w : World) (s : State) : State :=
  if s.live.world.isSome || s.live.offer.isSome then liveStatus w 1 s else
  match liveSource s (regEffF s (.truLive w.num) Fd.truLiveSrc) with
  | none => liveStatus w 2 s
  | some (slot, b) => startOffer ⟨some w, 0, slot, b, bundleMax⟩ s

/-- The status of an offer, to the curator that made it or to the host that wrote RELEASE; an accepted RELEASE shows as an ACCEPT of
the changed world's curator. -/
def tellOffer (o : LiveOffer) (e : Nat) (s : State) : State :=
  match o.world with
  | some w => liveStatus w e s
  | none =>
    if e ≠ 0 then hostShow (modHost s o.port (fun p => { p with relErr := 16 + e }))
    else match s.live.world with
      | some w => liveStatus w 0 s
      | none => s

/-- The checks of an offer end. -/
def endOffer (o : LiveOffer) (s : State) : State :=
  let t := { s with live := { s.live with offer := none } }
  let t1 := match o.world with
    | some w => setRegF (setPhase w 0 t) (.truLive w.num) Fd.truLiveBusy 0
    | none => t
  let (v, t2) := drawUndef t1 o.base o.staged
  let x := decodeAny t2 o.base o.staged
  let (e, t3) := judge o.world o.slot o.base o.staged (x.2.foldl (fun u e => flipBits u e.1 e.2) v) x.1
  tellOffer o e t3

/-- VERIFICATION_END: of a boot's image, or of an offer while the show runs (R380, R382). -/
def doVerificationEnd (s : State) : State :=
  match s.live.offer with
  | some o => endOffer o s
  | none => bootVerified s

/-! ### Steps (R477–R481) -/

/-- Whether a command of a world stands in phase ACCEPTED or APPLYING. -/
def liveOpen (s : State) (w : World) : Bool := s.live.world == some w && (livePhase s w == 2 || livePhase s w == 3)

/-- STEP (R477). -/
def liveStep (w : World) (s : State) : State :=
  let q := regF s (.truLive w.num) Fd.truLiveQuire
  let k := regEffF s (.truLive w.num) Fd.truLiveK
  let busy := (reserveOf s q).isNone || regF s (.qrcStat q) Fd.qrcStatLoading == 1 || regF s (.qrcStat q) Fd.qrcStatRsvRun == 1 ||
    regF s (.qrcHovr q) Fd.qrcHovrArmed == 1
  if !liveOpen s w then liveStatus w 10 s
  else if quireWorld s q ≠ w then liveStatus w 5 s
  else if busy then liveStatus w 8 s
  else
    let slot := imgMap s q 16
    let t := writeSlot s.live.base q slot (if k = 16 then 0 else k) s
    let drop (p : PendPatch) : PendPatch := if p.q = q then { p with slots := p.slots.filter (· != slot) } else p
    let lv := { t.live with done := NSet.add t.live.done (17 * q + slot), kept := t.live.kept.map drop, patches := t.live.patches.map drop }
    let t1 := { t with live := lv }
    liveStatus w 0 (setPhase w 3 (setLiveq w (liveQuires t1 w) t1))

/-- CURATOR (R479): the keeper core asks for the block reset of the curator (R437), which reloads it from the source when the
curator is idle or its timeout has passed (R438); BUSY reads 1 till then. -/
def liveCurator (w : World) (s : State) : State :=
  if !liveOpen s w then liveStatus w 10 s
  else
    let t := setReg s (.kprRstReq 0) (reg s (.kprRstReq 0) ||| (1#32 <<< w.num))
    liveStatus w 0 (setPhase w 3 (setRegF { t with live := { t.live with cur := some w } } (.truLive w.num) Fd.truLiveBusy 1))

/-- The reset that a CURATOR command asked for is over. -/
def curatorLive (w : World) (s : State) : State :=
  setRegF (setRegF { s with live := { s.live with cur := none } } (.truLive w.num) Fd.truLiveBusy 0) (.truLive w.num) Fd.truLiveCurdone 1

/-- The constant sections of a bundle by their range. -/
def constOf (s : State) (b r : Nat) : Option Section :=
  (sections s b).find? (fun x => x.ty == 6 && constRange x == regionRange s r)

/-- FINISH (R480). The accession number that SEQ takes changes with TRU_ACC, so the scanners' expected values of the
world's image slots are written again (R304, R171). DEDUCED: assumption 37. -/
def liveFinish (w : World) (s : State) : State :=
  if !liveOpen s w then liveStatus w 10 s
  else if liveQuires s w ≠ (List.range 64).filter (fun q => quireWorld s q == w) ∨ regF s (.truLive w.num) Fd.truLiveCurdone = 0 then
    liveStatus w 9 s
  else
    let b := s.live.base
    let t := copyChecked s b gddrBase s.live.total
    let consts := (List.range 64).filter (fun r => regF s (.memRgnAttr r) Fd.memRgnAttrType == 2)
    let t1 := consts.foldl (fun t r =>
      match constOf t gddrBase r with
      | some x => setRegF t (.memRgnSrc r) Fd.memRgnSrcOffset x.off
      | none => if World.ofNum (regF t (.memRgnAttr r) Fd.memRgnAttrWorld) = w then regionFree r t else t) t
    let dig := digestBytes (Config.sha256 (colBody t1 gddrBase (bundleNsec t1 gddrBase)))
    let t2 := (List.range 8).foldl (fun u k => setReg u (.truColdig k) (BitVec.ofNat 32 (leNat ((dig.drop (4 * k)).take 4))))
      ([0, 1, 2].foldl (fun u k => setReg u (.truAcc k) (bundleAcc t1 gddrBase k)) t1)
    let t3 := (List.range 64).foldl (fun u e =>
      let h := getHandle u w e
      if h.used then setHandle u w e { used := false, gen := (h.gen + 1) % 1024, purpose := 0, acc := 0 } else u) t2
    let cert := if t3.trust.ident then makeCert t3 else t3.trust.cert
    let t4 := { t3 with trust := { t3.trust with cert := cert, total := s.live.total, slot := BitVec.ofNat 8 (bundleSlot t1 gddrBase), digest := s.live.digest } }
    let t5 := { t4 with live := { patches := t4.live.patches, kept := t4.live.kept } }
    let mine := t5.scan.holds.filter (fun k => quireWorld s (k / 17) == w)
    let t6 := mine.foldl (fun u k => slotWritten (k / 17) (k % 17) u) t5
    liveStatus w 0 (setPhase w 0 (setReg t6 (.truLiveacc w.num) 0))

/-- ABANDON (R481): only in phase ACCEPTED. -/
def liveAbandon (w : World) (s : State) : State :=
  if s.live.world ≠ some w ∨ livePhase s w ≠ 2 then liveStatus w 10 s
  else
    let t := s.live.rgns.foldl (fun t r => regionFree r t) s
    let t1 := { t with live := { patches := t.live.patches, kept := t.live.kept } }
    liveStatus w 0 (setPhase w 0 (setReg t1 (.truLiveacc w.num) 0))

/-- A write of TRU_LIVEw: GO runs OP. -/
def truLiveWrite (x : Writer) (w : World) (v : Word) (s : State) : State :=
  let t := plainWrite x (.truLive w.num) v s
  if !owns x (.world w) ∨ Fd.truLiveGo.get v = 0 ∨ regF s (.truLive w.num) Fd.truLiveBusy = 1 then t
  else match regEffF t (.truLive w.num) Fd.truLiveOp with
    | 1 => liveAccept w t
    | 2 => liveStep w t
    | 3 => liveCurator w t
    | 4 => liveFinish w t
    | 5 => liveAbandon w t
    | _ => t

/-- A curator's command: OP and GO with its operands. -/
def liveGo (w : World) (op : Nat) (s : State) : State :=
  withAccess (.cur w) (Creg.addr (.truLive w.num)) (some (BitVec.ofNat 32 (op + 65536))) (truLiveWrite (.cur w) w (BitVec.ofNat 32 (op + 65536))) s

/-! ### RELEASE (R365, R378, R382) -/

/-- A host writes RELEASE with a bundle's length. DEDUCED: assumption 33. -/
def releaseServe (h : Nat) (len : Word) (s : State) : State :=
  let refuse (n : Nat) : State := hostShow (modHost s h (fun p => { p with relErr := n }))
  let st := bootStage s
  if !isLead s h then refuse 1
  else if len = 0 ∨ bundleMax < len.toNat then refuse 2
  else if st = 1 ∨ st = 2 ∨ s.trust.staging ≠ 0 ∨ s.live.offer.isSome then refuse 3
  else if st = 3 then
    match stagingBase s h with
    | none => refuse 4
    | some b => if s.live.world.isSome then refuse 17 else startOffer ⟨none, h, 0, b, len.toNat⟩ s
  else if st = 0 ∧ s.power.up ∧ (getQuire s 7).raised then releaseBoot len.toNat s
  else s

/-- RELEASE: one that finds the port's credits withheld waits for the next edge (R256). -/
def doRelease (h : Fin 4) (len : Word) (s : State) : State :=
  if !hostOpen s h.val || blockStopped s (115 + h.val) then s
  else if withheld s h.val then holdReq (.release h.val len) s else releaseServe h.val len s

def execVerificationEnd (s : State) : Out := .next (doVerificationEnd s)
def execRelease (h : Fin 4) (len : Word) (s : State) : Out := .next (doRelease h len s)
def execAccept (w : World) (src : Fin 4) (s : State) : Out := .next (liveGo w (1 + 8 * src.val) s)
def execStep (w : World) (q : Fin 64) (k : Fin 32) (s : State) : Out := .next (liveGo w (2 + 32 * q.val + 2048 * k.val) s)
def execCurator (w : World) (s : State) : Out := .next (liveGo w 3 s)
def execFinish (w : World) (s : State) : Out := .next (liveGo w 4 s)
def execAbandon (w : World) (s : State) : Out := .next (liveGo w 5 s)

end Sys2Proof.Machine
end

