-- ==== Sys2Proof/Machine/Straps.lean ====
section
/-! DEFINITION. The strap scan (R31–R42) and what the straps, fuses and option bytes set: registers of the keeper die and
of the main die (R36, R49, R50, R52, R252, R253, R286, R287, R350, R462). -/

namespace Sys2Proof.Machine

/-! ### The scan (R32–R34) -/

/-- The upper bounds of codes 0 to 14, in ohms (R32). -/
def codeBounds : List Nat := [500, 1220, 1820, 2680, 3920, 5760, 8440, 12400, 18200, 26800, 39200, 57600, 84400, 124000, 165000]

/-- The code of a pin whose 16 conversions, in ohms, are `l`: the code whose range holds their average; an average on a
boundary has the lower code (R32, R33). -/
def resistorCode (l : List Nat) : Nat := (codeBounds.filter (fun b => decide (16 * b < l.sum))).length

/-- The code of VALm in one pass: `p` holds the conversions of VAL0 to VAL23 in order. -/
def passCode (p : List (List Nat)) (m : Nat) : Nat := resistorCode (p.getD m [])

/-- The code of a pin from its passes, and whether it is unstable (R33): two passes that agree, else two of three. -/
def majority (a b c : Nat) : Nat × Bool :=
  if a = b then (a, false) else if c = a ∨ c = b then (c, false) else (c, true)

/-- Whether a code of VALm is reserved (R36). -/
def strapReserved (m code : Nat) : Bool :=
  let lo := match m with
    | 1 => 12
    | 4 => 4 | 8 => 4 | 22 => 4
    | 5 => 8 | 21 => 8
    | 6 => 9 | 7 => 9 | 18 => 9
    | _ => 15
  decide (lo ≤ code) && decide (code < 15)

/-- The code in force (R33, R34). -/
def strapEff (m raw : Nat) (unst : Bool) : Nat := if unst || strapReserved m raw then 15 else raw

/-- A word with a value in a bit position for each pin of a list. -/
def packBits (l : List Nat) (f : Nat → Bool) : Word := BitVec.ofNat 32 (l.foldl (fun n m => if f m then n + 2 ^ m else n) 0)

/-- KPR_STRAP_RAWk or EFFk. -/
def packCodes (k : Nat) (f : Nat → Nat) : Word := BitVec.ofNat 32 ((List.range 8).foldl (fun n j => n + f (8 * k + j) * 2 ^ (4 * j)) 0)

/-- The lead-capable ports and the roles of VAL2 and VAL3: the two bits of port h. -/
def roleBits (s : State) (h : Nat) : Nat := strap s (2 + h / 2) / 4 ^ (h % 2) % 4

/-- The lead port that VAL1 names. -/
def namedLead (s : State) : Nat := if strap s 1 = 15 then 0 else strap s 1 % 4

/-- The lead host (R37). -/
def leadHost (s : State) : Option Nat :=
  if roleBits s (namedLead s) = 3 then some (namedLead s) else (List.range 4).find? (fun h => roleBits s h == 3)

/-- Whether VAL18 turns Ethernet off. -/
def ethOff (s : State) : Bool := strap s 18 == 0 || strap s 18 == 15

/-- The debug request of VAL22. -/
def debugRequest (s : State) : Nat := if strap s 22 = 15 then 1 else strap s 22

/-- The fuse DBG_FLOOR (R46). -/
def debugFloor (s : State) : Nat := min 2 ((fuse s 0x100).toNat / 16 % 4)

/-- Whether a watchdog selects KXT: VAL21 codes 0–7, else its option word (R462). -/
def wdgSelKxt (s : State) (w : Nat) : Bool :=
  if strap s 21 < 8 then decide (4 ≤ strap s 21) else optWdg (optionInForce s) w % 2 == 1
/-- The period class of a watchdog. -/
def wdgClass (s : State) (w : Nat) : Nat :=
  if strap s 21 < 8 then strap s 21 % 4 else optWdg (optionInForce s) w / 2 % 4

/-- CLOSE at reset (R462). -/
def classClose (kxt : Bool) (cls : Nat) : Nat :=
  if kxt then [33, 328, 3277, 32768].getD cls 0 else 40000 * 10 ^ cls

/-- The strap scan: the KPR_STRAP registers (R42). LEAD is valid only when NO_LEAD = 0; while NO_LEAD = 1 the model shows 0 in
it, a value the spec does not give. DESIGN CHOICE: assumption 40. -/
def strapScan (p1 p2 p3 : List (List Nat)) (s : State) : State :=
  let code (m : Nat) : Nat × Bool := majority (passCode p1 m) (passCode p2 m) (passCode p3 m)
  let eff (m : Nat) : Nat := strapEff m (code m).1 (code m).2
  let pins := List.range 24
  let t := [0, 1, 2].foldl (fun u k =>
    setReg (setReg u (.kprStrapRaw k) (packCodes k (fun m => (code m).1))) (.kprStrapEff k) (packCodes k eff)) s
  let t1 := setReg t .kprStrapUnst (packBits pins (fun m => (code m).2))
  let t2 := setReg t1 .kprStrapRsvd (packBits pins (fun m => !(code m).2 && strapReserved m (code m).1))
  let b (c : Bool) (n : Nat) : Nat := if c then 2 ^ n else 0
  let kxt := [0, 1, 2].any (wdgSelKxt t2) && regF t2 .kprClkStat Fd.kprClkStatKxtRdy == 0
  let ptp := strap t2 0 == 12 || strap t2 0 == 13 || strap t2 0 == 14
  let dbg := max (protOf ((optionInForce t2).getD 8 0)) (max (debugFloor t2) (debugRequest t2))
  let lead := (leadHost t2).getD 0
  setReg t2 .kprStrapCond (BitVec.ofNat 32 (1 + b (leadHost t2).isNone 1 + b (leadHost t2 != some (namedLead t2) && (leadHost t2).isSome) 2 +
    b (ptp && ethOff t2) 3 + b kxt 4 + b t2.flash.opt.isNone 5 + 256 * dbg + 4096 * lead))

/-! ### Registers of the keeper die -/

/-- Baud of the service UARTs (VAL20). -/
def strapBaud (s : State) : Nat :=
  [9600, 19200, 38400, 57600, 115200, 230400, 460800, 921600, 1000000, 1500000, 2000000, 3000000, 4000000, 6250000, 12500000].getD
    (strap s 20) 115200

/-- The divisor of SERn after reset (R36, R350): the rate of VAL20 on SER0 and SER1, 115,200 baud on SER2 and SER3. -/
def resetDiv (s : State) (n : Nat) : Nat := if n < 2 then (3200000000 + strapBaud s / 2) / strapBaud s else 27778

/-- One watchdog's registers from the straps and the option bytes (R462, R463). -/
def strapWdg (w : Nat) (s : State) : State :=
  let o := optWdg (optionInForce s) w
  let kxt := wdgSelKxt s w && regF s .kprStrapCond Fd.kprStrapCondKxtAbsent == 0
  let close := classClose kxt (wdgClass s w)
  let f (t : State) (fl : Fld) (n : Nat) : State := setRegF t (.kprWdgCtl w) fl n
  let t := f (f (f s Fd.kprWdgCtlEn (o / 8 % 2)) Fd.kprWdgCtlLock (o / 16 % 2)) Fd.kprWdgCtlClk (if kxt then 1 else 0)
  let t1 := f (f t Fd.kprWdgCtlClass (wdgClass s w)) Fd.kprWdgCtlHt (o / 256 % 256)
  let t2 := setRegF t1 (.kprWdgClose w) Fd.kprWdgCloseClose close
  modWatch t2 w (fun x => { x with closeNow := BitVec.ofNat 32 close })

/-- The registers of the keeper die that the straps and the option bytes set. DESIGN CHOICE: assumption 40. -/
def keeperStraps (s : State) : State :=
  let t := (List.range 4).foldl (fun u n => hwField u (.serBaud n) Fd.serBaudDiv (resetDiv s n)) s
  let t1 := [0, 1, 2].foldl (fun u w => strapWdg w u) t
  setRegF t1 .flsStat Fd.flsStatLevel (protOf ((optionInForce s).getD 8 0))

/-! ### Registers of the main die -/

/-- Rate and source of VAL0. -/
def strapTick (s : State) : Nat × Nat :=
  match strap s 0 with
  | 12 => (1, if ethOff s then 0 else 2)
  | 13 => (3, if ethOff s then 0 else 2)
  | 14 => (5, if ethOff s then 0 else 2)
  | 15 => (3, 0)
  | c => (c % 6, c / 6)

/-- Devices, 24 Gb density, 28 Gb/s, of VAL5. -/
def strapMem (s : State) : Nat × Bool × Bool :=
  let c := if strap s 5 = 15 then 2 else strap s 5
  (if c < 4 then 8 else 4, c % 2 == 1, c % 4 ≥ 2)

/-- k of VAL6. -/
def strapDup (s : State) : Nat := if strap s 6 < 9 then strap s 6 else 2

/-- Memory geometry and budgets (R252, R253, R286, R287). -/
def memStraps (s : State) : State :=
  let (c, dens, slow) := strapMem s
  let k := strapDup s
  let g := if dens then 11184810 else 7456540
  let d := g * k / 8
  let top := gddrBase + 256 * (c / 2) * d
  let b2 := 2 * (if slow then 357 else 408) * c / 8
  let cap := pShort s * b2 / 64
  let t := setRegF (setRegF s .memCfg Fd.memCfgChans c) .memCfg Fd.memCfgDens (if dens then 1 else 0)
  let t1 := setRegF (setRegF t .memCfg Fd.memCfgRate (if slow then 1 else 0)) .memCfg Fd.memCfgDupk k
  let t2 := setRegF (setRegF t1 .memGch Fd.memGchCount g) .memGdup Fd.memGdupCount d
  let t3 := setRegF (setRegF t2 .memDuptop Fd.memDuptopAddr (top / 256)) .memTop Fd.memTopAddr ((top + 256 * c * (g - d)) / 256)
  let grd := cap * guardQuires s / 64
  setRegF (setRegF (setRegF t3 .bdgCap Fd.bdgCapMemcap cap) (.bdgShare 1) Fd.bdgShareShare grd) (.bdgShare 0) Fd.bdgShareShare (cap - grd)

/-- PAIRED of Maldex port p (VAL7). -/
def strapPaired (s : State) (p : Nat) : Bool := decide (strap s 7 < 9) && decide (p < 4 * strap s 7)
/-- Whether TDM port t is master (VAL19). -/
def strapMaster (s : State) (t : Nat) : Bool := strap s 19 / 2 ^ (t / 4) % 2 == 0
/-- ROLE of host port h (R37): a lead-capable port that is not the lead acts as a programme guest. -/
def strapRole (s : State) (h : Nat) : Nat := if roleBits s h = 3 then (if leadHost s = some h then 3 else 1) else roleBits s h
/-- MODE of the Ethernet ports (VAL18). -/
def strapEth (s : State) : Nat := if ethOff s then 0 else if strap s 18 < 5 then 1 else 2

/-- The registers of the main die that the straps set, and the activities that follow them (R36, R255). -/
def mainStraps (s : State) : State :=
  let (r, src) := strapTick s
  let t := memStraps (hwField (setRegF s .tckCtl Fd.tckCtlRate r) .tckSrc Fd.tckSrcSel src)
  let t1 := (List.range 32).foldl (fun u p => setRegF u (.mdxStat p) Fd.mdxStatPaired (if strapPaired s p then 1 else 0)) t
  let t2 := (List.range 8).foldl (fun u g =>
    setRegF (setRegF u (.egrGrp g) Fd.egrGrpCode (strap s (9 + g))) (.egrGrp g) Fd.egrGrpEar (if strap s (9 + g) = 14 then 0 else 1)) t1
  let t3 := (List.range 16).foldl (fun u n => hwField u (.tdmCfg n) Fd.tdmCfgMaster (if strapMaster s n then 1 else 0)) t2
  let t4 := [0, 1].foldl (fun u e => setRegF u (.ethPortstat e) Fd.ethPortstatMode (strapEth s)) t3
  let t5 := (List.range 4).foldl (fun u h => setRegF u (.hstStat h) Fd.hstStatRole (strapRole s h)) t4
  let t6 := (List.range 4).foldl (fun u h => setRegF u (.bdgGal h) Fd.bdgGalAct (if hostWorld u h = some .grd then 48 else 0)) t5
  if guardQuires s = 8 then t6 else
  (List.range 1088).foldl (fun u i => setRegF u (.bdgTfolC i) Fd.bdgTfolCAct (if indexWorld s i = .grd then 48 else 0)) t6

end Sys2Proof.Machine
end

