-- ==== Sys2Proof/Machine/Reset.lean ====
section
/-! DEFINITION. Resets (R30, R377, R407, R415, R418, R430–R433), pin states (R44, R435), and the loss of the main die's
power (R11, R27, R432, R452). -/

namespace Sys2Proof.Machine

/-! ### What survives -/

/-- Whether an address lies in a range. -/
def inRange (lo hi a : Nat) : Bool := decide (lo ≤ a) && decide (a < hi)

/-- Registers go back to their reset values: those of a range of addresses, with the copies in force and latched. -/
def dropRegs (lo hi : Nat) (s : State) : State :=
  { s with ctl := s.ctl.filter (fun e => !inRange lo hi e.1)
           eff := s.eff.filter (fun e => !inRange lo hi e.1)
           spine := { s.spine with lat := s.spine.lat.filter (fun e => !inRange lo hi e.1) } }

/-- Whether an address of the folded memory space stays when the main die loses its power: the keeper die's memories, and
GDDR7 where it is held in self-refresh. -/
def keptByte (gddr : Bool) (a : Nat) : Bool := decide (0x0E00100000 ≤ a) || (gddr && inRange gddrBase 0x0A00000000 a)

/-- The main die loses its power (R11, R27, R452): the keeper die's registers, memories, core, UARTs and flash stay. The
status of sources on the main die clears, and its registers take their reset values. -/
def mainDieLost (gddr : Bool) (s : State) : State :=
  let t : State :=
    { pending := s.pending, free := s.free
      ctl := s.ctl.filter (fun e => decide (e.1 < 0x0F01000000))
      eff := s.eff.filter (fun e => decide (e.1 < 0x0F01000000))
      mem := s.mem.filter (fun e => keptByte gddr e.1)
      poison := s.poison.filter (keptByte gddr), upsets := s.upsets.filter (fun e => keptByte gddr e.1)
      cores := s.cores.filter (fun e => e.1 == 1090)
      evidence := s.evidence, uart := s.uart, trust := { fuses := s.trust.fuses, pinMap := s.trust.pinMap }
      flash := s.flash, power := { s.power with up := false }, watch := s.watch }
  let clk := BitVec.ofNat 32 ((reg s .kprClkStat).toNat &&& 5)
  let t0 := setReg (setReg t (.kprPwrQgate 0) 0) (.kprPwrQgate 1) 0
  let t1 := setRegF (setReg t0 .kprClkStat clk) .kprClkStat Fd.kprClkStatRefActive (regF s .kprClkSel Fd.kprClkSelRefsel)
  showPend (mainStraps t1)

/-- The state while a reset holds the device: everything at its reset value but what R430 and R432 keep. An interrupted
array operation leaves its pages undefined (R407). -/
def heldReset (powerOn : Bool) (s : State) : State :=
  let u := s.flash.jobs.foldl (fun t j => match j.started, j.ops with | true, o :: _ => undefPrim o t | _, _ => t) s
  let kept (a : Nat) : Bool := decide (flashBase ≤ a) || (!powerOn && inRange retBase (retBase + 0x10000) a)
  let t : State :=
    { pending := s.pending, free := s.free
      ctl := s.ctl.filter (fun e => inRange 0x0F00071000 0x0F00071400 e.1)
      mem := s.mem.filter (fun e => kept e.1)
      poison := s.poison.filter kept, upsets := s.upsets.filter (fun e => kept e.1)
      evidence := if powerOn then {} else { staged := s.evidence.held ++ s.evidence.staged, due := !s.evidence.held.isEmpty }
      trust := { fuses := s.trust.fuses, pinMap := if powerOn then [] else s.trust.pinMap }
      flash := { prog := u.flash.prog, undef := u.flash.undef, short := u.flash.short, evPage := s.flash.evPage }
      power := { en := [], inReset := true } }
  let z := [.kprStrapRaw 0, .kprStrapRaw 1, .kprStrapRaw 2, .kprStrapEff 0, .kprStrapEff 1, .kprStrapEff 2, .kprStrapUnst,
    .kprStrapRsvd, .kprStrapCond].foldl (fun v r => setReg v r 0) t
  if powerOn then z else setReg z .kprClkStat (BitVec.ofNat 32 ((reg s .kprClkStat).toNat &&& 5))

/-! ### The activation log at boot (R415) -/

/-- Whether four reads find a page blank each time, in a view that has resolved the undefined pages (R408). -/
def stableBlank (s : State) (p : Nat) : Bool := !s.flash.prog.contains p && !s.flash.undef.contains p

/-- A block of the log is erased unless it is stable-blank. -/
def eraseUnlessBlank (s : State) (b : Nat) : List FlashPrim := if blockBlank s b then [] else [.erase b]

/-- The record and the seal that the boot ROM programs. -/
def bootPair (s : State) (b slot seq : Nat) : List FlashPrim :=
  let r := actRecord s slot seq
  [.program (4096 * (64 * b)) r, .program (4096 * (64 * b + 1)) (actSeal r seq)]

/-- The resolution of the activation log under slot rule 0, with FLS_STAT.ACTIVE, PENDRES and ROLLBACK; its writes to the log wait for
the verification of the boot. DESIGN CHOICE: assumption 40. -/
def resolveLog (s0 : State) : State :=
  let (v, s) := drawUndef s0 flashBase 0x4000000
  let a := activePair v
  let active := match a with | some (_, _, n) => n | none => 1
  let show_ (n : Nat) (ops : List FlashPrim) : State :=
    setRegF { s with flash := { s.flash with logOps := ops } } .flsStat Fd.flsStatActive n
  if bootBit s 0 != bootBit s 1 then show_ active [] else
  let tail := match a with
    | some (p, _, _) => if p % 64 = 62 then 64 * logNext (p / 64) else p + 2
    | none => 112 * 64
  if !stableBlank v tail || !stableBlank v (tail + 1) then
    let target := 3 - active
    let good := wellFormed v (slotBaseAddr target) bundleMax && (verifyBundle v (fuseSnap v) (slotBaseAddr target)).1 == 0
    let name := if good then target else active
    let b := logNext (tail / 64)
    let seq := match a with | some (_, q, _) => q + 2 | none => 2
    let t := show_ name (eraseUnlessBlank v b ++ bootPair v b name seq ++ [.erase (logNext b)])
    setRegF (setRegF t .flsStat Fd.flsStatPendres 1) .flsStat Fd.flsStatRollback (if good then 0 else 1)
  else
    match a with
    | some (p, _, _) => show_ active (eraseUnlessBlank v (logNext (p / 64)))
    | none => show_ active []

/-! ### The evidence log at boot (R418) -/

/-- Whether nothing has been written at the stored write point since the log began there: it is page 0 of a block whose predecessor in
rotation is blank too, so that the write point of R418 still lies in the block before. -/
def evUnused (s : State) : Bool :=
  let p := s.flash.evPage
  let blank (q : Nat) : Bool := !s.flash.prog.contains q && !s.flash.undef.contains q
  p % 64 == 0 && blank (if p = 15360 then 16255 else p - 1)

/-- The log begins at page 0 of the block after the one that holds the write point, which is erased first; a log that has
never been written begins where it stands. DEDUCED: assumption 38. -/
def beginEvidence (s : State) : State :=
  if (List.range 896).all (fun i => !s.flash.prog.contains (15360 + i) && !s.flash.undef.contains (15360 + i)) then s
  else
    let b := if evUnused s then s.flash.evPage / 64 else evNextBlock (s.flash.evPage / 64)
    flashPush { ch := 0, reg := false, ops := [.erase b], left := 1 } { s with flash := { s.flash with evPage := 64 * b } }

/-! ### The keeper's sequence (R30, R377) -/

/-- Address of the reset cause word (R433). -/
def causeAddr : Nat := retBase + 0xEFF8

/-- Fuse-map pin entries whose sleep state drives the pin (R455). -/
def drivenPins (s : State) : Nat :=
  ((List.range 128).filter (fun i => let e := (s.trust.pinMap.get i 0).toNat / 8 % 8; e == 3 || e == 4)).length

/-- The pin entries of the fuse map are read and applied (R29, R30): those programmed later act from the next reset (R47). -/
def latchPins (s : State) : State :=
  { s with trust := { s.trust with pinMap := s.trust.fuses.filter (fun e => decide (e.1 < 128)) } }

/-- The sequence from a reset's release to the raising of the rails: fuse map, option bytes, strap scan, keeper core,
activation log, evidence log with a page of the records that were held where one is due or their ring is full (R273, R418), and the
first rail. -/
def bootKeeper (p1 p2 p3 : List (List Nat)) (s : State) : State :=
  let m := latchPins s
  let t := { m with flash := { m.flash with opt := findOption m } }
  let t1 := mainStraps (keeperStraps (strapScan p1 p2 p3 t))
  let t2 := wdgStart 2 (setCore t1 .keeper { on := true })
  let t3 := showPend (beginEvidence (resolveLog t2))
  let t4 := if t3.evidence.due || decide (256 ≤ t3.evidence.staged.length) then startPage t3 else t3
  { t4 with power := { en := [0], driven := drivenPins m } }

/-- POWER_ON (R430): the cause is POR and nothing else (R433). DESIGN CHOICE: assumption 1. DESIGN CHOICE: assumption 40. -/
def doPowerOn (p1 p2 p3 : List (List Nat)) (s : State) : State :=
  bootKeeper p1 p2 p3 (setRegF (setWord (heldReset true s) causeAddr 1) .kprClkStat Fd.kprClkStatKrcRdy 1)

/-- A reset begins for which the device drives nRESET itself (R431); a reset in progress goes on. -/
def driveReset (cause : Nat) (s : State) : State :=
  if s.power.off || s.power.inReset then s
  else let t := heldReset false s; { t with power := { t.power with drive := some cause } }

/-- The cause word after an nRESET reset: the device's own cause, or PIN, or both, and RESETS (R433). -/
def causeWord (own : Option Nat) (pin : Bool) (old : Word) : Word :=
  let n := min 65535 (Fd.kprRstCauseResets.get old + 1)
  BitVec.ofNat 32 ((match own with | some c => 2 ^ c | none => 0) + (if pin then 2 else 0) + 65536 * n)

/-- The device leaves an nRESET reset. -/
def leaveReset (p1 p2 p3 : List (List Nat)) (own : Option Nat) (pin : Bool) (s : State) : State :=
  bootKeeper p1 p2 p3 (setWord s causeAddr (causeWord own pin (memWord s causeAddr)))

/-- NRESET (R431): the end of a reset that the device drives, once KRC runs (R428), or a pulse from outside. Pulses below
500 ns are ignored and those of 2 µs or more are taken; of those between, the spec does not say (assumption 3). DESIGN CHOICE: assumption 40. -/
def doNreset (p1 p2 p3 : List (List Nat)) (ns : Nat) (held : Bool) (s : State) : State :=
  if s.power.off then s
  else if s.power.inReset then
    if regF s .kprClkStat Fd.kprClkStatKrcRdy = 0 then s
    else leaveReset p1 p2 p3 s.power.drive held s
  else if ns < 500 then s
  else
    let t := { s with free := s.free + 1 }
    if ns < 2000 then
      (if Config.freeNat s.free % 2 = 0 then t else leaveReset p1 p2 p3 none true (heldReset false t))
    else leaveReset p1 p2 p3 none true (heldReset false s)

/-- HARD_TIMER_END (R469, R470): the reset is counted in retained memory, and the device drives nRESET. -/
def doHardTimerEnd (w : Fin 3) (s : State) : State :=
  if wdgState s w.val ≠ 2 ∨ s.power.off ∨ s.power.inReset then s
  else driveReset (2 + w.val) (setNat s (wdgCount w.val) (min 65535 (memNat s (wdgCount w.val) 2 + 1)) 2)

/-- VDD_STBY falls through its threshold (R488): the device is off; fuses and flash stay. -/
def doVddStbyLoss (s : State) : State :=
  let t := heldReset true s
  { t with power := { t.power with inReset := false, off := true } }

/-- A write of KPR_RST_ASSERT by the keeper core: the key, then GO (R431). DESIGN CHOICE: assumption 40. -/
def rstAssertWrite (x : Writer) (v : Word) (s : State) : State :=
  if x ≠ .kpr then plainWrite x .kprRstAssert v s
  else if Fd.kprRstAssertGo.get v = 1 then
    (if s.power.key then driveReset 7 s else s)
  else { s with power := { s.power with key := Fd.kprRstAssertKey.get v == 0x3C96 } }

/-! ### Pin states (R44, R435) -/

/-- The states of a fuse-mapped pin (R44). -/
inductive PinState where
  | pullDown | pullUp | noPull | driveLow | driveHigh
deriving DecidableEq, Repr

def pinCode (n : Nat) : PinState :=
  match n with
  | 1 => .pullUp
  | 2 => .noPull
  | 3 => .driveLow
  | 4 => .driveHigh
  | _ => .pullDown

/-- The place of a pin's entry in the fuse map (R43). -/
def pinEntry (p : FusedPin) : Nat :=
  match p with
  | .pnl k => k.val
  | .tdm t i => 32 + 4 * t.val + i.val
  | .hush h => 96 + h.val
  | .wclkIn => 100
  | .wclkOut => 101
  | .tickOut => 102
  | .perst h => 103 + h.val
  | .jtag i => 107 + i.val
  | .ser n i => 112 + 4 * n.val + i.val

/-- Whether a pin belongs to the keeper domain and keeps its function while the main die is unpowered (R27). -/
def keeperPin (p : FusedPin) : Bool := match p with | .ser _ _ => true | _ => false

/-- Whether firmware has configured a pin, so that its function and no longer its entry gives its state (R44): a panel pin by
its claim, a TDM port's by EN, a serial port's by a write of SER_CFGn that leaves EN set, which is no firmware's at reset (R506);
TICK_OUT and WCLK_OUT hold the entry's state until tick start (R65). DESIGN CHOICE: assumption 40. -/
def pinConfigured (s : State) (p : FusedPin) : Bool :=
  match p with
  | .pnl k => regF s (.pnlCfg k.val) Fd.pnlCfgClaimed == 1
  | .tdm t _ => regF s (.tdmCfg t.val) Fd.tdmCfgEn == 1
  | .wclkOut => running s && regF s .tckOut Fd.tckOutWcEn == 1
  | .tickOut => running s && regF s .tckOut Fd.tckOutTickEn == 1
  | .ser n _ => (getUart s n.val).conf && serBit s n.val Fd.serCfgEn
  | .hush _ | .wclkIn | .perst _ | .jtag _ => false

/-- The state that an entry's code gives a pin. A HUSH pin whose entry is as unprogrammed has the internal pull-up of R329 and R506 in
the place of the default pull-down. DESIGN CHOICE: assumption 40. -/
def entryState (p : FusedPin) (n : Nat) : PinState :=
  match p, pinCode n with
  | .hush _, .pullDown => .pullUp
  | _, x => x

/-- The state that a pin's entry gives it (R27, R44, R435): the reset state during a reset and until firmware configures the
pin, the sleep state in sleep and while the main die of its pin is unpowered; none while its function gives it. Without VDD_STBY no
entry is applied. JTAG_TDO is high impedance while the TAP is disabled (R396). -/
def fusedPinState (s : State) (p : FusedPin) : Option PinState :=
  let e := (s.trust.pinMap.get (pinEntry p) 0).toNat
  if s.power.off then some .noPull
  else if s.power.inReset then some (entryState p (e % 8))
  else if (s.power.up || keeperPin p) && pinConfigured s p then none
  else if p = .jtag 3 ∧ s.power.up ∧ debugLevel s = 3 then some .noPull
  else if s.power.up || (keeperPin p && s.power.sleep == 0) then some (entryState p (e % 8))
  else some (entryState p (e / 8 % 8))

/-- The states of the other pins of R435. -/
inductive DevState where
  | highZ | low | released | input | oscillating | high | unpowered
  /-- Receivers off, transmitters in electrical idle. -/
  | idle
  /-- The port's function gives the lane's state. -/
  | active
deriving DecidableEq, Repr

/-- Whether the ports of a lane are enabled, so that it leaves electrical idle. -/
def laneOn (s : State) (p : DevPin) : Bool :=
  match p with
  | .mdxLane n => regF s (.mdxCfg n.val) Fd.mdxCfgEn == 1
  | .ethLane e => regF s (.ethPortstat e.val) Fd.ethPortstatMode != 0
  | .hstLane h => (hostWorld s h.val).isSome
  | _ => false

/-- The state of a pin that no fuse entry maps (R431, R435): the strap ADC drives VAL pins only inside the scan, which is one step
here. -/
def devPinState (s : State) (p : DevPin) : DevState :=
  let lane : DevState := if s.power.inReset || !s.power.up then .unpowered else if laneOn s p then .active else .idle
  match p with
  | .val _ => .highZ
  | .nreset => if s.power.off || (s.power.inReset && s.power.drive.isSome) then .low else .released
  | .pwrEn n => if !s.power.off && !s.power.inReset && s.power.en.contains n.val then .high else .low
  | .pg _ => .input
  | .kxin | .kxout => .oscillating
  | .mdxLane _ | .ethLane _ | .hstLane _ => lane
  | .gddrReset c =>
    if s.power.inReset || s.power.off || !(s.power.up || s.power.held) then .unpowered
    else if s.power.up && chanState s c.val == 0 then .low else .high
  | .xin | .xout => if s.power.inReset || !s.power.up then .unpowered else .oscillating

/-- A pin's state as a number, as the boundary scan of this model shows it: 0–4 as R44 codes an entry, 5 where a fuse-mapped pin's
function gives it, and 8 and up the states of the other pins in the order of their type. DESIGN CHOICE: assumption 22. -/
def pinNumber (s : State) (p : Pin) : Nat :=
  match p with
  | .fused f =>
    match fusedPinState s f with
    | none => 5
    | some .pullDown => 0
    | some .pullUp => 1
    | some .noPull => 2
    | some .driveLow => 3
    | some .driveHigh => 4
  | .dev d =>
    match devPinState s d with
    | .highZ => 8
    | .low => 9
    | .released => 10
    | .input => 11
    | .oscillating => 12
    | .high => 13
    | .unpowered => 14
    | .idle => 15
    | .active => 16

def execPowerOn (p1 p2 p3 : List (List Nat)) (s : State) : Out := .next (doPowerOn p1 p2 p3 s)
def execNreset (p1 p2 p3 : List (List Nat)) (ns : Nat) (held : Bool) (s : State) : Out := .next (doNreset p1 p2 p3 ns held s)
def execHardTimerEnd (w : Fin 3) (s : State) : Out := .next (doHardTimerEnd w s)
def execVddStbyLoss (s : State) : Out := .next (doVddStbyLoss s)
def execRstAssertKey (x : Writer) (key : BitVec 16) (s : State) : Out := .next (withAccess x (Creg.addr .kprRstAssert) (some (key.setWidth 32)) (rstAssertWrite x (key.setWidth 32)) s)
def execRstAssert (x : Writer) (s : State) : Out := .next (withAccess x (Creg.addr .kprRstAssert) (some 0x10000) (rstAssertWrite x 0x10000) s)

end Sys2Proof.Machine
end

