-- ==== Sys2Proof/Machine/Power.lean ====
section
/-! DEFINITION. Rails (R442–R445), main-die release (R377, R395, R436), sleep and wake (R394, R446, R452–R458, R472),
power-gated quires (R449) and temperature (R459). -/

namespace Sys2Proof.Machine

def clkBit (s : State) (f : Fld) : Bool := regF s .kprClkStat f == 1

/-! ### Main-die release -/

/-- The wake record's address (R394). -/
def wakeAddr : Nat := retBase + 0xF000

/-- Whether the wake record asks for the fast path (R394, R395): BOOT[2], its MAGIC and CRC, and GDDR7 held. -/
def fastRecord (s : State) : Bool :=
  bootBit s 2 && memNat s wakeAddr 4 == 0x4B574E5A && memNat s (wakeAddr + 4) 4 % 2 == 1 &&
    memNat s (wakeAddr + 0xFFC) 4 == crc32 (memBytes s wakeAddr 0xFFC)

/-- Whether a channel passes the fast-wake check (R295), by the check's outcome that WAKE gave. -/
def chanAwake (s : State) (c : Nat) : Bool := fastRecord s && s.power.chk / 2 ^ c % 2 == 1

/-- Whether the wake takes the fast path (R395). -/
def fastWake (s : State) : Bool :=
  let total := memNat s (wakeAddr + 8) 4
  let slot := memNat s (wakeAddr + 0x1C) 1
  (List.range (memChans s)).all (chanAwake s) &&
    !(decide (slot < 4) && (fuse s 0x100).getLsbD slot) &&
    digestBytes (Config.sha256 (memBytes s gddrBase total)) == memBytes s (wakeAddr + 0x20) 32

/-- The fast path (R395): the reserve holds the image, and the vitrine is open exactly when the record says verified; the
load of R383 follows. DESIGN CHOICE: assumption 36. -/
def startFast (s : State) : State :=
  let verified := memNat s (wakeAddr + 4) 4 / 2 % 2 == 1
  let t := showBundle gddrBase 0 0 { s with trust := { s.trust with total := memNat s (wakeAddr + 8) 4 } }
  let t1 := setRegF (setRegF t .truBoot Fd.truBootVerified (if verified then 1 else 0)) .truBoot Fd.truBootUnverified (if verified then 0 else 1)
  let t2 := setRegF (setRegF t1 .truBoot Fd.truBootFastwake 1) .truBoot Fd.truBootSource (memNat s (wakeAddr + 0x0C) 4)
  hostShow (setStage 2 (deriveKeys verified t2))

/-- GDDR7 after a wake: a channel that passes the fast-wake check is trained and keeps its contents; every other takes the cold
sequence (R295, R395), and its contents are given up. DESIGN CHOICE: assumption 42. -/
def wakeGddr (s : State) : State :=
  let lost (a : Nat) : Bool := inRange gddrBase 0x0A00000000 a && !chanAwake s (gddrDecode s a).1
  let t := { s with mem := s.mem.filter (fun e => !lost e.1), poison := s.poison.filter (fun g => !lost g)
                    upsets := s.upsets.filter (fun e => !lost e.1) }
  (List.range (memChans s)).foldl (fun u c => if chanAwake s c then setRegF u (.memCh c) Fd.memChState 2 else u) t

/-- Main-die reset release (R436): every main-die block leaves reset, and the image step or the fast path begins. -/
def releaseMain (s : State) : State :=
  let t := mainDieLost s.power.held s
  let clk := reg s .kprClkStat
  let t1 := setReg { t with power := { t.power with up := true, waking := false, held := false } } .kprClkStat clk
  let fam (n : Nat) : Bool := (rate t1 % 2 == 1) == (n == 0)
  let t2 := (List.range 16).foldl (fun u n => if tdmMaster u n && ((fam 0 && clkBit u Fd.kprClkStatApll0Lock) || (fam 1 && clkBit u Fd.kprClkStatApll1Lock)) then
    setRegF u (.tdmStat n) Fd.tdmStatClkok 1 else u) t1
  if !s.power.waking then imageStep t2
  else if fastWake t2 then startFast (wakeGddr t2) else imageStep (wakeGddr t2)

/-- The main die is released once every rail is good and the core PLL is locked (R434). -/
def tryRelease (s : State) : State :=
  if !s.power.up && s.power.good.length == 7 && clkBit s Fd.kprClkStatCpllLock then releaseMain s else s

/-! ### Rails (R443–R445) -/

/-- The next rail to enable after rail `r`: those already up are passed over. -/
def nextRail (s : State) (r : Nat) : List Nat :=
  ((List.range 7).filter (fun k => decide (r < k) && !s.power.good.contains k)).take 1

/-- POWER_GOOD: the next rail is enabled; the rails are complete after the last. -/
def doPowerGood (r : Fin 7) (s : State) : State :=
  if !s.power.en.contains r.val || s.power.good.contains r.val then s
  else
    let t := { s with power := { s.power with good := NSet.add s.power.good r.val } }
    tryRelease { t with power := { t.power with en := NSet.addAll t.power.en (nextRail t r.val) } }

/-- Every rail goes low, and the main die with them. -/
def railsDown (s : State) : State :=
  mainDieLost false { s with power := { s.power with en := [], good := [], held := false, waking := false, chk := 0 } }

/-- PG_TIMEOUT (R443): the rails go low; the sequence is tried once more, or the main die stays off. -/
def doPgTimeout (r : Fin 7) (s : State) : State :=
  if !s.power.en.contains r.val || s.power.good.contains r.val then s
  else
    let t := setRegF (setRegF (railsDown s) .kprPwrStat Fd.kprPwrStatPgfail 1) .kprPwrStat Fd.kprPwrStatRail r.val
    if s.power.tries = 0 then { t with power := { t.power with tries := 1, en := [0], waking := s.power.waking } }
    else { t with power := { t.power with dead := true } }

/-- PG_LOST (R445). -/
def doPgLost (r : Fin 7) (s : State) : State :=
  if !s.power.good.contains r.val then s
  else
    let t := setRegF (setRegF (railsDown s) .kprPwrStat Fd.kprPwrStatPglost 1) .kprPwrStat Fd.kprPwrStatRail r.val
    { t with power := { t.power with dead := true } }

/-! ### Wake sources (R456, R457) -/

/-- A wake source acts: the first one is recorded. -/
def latchWake (src port : Nat) (s : State) : State :=
  if s.power.sleep = 0 ∨ s.power.wake ∨ s.power.dead then s
  else
    let t := setRegF (setRegF s .kprPwrStat Fd.kprPwrStatWakesrc src) .kprPwrStat Fd.kprPwrStatWakeport port
    { t with power := { t.power with wake := true } }

def ctsEnabled (s : State) (n : Nat) : Bool := regF s .kprPwrWake ⟨n, 1⟩ == 1
def timerEnabled (s : State) : Bool := regF s .kprPwrWake Fd.kprPwrWakeTmr == 1

/-- Level sources that are active once a sleep state is reached (R454, R457). -/
def levelWakes (s : State) : State :=
  let t := (List.range 4).foldl (fun u n => if ctsEnabled u n && regF u (.serFlow n) Fd.serFlowCts == 1 then latchWake 2 n u else u) s
  if !timerEnabled t then t
  else if regF t .kprPwrTmr Fd.kprPwrTmrExpired = 1 then latchWake 3 0 t
  else if regF t .kprPwrTmr Fd.kprPwrTmrMs = 0 then latchWake 3 0 (setRegF t .kprPwrTmr Fd.kprPwrTmrExpired 1)
  else t

/-- SERIAL_WAKE (R358, R457): an edge on an enabled, unheld line, whose port WOKE then names; the character that began with it is
marked, and is received at 1 Mbaud or below (doReceiveCharacter). -/
def doSerialWake (n : Fin 4) (window : Bool) (s : State) : State :=
  if s.power.sleep = 0 || (s.power.sleep == 2 && window) || !serBit s n.val Fd.serCfgWake ||
      regF s (.serStat n.val) Fd.serStatHeld == 1 || s.power.wake || s.power.dead then s
  else
    latchWake 1 n.val (setRegF (modUart s n.val (fun u => { u with wake := true })) (.serStat n.val) Fd.serStatWoke 1)

/-- CTS_WAKE: SERn_CTS is low. -/
def doCtsWake (n : Fin 4) (s : State) : State :=
  if s.power.sleep ≠ 0 ∧ ctsEnabled s n.val then latchWake 2 n.val (setRegF s (.serFlow n.val) Fd.serFlowCts 1) else s

/-- WAKE_TIMER: the interval of KPR_PWR_TMR has run. -/
def doWakeTimer (s : State) : State :=
  if s.power.sleep = 0 ∨ !timerEnabled s then s
  else latchWake 3 0 (setRegF s .kprPwrTmr Fd.kprPwrTmrExpired 1)

/-! ### Sleep (R453–R455) -/

/-- A write of KPR_PWR_REQ: while the tick runs, a write that requests sleep is refused. DESIGN CHOICE: assumption 42. -/
def pwrReqWrite (x : Writer) (v : Word) (s : State) : State :=
  let asks := (owns x (.world .prg) && Fd.kprPwrReqSleepPrg.get v == 1) || (owns x (.world .grd) && Fd.kprPwrReqSleepGrd.get v == 1)
  if running s && asks then setRegF s .kprPwrReq Fd.kprPwrReqRefused 1 else plainWrite x .kprPwrReq v s

/-- The training values of the wake record, in a format of the boot ROM's own: words that the spec does not give
(assumption 3). -/
def trainingWords : Nat → State → State
  | 0, s => s
  | n + 1, s => let (v, t) := drawFree s; trainingWords n (setWord t (wakeAddr + 0x100 + 4 * n) v)

/-- Step 3: the wake record (R394). -/
def wakeRecord (held : Bool) (s : State) : State :=
  let flags := (if held then 1 else 0) + 2 * regF s .truBoot Fd.truBootVerified + 4 * regF s .truBoot Fd.truBootKpatch
  let total := s.trust.total
  let head := [0x5A#8, 0x4E, 0x57, 0x4B] ++ leBytes 4 flags ++ leBytes 4 total ++ leBytes 4 (regF s .truBoot Fd.truBootSource) ++
    [0, 1, 2].flatMap (fun k => wordBytes (reg s (.truAcc k))) ++ leBytes 4 s.trust.slot.toNat ++
    fixLen 32 s.trust.digest
  let t := trainingWords 832 (setBytes (zeroRange s wakeAddr 0x1000) wakeAddr head)
  setNat t (wakeAddr + 0xFFC) (crc32 (memBytes t wakeAddr 0xFFC)) 4

/-- The two requests have been made and the tick is stopped (R453). -/
def sleepDue (s : State) : Bool :=
  s.power.up && !running s && regF s .kprPwrReq Fd.kprPwrReqSleepPrg == 1 && regF s .kprPwrReq Fd.kprPwrReqSleepGrd == 1

/-- The requests and targets clear. -/
def clearRequest (s : State) : State :=
  [(Fd.kprPwrReqSleepPrg, 0), (Fd.kprPwrReqSleepGrd, 0), (Fd.kprPwrReqTgtPrg, 1), (Fd.kprPwrReqTgtGrd, 1)].foldl
    (fun u e => hwField u .kprPwrReq e.1 e.2) s

/-- Whether Deep sleep is entered as Standby (R455). -/
def downgrade (s : State) : Bool :=
  (timerEnabled s && !clkBit s Fd.kprClkStatKxtRdy) || (mfgLock s && decide (8 < s.power.driven))

/-- SLEEP_ENTRY (R454, R472): the curators are held, staged records go to flash, GDDR7 is put in self-refresh, the wake
record is written, the rails are lowered, and in Deep sleep the keeper core and KRC stop. A watchdog that is EXPIRED keeps
KRC running, so that its hard timer ends. DESIGN CHOICE: assumption 42. -/
def doSleepEntry (s : State) : State :=
  if !sleepDue s then s else
  let deep := regEffF s .kprPwrReq Fd.kprPwrReqTgtPrg == 2 && regEffF s .kprPwrReq Fd.kprPwrReqTgtGrd == 2
  let down := deep && downgrade s
  let wait := [0, 1, 2].any (fun w => wdgState s w == 2)
  let target := if deep && !down && !wait then 2 else 1
  let held := target == 1 || regF s .kprPwrReq Fd.kprPwrReqGhold == 1
  let t := wdgStop 1 (wdgStop 0 (clearRequest s))
  let t1 := mainDieLost held (wakeRecord held (startPage t))
  let rails : List Nat := if held then [4] else []
  let t2 := { t1 with power := { t1.power with en := rails, good := rails, sleep := target, wake := false, waking := false, held := held, tries := 0 } }
  let t3 := setRegF (setRegF t2 .kprPwrStat Fd.kprPwrStatLast target) .kprPwrStat Fd.kprPwrStatDowngraded (if down then 1 else 0)
  let t4 := if target = 2 then
      setRegF (wdgStop 2 (modCore t3 .keeper (fun k => { k with on := false }))) .kprClkStat Fd.kprClkStatKrcRdy 0 else t3
  levelWakes t4

/-- WAKE (R458): KRC and the keeper core run again, and the rails are raised; the path is chosen at main-die release.
`chk` gives the channels that pass the fast-wake check. DESIGN CHOICE: assumption 42. -/
def doWake (chk : BitVec 8) (s : State) : State :=
  if s.power.sleep = 0 ∨ !s.power.wake ∨ s.power.dead then s
  else
    let t := if s.power.sleep = 2 then
        wdgStart 2 (modCore (setRegF s .kprClkStat Fd.kprClkStatKrcRdy 1) .keeper (fun k => { k with on := true })) else s
    flashStart { t with power := { t.power with sleep := 0, wake := false, waking := true, chk := if s.power.held then chk.toNat else 0, en := NSet.add t.power.en 0 } }

/-! ### Temperature (R459) -/

/-- A signed 12-bit reading. -/
def tempOf (n : Nat) : Int := if n < 2048 then (n : Int) else (n : Int) - 4096

/-- One sensor's reading. -/
def storeTemp (k : Nat) (v : BitVec 12) (s : State) : State :=
  let t := setRegF s (.kprPwrTemp k) Fd.kprPwrTempTemp v.toNat
  if tempOf (regF s (.kprPwrTemp k) Fd.kprPwrTempMax) < tempOf v.toNat then setRegF t (.kprPwrTemp k) Fd.kprPwrTempMax v.toNat else t

/-- The trip: class 24, every rail low, TRIPPED; the record is programmed. -/
def thermalTrip (k : Nat) (s : State) : State :=
  let t := setRegF (railsDown (record s 24 none k 0)) .kprPwrStat Fd.kprPwrStatTripped 1
  startPage { t with power := { t.power with dead := true } }

/-- TEMPERATURE_READ: readings, the 105 °C warning and the 115 °C trip. -/
def doTemperatureRead (temps : List (BitVec 12)) (s : State) : State :=
  if !s.power.good.contains 1 then s else
  let t := temps.zipIdx.foldl (fun u e => storeTemp e.2 e.1 u) s
  let wasHot := regF s .kprPwrStat Fd.kprPwrStatOvert = 1
  let hot := temps.any (fun v => decide (420 < tempOf v.toNat))
  let cool := temps.all (fun v => decide (tempOf v.toNat < 400))
  let t1 := if !wasHot && hot then setNmeBoth (setRegF t .kprPwrStat Fd.kprPwrStatOvert 1) 4
    else if wasHot && cool then setRegF t .kprPwrStat Fd.kprPwrStatOvert 0 else t
  match temps.findIdx? (fun v => decide (460 ≤ tempOf v.toNat)) with
  | some k => thermalTrip k t1
  | none => t1

/-! ### Power-gated quires (R449) -/

/-- Whether a quire has nothing to do: nothing released, no reserve running, no load, no readmission test. -/
def quireIdle (s : State) (q : Nat) : Bool :=
  regF s (.qrcRel q) Fd.qrcRelRel == 0 && regF s (.qrcStat q) Fd.qrcStatRsvRun == 0 && (getQuire s q).load.isNone &&
    (List.range 17).all (fun j => role s q j != 19)

/-- QUIRE_GATE: after 1,000 idle ticks the positions lose power, and their SRAM and press stores. -/
def doQuireGate (q : Fin 64) (s : State) : State :=
  if !running s || regF s (.qrcStat q.val) Fd.qrcStatPwr == 0 || decide ((getQuire s q.val).idle < 1000) || !quireIdle s q.val then s
  else
    let t := setGated q.val true (setRegF (zeroRange s (tileBase q.val 0) (17 * 0x40000)) (.qrcStat q.val) Fd.qrcStatPwr 0)
    { t with cores := t.cores.filter (fun e => !inRange (17 * q.val) (17 * q.val + 17) e.1) }

/-- The links of a quire that are not retired are in service once the quire has its power stage (R120). DEDUCED: assumption 27. -/
def raiseLinks (q : Nat) (s : State) : State :=
  let up (l : Nat) (f : Fld) (t : State) : State :=
    if s.spine.retired.contains (2 * q + l) then t else setRegF t (.spnLink q) f 1
  up 1 Fd.spnLinkL1Up (up 0 Fd.spnLinkL0Up s)

/-- QUIRE_POWER_UP_END: a quire reaches its power stage, after main-die release (R436) or after a write of QRC_REL. DEDUCED: assumption 27. DESIGN CHOICE: assumption 42. -/
def doQuirePowerUpEnd (q : Fin 64) (s : State) : State :=
  if !s.power.up || regF s (.qrcStat q.val) Fd.qrcStatPwr == 1 || quireGated s q.val ||
      !(List.range q.val).all (fun k => (getQuire s k).raised) then s
  else raiseLinks q.val (setRegF (modQuire s q.val (fun x => { x with idle := 0, raised := true })) (.qrcStat q.val) Fd.qrcStatPwr 1)

def execPowerGood (r : Fin 7) (s : State) : Out := .next (doPowerGood r s)
def execPgTimeout (r : Fin 7) (s : State) : Out := .next (doPgTimeout r s)
def execPgLost (r : Fin 7) (s : State) : Out := .next (doPgLost r s)
def execSleepRequest (x : Writer) (v : Word) (s : State) : Out := .next (withAccess x (Creg.addr .kprPwrReq) (some v) (pwrReqWrite x v) s)
def execSleepEntry (s : State) : Out := .next (doSleepEntry s)
def execSerialWake (n : Fin 4) (window : Bool) (s : State) : Out := .next (doSerialWake n window s)
def execCtsWake (n : Fin 4) (s : State) : Out := .next (doCtsWake n s)
def execWakeTimer (s : State) : Out := .next (doWakeTimer s)
def execWake (chk : BitVec 8) (s : State) : Out := .next (doWake chk s)
def execTemperatureRead (temps : List (BitVec 12)) (s : State) : Out := .next (doTemperatureRead temps s)
def execQuireGate (q : Fin 64) (s : State) : Out := .next (doQuireGate q s)
def execQuirePowerUpEnd (q : Fin 64) (s : State) : Out := .next (doQuirePowerUpEnd q s)

end Sys2Proof.Machine
end

