-- ==== Sys2Proof/Machine/Clocks.lean ====
section
/-! DEFINITION. Clock sources and their monitors (R421–R429, R464), and the reset of single blocks (R434, R437–R441). -/

namespace Sys2Proof.Machine

def setClk (f : Fld) (n : Nat) (s : State) : State := setRegF s .kprClkStat f n
/-- A failure shown to both worlds. -/
def clkFail (f : Fld) (s : State) : State := setRegF (setRegF s (.kprClkFail 0) f 1) (.kprClkFail 1) f 1

/-! ### Ready flags (R423) -/

/-- The audio PLL of the tick rate's family: 0 for 48 kHz rates, 1 for 44.1 kHz rates (R421, R429). -/
def ratePll (s : State) : Nat := if rate s % 2 = 1 then 0 else 1

/-- CLKOK of the master TDM ports, when audio PLL `i` is the tick's. -/
def mastersClocked (i : Nat) (b : Bool) (s : State) : State :=
  if ratePll s ≠ i then s else
  (List.range 16).foldl (fun u n => if tdmMaster u n then setRegF u (.tdmStat n) Fd.tdmStatClkok (if b then 1 else 0) else u) s

/-- Whether a source may be found ready: it is powered and what it runs from is ready. -/
def sourceMay (s : State) (k : ClkSource) : Bool :=
  let rail (r : Nat) : Bool := s.power.good.contains r
  let c (f : Fld) : Bool := clkBit s f
  !s.power.off && match k with
  | .krc => s.power.sleep != 2
  | .kxt => true
  | .refclk => rail 0
  | .cpll => rail 1 && (if c Fd.kprClkStatRefActive then c Fd.kprClkStatKrcRdy else c Fd.kprClkStatRefclkRdy)
  | .apll0 | .apll1 => rail 1 && (if c Fd.kprClkStatRefActive then c Fd.kprClkStatKrcRdy else c Fd.kprClkStatRefclkRdy)
  | .gpll => rail 3 && c Fd.kprClkStatCpllLock
  | .sdsMdx | .sdsEth | .sdsHst => rail 5 && c Fd.kprClkStatRefclkRdy

def sourceBit : ClkSource → Fld
  | .krc => Fd.kprClkStatKrcRdy
  | .refclk => Fd.kprClkStatRefclkRdy
  | .kxt => Fd.kprClkStatKxtRdy
  | .cpll => Fd.kprClkStatCpllLock
  | .apll0 => Fd.kprClkStatApll0Lock
  | .apll1 => Fd.kprClkStatApll1Lock
  | .gpll => Fd.kprClkStatGpllLock
  | .sdsMdx => Fd.kprClkStatSdsMdx
  | .sdsEth => Fd.kprClkStatSdsEth
  | .sdsHst => Fd.kprClkStatSdsHst

/-- SOURCE_READY: the flag sets; the core PLL's lock lets the main die leave reset. -/
def doSourceReady (k : ClkSource) (s : State) : State :=
  if !sourceMay s k then s else
  let t := setClk (sourceBit k) 1 s
  match k with
  | .cpll => tryRelease t
  | .apll0 => if s.power.up then mastersClocked 0 true t else t
  | .apll1 => if s.power.up then mastersClocked 1 true t else t
  | _ => t

/-! ### Failures (R426–R429) -/

/-- A SerDes PLL loses lock: SDS_FAIL, and its ports lose lock. -/
def serdesLoss (i : Nat) (s : State) : State :=
  let f := match i with | 0 => Fd.kprClkStatSdsMdx | 1 => Fd.kprClkStatSdsEth | _ => Fd.kprClkStatSdsHst
  if !clkBit s f then s else
  let t := clkFail Fd.kprClkFailSdsFail (setClk f 0 s)
  match i with
  | 0 => (List.range 32).foldl (fun u p => doBlockLockLoss (Fin.ofNat 32 p) u) t
  | 1 => doEthLinkChange 1 false (doEthLinkChange 0 false t)
  | _ => (List.range 4).foldl (fun u h => doHostLinkDown (Fin.ofNat 4 h) u) t

/-- REFCLK_FAIL (R427): the core PLL goes to KRC, both worlds are told, and the SerDes PLLs lose lock. A switch to REFCLK
in progress is abandoned (R441). DESIGN CHOICE: assumption 41. -/
def doRefclkFail (s : State) : State :=
  if !clkBit s Fd.kprClkStatRefclkRdy then s else
  let onKrc := clkBit s Fd.kprClkStatRefActive
  let t := setRegF (setClk Fd.kprClkStatRefActive 1 (setClk Fd.kprClkStatRefclkRdy 0 s)) .kprClkSel Fd.kprClkSelRefsel 1
  let t1 := if onKrc then setClk Fd.kprClkStatSwitching 0 t
    else setClk Fd.kprClkStatSwitching 1 { t with power := { t.power with switchTo := 1 } }
  let t2 := record (setNmeBoth (clkFail Fd.kprClkFailRefclkFail t1) 1) 20 none 0 0
  serdesLoss 2 (serdesLoss 1 (serdesLoss 0 t2))

/-- CORE_PLL_LOSS_OF_LOCK (R429). -/
def doCorePllLoss (s : State) : State := if clkBit s Fd.kprClkStatCpllLock then driveReset 6 s else s

/-- KRC_FAIL (R428): the device holds nRESET low until KRC is ready again, in a reset of another cause too, and the cause recorded
is KRC. With neither REFCLK nor KXT to count it against, a stopped KRC shows as loss of lock of the core PLL (R426). DESIGN
CHOICE: assumption 41. -/
def doKrcFail (s : State) : State :=
  if s.power.off || s.power.sleep == 2 then s
  else if s.power.inReset then setClk Fd.kprClkStatKrcRdy 0 { s with power := { s.power with drive := some 5 } }
  else if (clkBit s Fd.kprClkStatRefclkRdy && s.power.up) || clkBit s Fd.kprClkStatKxtRdy then driveReset 5 (setClk Fd.kprClkStatKrcRdy 0 s)
  else doCorePllLoss s

/-- KXT_FAIL (R426, R464): every running watchdog on KXT expires with cause CLOCK. -/
def doKxtFail (s : State) : State :=
  if s.power.off || s.power.inReset || s.power.sleep == 2 then s else
  let t := clkFail Fd.kprClkFailKxtFail (setClk Fd.kprClkStatKxtRdy 0 s)
  [0, 1, 2].foldl (fun u w =>
    if regF u (.kprWdgCtl w) Fd.kprWdgCtlClk = 1 ∧ wdgState u w = 1 then wdgExpire w 3 u else u) t

def apllLock (i : Nat) : Fld := if i = 0 then Fd.kprClkStatApll0Lock else Fd.kprClkStatApll1Lock
def apllFail (i : Nat) : Fld := if i = 0 then Fd.kprClkFailApll0Fail else Fd.kprClkFailApll1Fail

/-- AUDIO_PLL_LOSS_OF_LOCK: the master ports of its family have no bit clock. -/
def doAudioPllLoss (i : Fin 2) (s : State) : State :=
  if !clkBit s (apllLock i.val) then s else mastersClocked i.val false (clkFail (apllFail i.val) (setClk (apllLock i.val) 0 s))

/-- AUDIO_PLL_RELOCK. -/
def doAudioPllRelock (i : Fin 2) (s : State) : State :=
  if !s.power.up || clkBit s (apllLock i.val) then s else mastersClocked i.val true (setClk (apllLock i.val) 1 s)

/-! ### The core PLL's reference (R425) -/

/-- A write of KPR_CLK_SEL: refused whole when the source it names is not ready; a change starts a switch. -/
def refselWrite (x : Writer) (v : Word) (s : State) : State :=
  if !owns x (.world .prg) then plainWrite x .kprClkSel v s else
  let n := Fd.kprClkSelRefsel.get v
  if !clkBit s (if n = 0 then Fd.kprClkStatRefclkRdy else Fd.kprClkStatKrcRdy) then setRegF s .kprClkSel Fd.kprClkSelErrNotready 1
  else
    let t := plainWrite x .kprClkSel v s
    if n = regF s .kprClkStat Fd.kprClkStatRefActive ∧ !clkBit s Fd.kprClkStatSwitching then t
    else setClk Fd.kprClkStatSwitching 1 { t with power := { t.power with switchTo := n } }

/-- REFERENCE_SWITCH_END. -/
def doReferenceSwitchEnd (s : State) : State :=
  if clkBit s Fd.kprClkStatSwitching then setClk Fd.kprClkStatRefActive s.power.switchTo (setClk Fd.kprClkStatSwitching 0 s) else s

/-! ### Requests for block resets (R437–R439) -/

/-- The owner of a block's REQ bit. -/
def blockOwn (s : State) (b : Nat) : Own :=
  if b < 2 then .kpr
  else if b < 66 then .world (quireWorld s (b - 2))
  else if b < 98 then groupOwn s (mdxGroup (b - 66))
  else if b < 114 then groupOwn s (tdmGroup (b - 98))
  else if b = 114 then .world .prg
  else if b < 119 then (match hostWorld s (b - 115) with | some w => .world w | none => .nobody)
  else if b = 119 then .kpr
  else if b < 124 then .world (if b = 121 then .grd else .prg)
  else .kpr

/-- Whether a request is refused (R439). -/
def blockRefused (s : State) (b : Nat) : Bool :=
  if 2 ≤ b ∧ b < 66 then regF s (.qrcStat (b - 2)) Fd.qrcStatRun != 0 || regF s (.qrcStat (b - 2)) Fd.qrcStatLoading == 1
  else b == 114 && regF s .tckSrc Fd.tckSrcActive == 2

/-- Writes a bit of a register array. -/
def setBit (r : Nat → Creg) (b : Nat) (v : Bool) (s : State) : State :=
  setReg s (r (b / 32)) (if v then reg s (r (b / 32)) ||| (1#32 <<< (b % 32)) else reg s (r (b / 32)) &&& ~~~ (1#32 <<< (b % 32)))

/-- The world whose error register tells of a refused request: the writer's; for the keeper core, the owner's (R508). -/
def refusalWorld (x : Writer) (o : Own) : World :=
  match x, o with
  | .cur w, _ => w
  | .kpr, .world w => w
  | .kpr, _ => .prg

/-- One bit of a REQ write. DESIGN CHOICE: assumption 41. -/
def requestBlock (x : Writer) (b : Nat) (s : State) : State :=
  if 125 ≤ b ∨ !owns x (blockOwn s b) ∨ bitOf s .kprRstReq b then s
  else if blockRefused s b then
    let w := (refusalWorld x (blockOwn s b)).num
    setRegF (setRegF s (.kprRstErr w) Fd.kprRstErrRefused 1) (.kprRstErr w) Fd.kprRstErrBlock b
  else setBit .kprRstReq b true s

/-- A write of KPR_RST_REQk. -/
def rstReqWrite (x : Writer) (k : Nat) (v : Word) (s : State) : State :=
  let bits := ((List.range 32).filter (fun j => v.getLsbD j)).map (32 * k + ·)
  let t := bits.foldl (fun u b => requestBlock x b u) s
  if bits.any (fun b => decide (b < 125) && !owns x (blockOwn s b) && !bitOf s .kprRstReq b) then raisePriv t x (Creg.addr (.kprRstReq k)) else t

/-! ### The reset of one block (R434, R439) -/

/-- Held requests that meet a condition are given up with the block that made them. -/
def dropHeld (f : HeldReq → Bool) (s : State) : State :=
  { s with budget := { s.budget with held := s.budget.held.filter (fun q => !f q) } }

/-- A curator: its image comes from the image reserve, or from the source of the replacement whose CURATOR command asked for the
reset (R439, R479). -/
def resetCurator (w : World) (s : State) : State :=
  let b := if s.live.cur = some w then s.live.base else gddrBase
  let t := startCurator w (bundleVec s b w) (loadCurator b w (dropHeld (HeldReq.by w) s))
  if s.live.cur = some w then curatorLive w t else t

/-- A quire: cores, presses and controller registers; roles, IMGMAP, LEDMAP, the subscription map, IMG and the archive stay.
PWR and NO_RESERVE take their reset value until their next event. DEDUCED: assumption 41. -/
def resetQuire (q : Nat) (s : State) : State :=
  let base := Creg.addr (.qrcRel q)
  let lo := base / 0x10000 * 0x10000
  let roles := (List.range 17).map (role s q)
  let t := dropRegs lo (lo + 0x8000) { s with cores := s.cores.filter (fun e => !inRange (17 * q) (17 * q + 17) e.1) }
  let t1 := roles.zipIdx.foldl (fun u e => setRegF u (.qrcPos q e.2) Fd.qrcPosRole e.1) t
  let keep (u : State) (f : Fld) : State := setRegF u (.qrcStat q) f (regF s (.qrcStat q) f)
  modQuire (keep t1 Fd.qrcStatImg) q (fun x =>
    { imgMap := x.imgMap, ledMap := x.ledMap, sel := x.sel, verified := x.verified, patch := x.patch, readmit := x.readmit
      tested := x.tested, raised := x.raised })

def resetMdx (p : Nat) (s : State) : State :=
  let lo := Creg.addr (.mdxCfg p)
  let t := dropRegs lo (lo + 0x10000) s
  let t1 := modMdx t p (fun _ => {})
  let st := { t1.stage with held := t1.stage.held.filter (fun f => f.1 != p)
                            plugs := t1.stage.plugs.filter (fun n => n / 16 != p) }
  showPairup p (setRegF { t1 with stage := st } (.mdxStat p) Fd.mdxStatPaired (if strapPaired s p then 1 else 0))

def resetTdm (n : Nat) (s : State) : State :=
  let lo := Creg.addr (.tdmCfg n)
  let t := modTdm (dropRegs lo (lo + 0x1000) s) n (fun _ => {})
  let t1 := hwField t (.tdmCfg n) Fd.tdmCfgMaster (if strapMaster s n then 1 else 0)
  if strapMaster s n && clkBit s (apllLock (ratePll s)) then setRegF t1 (.tdmStat n) Fd.tdmStatClkok 1 else t1

/-- Ethernet, with the PTP servo: a lock lost with PTP in control is a source failure (R68). -/
def resetEth (s : State) : State :=
  let u := ptpUnlock s
  let t := dropRegs 0x0F05100000 0x0F05200000 { u with eth := {} }
  [0, 1].foldl (fun u e => setRegF u (.ethPortstat e) Fd.ethPortstatMode (strapEth s)) t

/-- A host port: its registers but ROLE; a gallery that was up is lost, recorded and shown to its world (R372). DESIGN CHOICE:
assumption 41. -/
def resetHost (h : Nat) (s : State) : State :=
  let lo := Creg.addr (.hstStat h)
  let u := doHostLinkDown (Fin.ofNat 4 h) s
  let t := dropRegs lo (lo + 0x10000) { dropHeld (fun q => q.port == some h) u with host := SMap.erase s.host h }
  hostShow (setRegF (setRegF t (.hstStat h) Fd.hstStatRole (regF s (.hstStat h) Fd.hstStatRole)) (.hstStat h) Fd.hstStatLinkdowns
    (if galleryUp s h then 1 else 0))

def resetSer (n : Nat) (s : State) : State :=
  let lo := Creg.addr (.serCfg n) / 0x1000 * 0x1000
  hwField (dropRegs lo (lo + 0x1000) { s with uart := SMap.erase s.uart n }) (.serBaud n) Fd.serBaudDiv (resetDiv s n)

/-- DESIGN CHOICE: assumption 41. -/
def resetBlock (b : Nat) (s : State) : State :=
  if b < 2 then resetCurator (World.ofNum b) s
  else if b < 66 then resetQuire (b - 2) s
  else if b < 98 then resetMdx (b - 66) s
  else if b < 114 then resetTdm (b - 98) s
  else if b = 114 then resetEth s
  else if b < 119 then resetHost (b - 115) s
  else if b = 119 then dropRegs 0x0F05200000 0x0F05300000 { s with panel := {} }
  else if b < 124 then resetSer (b - 120) s
  else dropRegs 0x0F03100000 0x0F03101000 { dropHeld (fun q => match q with | .engine _ _ _ _ => true | _ => false) s with scan := { s.scan with engine := [] } }

/-- The sequencer handles a block (R434): it is reset and released, or held in reset, pending, while its clock is stopped. A
pending block keeps its reset values: a write of its registers has no effect (`pendingAt`). DESIGN CHOICE: assumption 41. -/
def sequence (b : Nat) (clk : Bool) (s : State) : State :=
  if clk then setBit .kprRstReq b false (setBit .kprRstPend b false (resetBlock b s))
  else setBit .kprRstPend b true (if b < 2 then s else resetBlock b s)

/-- BLOCK_IDLE (R438): the block is idle, or its timeout drops what is in flight, which is counted and recorded; the spec
gives that record no class (assumption 3). DESIGN CHOICE: assumption 41. -/
def doBlockIdle (b : Fin 125) (dropped : Nat) (clk : Bool) (s : State) : State :=
  if !bitOf s .kprRstReq b.val || bitOf s .kprRstPend b.val then s else
  let t := if dropped = 0 then s else
    let u := setRegF (incRegF s .kprRstDrop Fd.kprRstDropCount dropped) .kprRstDrop Fd.kprRstDropBlock b.val
    stageRecord { u with free := u.free + 1 }
      ⟨BitVec.ofNat 32 s.tick.count.toNat, Config.freeNat u.free % 256, 2, b.val, min 65535 dropped, 1⟩
  sequence b.val clk t

/-- SEQUENCER_RETRY: pending blocks in index order; `run` gives those whose clock runs. -/
def doSequencerRetry (run : BitVec 125) (s : State) : State :=
  (List.range 125).foldl (fun u b => if bitOf u .kprRstPend b && run.getLsbD b then sequence b true u else u) s

def execSourceReady (k : ClkSource) (s : State) : Out := .next (doSourceReady k s)
def execRefclkFail (s : State) : Out := .next (doRefclkFail s)
def execKrcFail (s : State) : Out := .next (doKrcFail s)
def execKxtFail (s : State) : Out := .next (doKxtFail s)
def execCorePllLossOfLock (s : State) : Out := .next (doCorePllLoss s)
def execAudioPllLossOfLock (i : Fin 2) (s : State) : Out := .next (doAudioPllLoss i s)
def execAudioPllRelock (i : Fin 2) (s : State) : Out := .next (doAudioPllRelock i s)
def execSerdesPllLossOfLock (i : Fin 3) (s : State) : Out := .next (serdesLoss i.val s)
def execRefselWrite (x : Writer) (v : Word) (s : State) : Out := .next (withAccess x (Creg.addr .kprClkSel) (some v) (refselWrite x v) s)
def execReferenceSwitchEnd (s : State) : Out := .next (doReferenceSwitchEnd s)
def execRstReq (x : Writer) (k : Fin 4) (v : Word) (s : State) : Out := .next (withAccess x (Creg.addr (.kprRstReq k.val)) (some v) (rstReqWrite x k.val v) s)
def execBlockIdle (b : Fin 125) (dropped : Nat) (clk : Bool) (s : State) : Out := .next (doBlockIdle b dropped clk s)
def execSequencerRetry (run : BitVec 125) (s : State) : Out := .next (doSequencerRetry run s)

end Sys2Proof.Machine
end

