-- ==== Sys2Proof/Machine/Scan.lean ====
section
/-! DEFINITION. Check-value scanners: the store scanners (R304–R306) and the scan engines (R307–R310). -/

namespace Sys2Proof.Machine

/-! ### Store scanners -/

/-- Writes the block at `a` as the memory of another state holds it: granules that are bad there are written as bad. -/
def takeBlock (u : State) (a : Nat) (s : State) : State :=
  let t := setBytes { s with
    poison := s.poison.filter (fun g => !inSpan a 1024 g), upsets := s.upsets.filter (fun e => !inSpan a 1024 e.1) } a (memBytes u a 1024)
  { t with poison := NSet.addAll t.poison (u.poison.filter (inSpan a 1024)) }

/-- A block's data as read, with the bits that a miscorrection left wrong. -/
def flipData (bs : List Byte) (fl : List Nat) : List Byte :=
  fl.foldl (fun l f => l.modify (f / 8) (fun b => b ^^^ (1#8 <<< (f % 8)))) bs

/-- A scanner reads one more granule of a block under the binder code (R303): the data so far, none once a granule is
uncorrectable; its action and record are R306's. -/
def scanGranule (w : World) (a : Nat) (p : Option (List Byte) × State) (i : Nat) : Option (List Byte) × State :=
  let g := a + 32 * i
  match readOutcome (p.2.poison.contains g) (upsetsAt p.2 g) with
  | .bad _ _ => (none, p.2)
  | _ =>
    match readGranule p.2 g [] (some w) with
    | (some f, t) => (p.1.map (· ++ flipData (memBytes p.2 g 32) f), t)
    | (none, t) => (none, t)

/-- The block at `a` of an image slot, reloaded from its source (R306): the section, the bundle's patches and the standalone patches
that the slot carries. -/
def reloadBlock (q slot a : Nat) (s : State) : Option State :=
  let b := if s.live.done.contains (17 * q + slot) then s.live.base else gddrBase
  (imageSection s b q (SMap.get s.scan.img (17 * q + slot) 0)).map (fun x =>
    let t := copyChecked s (b + x.off + (a - imgBase q slot)) a 1024
    let carried := s.live.kept.filter (fun p => p.q == q && p.slots.contains slot)
    takeBlock (carried.reverse.foldl (fun u p => patchSlot q slot p.acc p.start p.words u) (applyPatches b q slot t)) a t)

/-- Reads a block: whether it differs from its expected value or cannot be read. -/
def blockBad (q slot blk a : Nat) (s : State) : Bool × State :=
  match (List.range 32).foldl (scanGranule (quireWorld s q) a) (some [], s) with
  | (some bs, t) =>
    (BitVec.ofNat 32 (blockCheck 0 (imgBase q slot + 1024 * blk) (ucver s q slot) bs) != s.scan.expected.get (expKey q slot blk) 0, t)
  | (none, t) => (true, t)

/-- A bad block of an image slot is counted and recorded (R261, R306). -/
def imgMismatch (q slot a : Nat) (s : State) : State :=
  record (incRegF s (.cvsQstat q) Fd.cvsQstatImgmis 1) 7 (some (quireWorld s q)) (32 * q + slot) a

/-- One block of an image slot (R306): a bad one is reloaded from GDDR7, class 7, and checked again; a block that is still bad is
counted and recorded again. DESIGN CHOICE: assumption 35. -/
def scanSlot (q blk : Nat) (uncorr : List Nat) (s : State) (slot : Nat) : State :=
  let a := imgBase q slot + 1024 * blk
  if !s.scan.holds.contains (17 * q + slot) then s else
  match blockBad q slot blk a s with
  | (bad, s1) =>
    if !(bad || uncorr.contains slot) then s1 else
    let t := imgMismatch q slot a s1
    match reloadBlock q slot a t with
    | some u =>
      match blockBad q slot blk a u with
      | (still, v) => if still then imgMismatch q slot a v else v
    | none => t

/-- The tick of a tile that a press-store mismatch aborts (R306): the current one, or the next where none is open or STITCH has
completed. A tick that has been stopped has one cause more (R99). -/
def doomScanned (k : Core) : Core :=
  let u := doomUncorr 5 k
  if k.tx.st = .stopped then { u with tx := { u.tx with causes := NSet.add u.tx.causes 6 } }
  else if k.tx.st ≠ .idle ∧ !k.tx.closed then u else { k with doomNext := true }

/-- Whether a takeover, release or LOADRES load is writing the press store of a position (R311). -/
def storeLoading (s : State) (q j : Nat) : Bool :=
  releasing s q j || ((getQuire s q).loadOn && match (getQuire s q).load with
    | some (.takeover i _) => i == j
    | some (.loadres _ _) => role s q j == 16
    | none => false)

/-- One block of a position's press store (R304, R306): a bad one is reloaded from its image slot, class 5. -/
def scanPress (q blk : Nat) (uncorr : List Nat) (s : State) (j : Nat) : State :=
  let r := role s q j
  let slot := imgMap s q (min r 16)
  let a := tileBase q j + 0x20000 + 1024 * blk
  let covered := decide (r < 16) || (r == 16 && regF s (.qrcStat q) Fd.qrcStatRsvRun == 1)
  if !covered || storeLoading s q j || !s.scan.holds.contains (17 * q + slot) then s else
  match blockBad q slot (128 + blk) a s with
  | (bad, s1) =>
    if !(bad || uncorr.contains j) then s1 else
    let t := record (incRegF s1 (.cvsQstat q) Fd.cvsQstatPsmis 1) 5 (some (quireWorld s q)) (consIndex s q j) a
    modCore (copyRange t (imgBase q slot + 0x20000 + 1024 * blk) a 1024) (tileId q j) doomScanned

/-- STORE_SCAN: one block of every image slot that holds an image, then one block of every press store; a slot is repaired
before the press stores that are loaded from it. While a load writes a press store the load stands, and the same blocks are
scanned again in the next tick (R311). DESIGN CHOICE: assumption 35. -/
def doStoreScan (q : Fin 64) (ps img : List (Fin 17)) (s : State) : State :=
  if !running s then s else
  let n := s.scan.count.get q.val 0
  let t := (List.range 17).foldl (scanSlot q.val n (img.map (·.val))) s
  let t1 := if regF s (.qrcStat q.val) Fd.qrcStatPwr = 1 then (List.range 17).foldl (scanPress q.val (n % 32) (ps.map (·.val))) t else t
  if (List.range 17).any (storeLoading s q.val) then t1 else
  let t2 := if n % 32 = 31 then incRegF t1 (.cvsQstat q.val) Fd.cvsQstatPasses 1 else t1
  { t2 with scan := { t2.scan with count := t2.scan.count.set q.val ((n + 1) % 160) 0 } }

/-! ### Scan engines -/

def getEngine (s : State) (e : Nat) : Engine := s.scan.engine.get e {}
def modEngine (s : State) (e : Nat) (f : Engine → Engine) : State :=
  { s with scan := { s.scan with engine := s.scan.engine.set e (f (getEngine s e)) {} } }
def engF (s : State) (e : Nat) (f : Fld) : Nat := regF s (.cvsCtl e) f
def engWorld (s : State) (e : Nat) : World := World.ofNum (engF s e Fd.cvsCtlWorld)
def engBusy (s : State) (e : Nat) : Bool := engF s e Fd.cvsCtlBusy == 1
/-- Bytes of a block: reserved BSIZE values act as 0. -/
def engBytes (s : State) (e : Nat) : Nat := if engF s e Fd.cvsCtlBsize < 7 then 1024 * 2 ^ engF s e Fd.cvsCtlBsize else 1024
def engLen (s : State) (e : Nat) : Nat := max 1 (regF s (.cvsLen e) Fd.cvsLenBlocks)
def engStart (s : State) (e : Nat) : Nat := 256 * (reg s (.cvsStart e)).toNat
def engExp (s : State) (e : Nat) : Nat := 256 * (reg s (.cvsExp e)).toNat

/-- The region that holds a whole range, in the latched table. -/
def rangeRegion (s : State) (a n : Nat) : Option Nat :=
  (regionOf s a).bind (fun r => if a + n ≤ 65536 * regLatF s (.memRgnLim r) Fd.memRgnLimAddr then some r else none)

/-- Whether a range lies in the shared region of an archive of a world (R128). -/
def inShared (s : State) (w : World) (a n : Nat) : Bool :=
  inRange (archBase 0) (archBase 64) a &&
    (let q := (a - archBase 0) / 0x400000
     quireWorld s q == w && decide (archBase q + 0x330000 ≤ a) && decide (a + n ≤ archBase (q + 1)))
where
  inRange (lo hi x : Nat) : Bool := decide (lo ≤ x) && decide (x < hi)

/-- The checks of a start (R307, R309). -/
def engOk (s : State) (e : Nat) : Bool :=
  let w := engWorld s e
  let n := engLen s e * engBytes s e
  let target := inShared s w (engStart s e) n ||
    (match rangeRegion s (engStart s e) n with | some r => regionWorld s r == w | none => false)
  let table := match rangeRegion s (engExp s e) (4 * engLen s e) with
    | some r => regionWorld s r == w && regLatF s (.memRgnAttr r) Fd.memRgnAttrType == 1
    | none => false
  target && table && (decide (engF s e Fd.cvsCtlAct < 48) == (w == .prg))

/-- The latched entry of the region table that holds an address; empty where none does. -/
def rgnEntry (s : State) (a : Nat) : List Nat :=
  match regionOf s a with
  | some r => [r, regLatF s (.memRgnBase r) Fd.memRgnBaseAddr, regLatF s (.memRgnLim r) Fd.memRgnLimAddr, regLatF s (.memRgnAttr r) Fd.memRgnAttrType,
      (regionWorld s r).num]
  | none => []

/-- The entries of an engine's target and expected table. -/
def engRgns (s : State) (e : Nat) : List (List Nat) := [rgnEntry s (engStart s e), rgnEntry s (engExp s e)]

def engFault (e : Nat) (s : State) : State := setRegF (setRegF s (.cvsStat e) Fd.cvsStatFault 1) (.cvsCtl e) Fd.cvsCtlBusy 0

/-- An engine starts from block 0, or is refused. -/
def engBegin (e : Nat) (s : State) : State :=
  if engOk s e then setRegF (modEngine s e (fun x => { rate := x.rate, rgns := engRgns s e })) (.cvsCtl e) Fd.cvsCtlBusy 1 else engFault e s

/-- Whether a held request is an engine's. -/
def heldEngine (e : Nat) : HeldReq → Bool
  | .engine n _ _ _ => n == e
  | _ => false

/-- A held request of an engine that stops is no longer made. -/
def engDrop (e : Nat) (s : State) : State :=
  { s with budget := { s.budget with held := s.budget.held.filter (fun q => !heldEngine e q) } }

/-- A write of CVS_CTLe (R307, R308, R508). One that names an activity of the other world is refused as under R253, with FAULT
(R309). -/
def engWrite (x : Writer) (e : Nat) (v : Word) (s : State) : State :=
  let claimed := engF s e Fd.cvsCtlClaimed == 1
  let w := rights x (engWorld s e)
  let en := Fd.cvsCtlEn.get v
  if claimed && w != engWorld s e then raisePriv s x (Creg.addr (.cvsCtl e))
  else if !claimed && x == .kpr && en == 1 then s
  else if blockStopped s 124 then s
  else if Fd.cvsCtlRelease.get v = 1 then
    if claimed then
      let t := [Fd.cvsCtlEn, Fd.cvsCtlBusy, Fd.cvsCtlClaimed, Fd.cvsCtlWorld].foldl (fun u f => setRegF u (.cvsCtl e) f 0) s
      modEngine (engDrop e t) e (fun y => { rate := y.rate })
    else s
  else if engBusy s e then
    if en = 1 then s else setRegF (setRegF (engDrop e s) (.cvsCtl e) Fd.cvsCtlEn 0) (.cvsCtl e) Fd.cvsCtlBusy 0
  else if (claimed || x != .kpr) && actWorld (Fd.cvsCtlAct.get v) != w then
    setRegF (budgetRefuse s w Fd.bdgErrWorld (.cvsCtl e)) (.cvsStat e) Fd.cvsStatFault 1
  else
    let t := plainWrite x (.cvsCtl e) v s
    if en = 0 then t
    else
      let t1 := if claimed then t else setRegF (setRegF t (.cvsCtl e) Fd.cvsCtlClaimed 1) (.cvsCtl e) Fd.cvsCtlWorld w.num
      engBegin e t1

/-- A write of CVS_STARTe, LENe, EXPe or SEQe: ignored while BUSY; a free engine's registers take a write of either
world. -/
def engArgWrite (x : Writer) (e : Nat) (r : Creg) (v : Word) (s : State) : State :=
  if owns x (regOwner s r) && engBusy s e then s else plainWrite x r v s

/-- One granule of an engine's block: RATE and, in GDDR7, the activity's folio allow it. What RATE does not allow waits for a later
tick; what the folio does not cover is held as the request `hold` until the edge (R248, R258). -/
def engMove (e a : Nat) (write : Bool) (hold : HeldReq) (s : State) : Bool × State :=
  let lim := regF s (.cvsRate e) Fd.cvsRateGran
  if running s && lim != 0xFFFF && decide (lim ≤ (getEngine s e).rate) then (false, s)
  else
    let count (t : State) : State := modEngine t e (fun x => { x with rate := if running s then x.rate + 1 else x.rate })
    if a < gddrBase then (true, count s)
    else
      match actCharge (engF s e Fd.cvsCtlAct) a write s with
      | (true, t) => (true, count t)
      | (false, t) => (false, holdReq hold t)

/-- Whether the copy that a read of GDDR7 takes first is uncorrectable, whichever copy is then delivered (R293). -/
def firstBad (s : State) (a : Nat) (err : List Nat) : Bool :=
  match readOrder s a with
  | c :: _ => (copyRead c a err s).1.isNone
  | [] => true

/-- Reads a granule of the target or the table for an engine; an uncorrectable read sets UNC, even where R293 delivers a good
copy (R310). -/
def engRead (e a : Nat) (err err2 : List Nat) (s : State) : Option (List Nat) × State :=
  if a < gddrBase then
    match readGranule s a err (some (engWorld s e)) with
    | (r, t) => (r, if r.isNone then setRegF t (.cvsStat e) Fd.cvsStatUnc 1 else t)
  else
    match gddrRead s a err err2 with
    | (r, t) => (r, if firstBad s a err then setRegF t (.cvsStat e) Fd.cvsStatUnc 1 else t)

/-- Whether an engine may still read an address of its target (0) or of its table (1): the region has not been freed or re-latched
since the start (R290, R310). -/
def engMay (s : State) (e a k : Nat) : Bool :=
  decide (a < gddrBase) ||
    (!(getEngine s e).cut.contains k && (engRgns s e).getD k [] == (getEngine s e).rgns.getD k [])

/-- Reads granules of the block from where it stands: `(done, state)`. -/
def engGranules (e base g : Nat) (err err2 : List Nat) : Nat → State → Bool × State
  | 0, s => (true, s)
  | n + 1, s =>
    let i := (getEngine s e).moved
    let a := base + 32 * i
    if !engMay s e a 0 then (false, engFault e s)
    else
      match engMove e a false (.engine e g err err2) s with
      | (false, t) => (false, t)
      | (true, t) =>
        let (r, u) := engRead e a (if i = g then err else []) (if i = g then err2 else []) t
        let got := flipData (memBytes t a 32) (r.getD [])
        let u1 := modEngine u e (fun x => { x with moved := i + 1, bad := x.bad || r.isNone, data := x.data ++ got })
        engGranules e base g err err2 n u1

/-- The next block, or the end of a pass (R308). -/
def engNext (e : Nat) (s : State) : State :=
  let x := getEngine s e
  let next := if x.block + 1 < engLen s e then x.block + 1 else 0
  let t := modEngine s e (fun y => { y with block := next, moved := 0, bad := false, data := [] })
  if next ≠ 0 ∨ x.block + 1 < engLen s e then t
  else
    let t1 := incRegF (setRegF t (.cvsStat e) Fd.cvsStatDone 1) (.cvsStat e) Fd.cvsStatPasses 1
    if engF s e Fd.cvsCtlRepeat = 1 then t1 else setRegF t1 (.cvsCtl e) Fd.cvsCtlBusy 0

/-- A block that fails its compare (R310). -/
def engMismatch (e base : Nat) (s : State) : State :=
  let blk := (getEngine s e).block
  let first := regF s (.cvsStat e) Fd.cvsStatMismatch == 0
  let t := if first then setRegF s (.cvsFirst e) Fd.cvsFirstBlock blk else s
  let t1 := incRegF (setRegF t (.cvsStat e) Fd.cvsStatMismatch 1) (.cvsCnt e) Fd.cvsCntCount 1
  let (cls, u) := match memClass s base with | some (c, u, _) => (c, u) | none => (8, 0)
  record t1 cls (some (engWorld s e)) u blk

/-- An engine reads what is left of its block, as far as RATE and the folio allow, then its expected word,
and compares or generates. A block with an uncorrectable read counts as a mismatch in either mode (R310); the
value that generate mode then writes is not given (assumption 3). DESIGN CHOICE: assumption 35. -/
def engBlock (e g : Nat) (err err2 : List Nat) (s : State) : State :=
  let n := engBytes s e
  let blk := (getEngine s e).block
  let base := engStart s e + n * blk
  let ex := engExp s e + 4 * blk
  let (done, t) := engGranules e base g err err2 (n / 32 - (getEngine s e).moved) s
  if !done then t
  else if !engMay t e ex 1 then engFault e t
  else
    let gen := engF t e Fd.cvsCtlMode == 1
    match engMove e ex gen (.engine e g err err2) t with
    | (false, u) => u
    | (true, u) =>
      let x := getEngine u e
      let value := BitVec.ofNat 32 (blockCheck (engF u e Fd.cvsCtlPoly) base (reg u (.cvsSeq e)) x.data)
      let errs (l : List Nat) : List Nat := if g = n / 32 then l else []
      if gen then
        let u0 := if x.bad then { u with free := u.free + 1 } else u
        let (ok, v) := gddrWrite u0 ex (wordBytes (if x.bad then Config.freeWord u.free else value)) (errs err) (errs err2)
        let v1 := if ok && !firstBad u ex (errs err) then v else setRegF v (.cvsStat e) Fd.cvsStatUnc 1
        engNext e (if x.bad || !ok then engMismatch e base v1 else v1)
      else
        let (r, v) := engRead e ex (errs err) (errs err2) u
        match r with
        | none => engNext e (engMismatch e base v)
        | some f =>
          if x.bad || applyFlips f ex (memWord v ex) != value then engNext e (engMismatch e base v) else engNext e v

/-- ENGINE_BLOCK: a busy engine goes on, unless a request of it is held (R248). -/
def doEngineBlock (e : Fin 8) (g : Nat) (err err2 : List Nat) (s : State) : State :=
  if !engBusy s e.val || s.budget.held.any (heldEngine e.val) then s else engBlock e.val g err err2 s

/-- The held request of an engine is made again at an edge, and the engine goes on. -/
def engineResume (e g : Nat) (err err2 : List Nat) (s : State) : State := if engBusy s e then engBlock e g err err2 s else s

/-- The engines at a tick edge, once the region table is latched (R290): what they may move begins anew, and a region that has
changed is lost to a running engine. -/
def engineEdge (s : State) : State :=
  s.scan.engine.foldl (fun t e => modEngine t e.1 (fun x =>
    let gone := [0, 1].filter (fun k => (engRgns t e.1).getD k [] != x.rgns.getD k [])
    { x with rate := 0, cut := NSet.addAll x.cut gone })) s

def execStoreScan (q : Fin 64) (ps img : List (Fin 17)) (s : State) : Out := .next (doStoreScan q ps img s)
def execEngineStart (x : Writer) (e : Fin 8) (v : Word) (s : State) : Out := .next (withAccess x (Creg.addr (.cvsCtl e.val)) (some (v ||| 1#32)) (engWrite x e.val (v ||| 1#32)) s)
def execEngineRelease (w : World) (e : Fin 8) (s : State) : Out := .next (withAccess (.cur w) (Creg.addr (.cvsCtl e.val)) (some 0x4000) (engWrite (.cur w) e.val 0x4000) s)
def execEngineBlock (e : Fin 8) (granule : Nat) (err err2 : List Nat) (s : State) : Out := .next (doEngineBlock e granule err err2 s)

end Sys2Proof.Machine
end

