-- ==== Sys2Proof/Machine/Tick.lean ====
section
/-! DEFINITION. The tick generator (R53–R72): start, edges and stop, tick sources and the flywheel, the ingress deadline, and
what every unit does at a tick edge (R57, R104, R244, R246). -/

namespace Sys2Proof.Machine

/-! ### Periods and counts -/

/-- The residue step of a tick edge: the period's length (R54, R57). -/
def residStep (s : State) : State :=
  let (n, p, q) := rateTable (rate s)
  let r := s.tick.resid + p
  let len := if q ≤ r then n + 1 else n
  let res := if q ≤ r then r - q else r
  let t := setRegF (setRegF s .tckPeriod Fd.tckPeriodLen len) .tckPeriod Fd.tckPeriodResid res
  { t with tick := { t.tick with resid := res, period := len } }

/-- Ticks per cycle of the family base rate (R72). -/
def rateMultiple (s : State) : Nat := 2 ^ (rate s / 2)

/-- TICK_OUT and WCLK_OUT at a tick edge (R72). -/
def edgePins (s : State) : State :=
  let div := if regF s .tckOut Fd.tckOutWcBase = 1 then rateMultiple s else 1
  let tick := regF s .tckOut Fd.tckOutTickEn == 1
  let wclk := regF s .tckOut Fd.tckOutWcEn == 1 && s.tick.count.toNat % div == 0
  { s with tick := { s.tick with tickOut := tick, wclkOut := wclk } }

/-! ### The edge -/

/-- The budget enforcers reload (R246); requests that a spent folio held stay held until they are charged (R248). -/
def reloadBudgets (s : State) : State := { s with budget := { held := s.budget.held } }

/-- A mirror place at a tick edge: it keeps its most recent sealed or committed value only (R109, R110). -/
def placeEdge (p : Place) : Place := { hasLast := p.hasLast, last := p.last, lastConc := p.lastConc }

/-- The spine at a tick edge: messages of the ended tick are discarded (R108), and every mirror starts without values; the links keep their replay buffers (R120). -/
def spineEdge (s : State) : State :=
  let places : SMap Place := (s.spine.place.map (fun p => (p.1, placeEdge p.2))).filter (fun p => p.2 != {})
  { s with spine := { s.spine with log := [], cursor := [], ingress := [], place := places } }

/-- A tile core at a tick edge: it takes part from its quire start if it is in service (R76, R140). -/
def readyCore (s : State) (n : Nat) (k : Core) : Core :=
  { k with tx := { k.tx with ready := inService s (n / 17) (n % 17), part := false } }

/-- A curator or the keeper core at a tick edge: its start latch sets, and a WFT that waits completes (R209). -/
def latchStart (c : CoreId) (s : State) : State :=
  let k := getCore s c
  if !k.on || k.halted then s
  else if k.wait = .wft then retire (setCore s c { k with wait := .none, latch := false }) c
  else setCore s c { k with latch := true }

def coresEdge (s : State) : State :=
  let tiles : SMap Core := s.cores.map (fun e => (e.1, if e.1 < 1088 then readyCore s e.1 e.2 else e.2))
  latchStart .keeper (latchStart (.curator .grd) (latchStart (.curator .prg) { s with cores := tiles }))

/-- Whole ticks that each quire has been idle, at the edge that ends one (R449). -/
def idleEdge (s : State) : State :=
  (List.range 64).foldl (fun t q =>
    modQuire t q (fun x => { x with
      idle := if quireIdle t q && regF t (.qrcStat q) Fd.qrcStatPwr == 1 && !x.busy then min 1000 (x.idle + 1) else 0
      busy := !quireIdle t q })) s

/-- An edge that ends a tick: the memory controller and the quires count it (R298, R299, R449). -/
def closeTick (s : State) : State := idleEdge (memEdge s)

/-- What every tick edge does, the final one included: ports judge the tick that has ended (R318), written tables, links,
releases and loads take effect (R104, R120, R131, R141), and notices and control frames leave (R340, R371). -/
def edgeCommon (old : SMap Word) (s : State) : State :=
  let t := loadEdge (relEdge (roleEdge (linkEdge (latchTables old (freshEdge s)))))
  hostEdge (ctxEdge { t with stage := { t.stage with frameDue := true } })

/-- An edge that opens a tick, its number and period already in place. -/
def openTick (old : SMap Word) (hush : BitVec 4) (s : State) : State :=
  let t := { s with tick := { s.tick with cycle := 0, deadline := false, deckle := false, frozen := false, started := [], last := false } }
  let t1 := spineEdge (reloadBudgets (edgeCommon old t))
  let t2 := engineEdge t1
  edgePins (heldEdge (hushSample hush (coresEdge t2)))

/-! ### TICK_START (R63, R65) -/

def goBits (s : State) : Bool := regF s .tckCtl Fd.tckCtlGoPrg == 1 && regF s .tckCtl Fd.tckCtlGoGrd == 1
def stopBits (s : State) : Bool := regF s .tckCtl Fd.tckCtlStopPrg == 1 && regF s .tckCtl Fd.tckCtlStopGrd == 1

/-- The count of the first tick after a start (R63): n + 1 after an earlier tick, else the media count under PTP, else
TCK_INIT. -/
def startCount (s : State) (media : BitVec 64) : BitVec 64 :=
  if s.tick.ran then s.tick.count + 1
  else if regF s .tckSrc Fd.tckSrcActive = 2 then media
  else BitVec.ofNat 64 ((reg s .tckInitLo).toNat + 2 ^ 32 * (reg s .tckInitHi).toNat)

/-- A start finds both SLEEP bits set: the requests clear (R460). -/
def startBeatsSleep (s : State) : State :=
  if regF s .kprPwrReq Fd.kprPwrReqSleepPrg = 1 ∧ regF s .kprPwrReq Fd.kprPwrReqSleepGrd = 1 then
    setRegF (clearRequest s) .kprPwrReq Fd.kprPwrReqRefused 1
  else s

/-- The tiles in service at tick start were released before it: they run until their first quire start (R140). -/
def runEarly (s : State) : State :=
  { s with cores := s.cores.map (fun e =>
      (e.1, if e.1 < 1088 ∧ e.2.tx.ready then { e.2 with tx := { e.2.tx with early := true } } else e.2)) }

/-- TICK_START: the boundary at which both GO bits are set opens the first tick. DEDUCED: assumption 23. -/
def doTickStart (media : BitVec 64) (hush : BitVec 4) (s : State) : State :=
  if running s || !s.power.up || !goBits s then s else
  let n := startCount s media
  let old := s.ctl
  let t := setRegF (startBeatsSleep s) .tckCtl Fd.tckCtlRun 1
  let m := if regF s .tckSrc Fd.tckSrcActive = 2 then media - n else s.tick.media
  let ofs := if regF s .tckSrc Fd.tckSrcRdyPtp = 1 then media - n else s.tick.ptpOfs
  hostShow (runEarly (openTick old hush (residStep { t with tick := { t.tick with count := n, media := m, ptpOfs := ofs, resid := 0, ran := true } })))

/-! ### TICK_EDGE and FINAL_EDGE (R57, R66) -/

/-- Whether the next edge opens a tick, or is the final one (R66). -/
def edgeDue (s : State) : Bool := running s && s.tick.frozen && !s.tick.last
def finalDue (s : State) : Bool := running s && s.tick.frozen && s.tick.last

/-- DESIGN CHOICE: assumption 24. -/
def doTickEdge (hush : BitVec 4) (pherr : Word) (wish : BitVec 16) (s : State) : State :=
  if !edgeDue s then s else
  let t := closeTick (mdxEdge (steerEdge pherr wish s))
  openTick t.spine.lat hush (residStep { t with tick := { t.tick with count := t.tick.count + 1 } })

/-- FINAL_EDGE: the committed results leave, RUN and the GO and STOP bits clear, and the count stays. The frames and packets of the
last stitch leave after it, and the ledger restores that it queued run. TCK_PERIOD keeps showing the last period: DESIGN CHOICE:
assumption 23. DESIGN CHOICE: assumption 24. -/
def doFinalEdge (s : State) : State :=
  if !finalDue s then s else
  let t := closeTick (mdxEdge (restoreAll s))
  let u := spineEdge (reloadBudgets (edgeCommon t.spine.lat t))
  let v := [Fd.tckCtlGoPrg, Fd.tckCtlGoGrd, Fd.tckCtlStopPrg, Fd.tckCtlStopGrd, Fd.tckCtlRun].foldl (fun x f => setRegF x .tckCtl f 0) u
  hostShow { v with tick := { v.tick with last := false, frozen := false, deckle := false, deadline := false, started := [], cycle := 0,
                                           tickOut := false, wclkOut := false } }

/-- A curator writes one of its bits of TCK_CTL, the other keeping its value. -/
def tckBit (w : World) (f : Fld) (v : Bool) (s : State) : State :=
  let word := f.putN (reg s .tckCtl) (if v then 1 else 0)
  withAccess (.cur w) (Creg.addr .tckCtl) (some word) (plainWrite (.cur w) .tckCtl word) s

def goField : World → Fld
  | .prg => Fd.tckCtlGoPrg
  | .grd => Fd.tckCtlGoGrd
def stopField : World → Fld
  | .prg => Fd.tckCtlStopPrg
  | .grd => Fd.tckCtlStopGrd

/-! ### INGRESS_DEADLINE (R59, R116) -/

/-- The deadline's cycle (VAL8). -/
def deadlineCycle (s : State) : Nat := [2000, 3000, 4000, 6000].getD (strap s 8) 4000

/-- Ingress slots that no frame has published in the tick. -/
def ingressMissing (s : State) : List Nat :=
  ((ownedSlots s).filter (fun e => Fd.spnSlotcfgType.get e.2 == 2 && !(s.spine.ingress.any (fun p => p.1 == e.1)))).map (·.1)

/-- The ingress deadline, which follows the tick's egress start and every quire start (R57): the concealment engine publishes the candidate of every ingress slot without a frame, and ports
count what they missed. -/
def doIngressDeadline (s : State) : State :=
  if !running s || s.tick.deadline || s.tick.deckle || s.stage.frameDue || startsDue (fun _ => true) s then s else
  let miss := ingressMissing s
  let t := miss.foldl (fun u n => publishIngress n (candidate u n) true false u) s
  let t1 := setRegF (setRegF t .spnIconc Fd.spnIconcCount miss.length) .spnIconc Fd.spnIconcTick (s.tick.count.toNat % 65536)
  streamDeadline (tdmDeadline { t1 with tick := { t1.tick with deadline := true, cycle := max t1.tick.cycle (deadlineCycle s) } })

/-! ### Reads that latch (R64) -/

/-- A curator reads TCK_COUNT_LO: the high half goes into its shadow. -/
def countLoRead (w : World) (s : State) : State :=
  let hi : Word := (s.tick.count >>> 32).setWidth 32
  match w with
  | .prg => { s with tick := { s.tick with shPrg := hi } }
  | .grd => { s with tick := { s.tick with shGrd := hi } }

/-- A curator reads TCK_MEDIA_LO. -/
def mediaLoRead (w : World) (s : State) : State :=
  let hi : Word := (s.tick.media >>> 32).setWidth 32
  match w with
  | .prg => { s with tick := { s.tick with mediaShPrg := hi } }
  | .grd => { s with tick := { s.tick with mediaShGrd := hi } }

def execTickStart (media : BitVec 64) (hush : BitVec 4) (s : State) : Out := .next (doTickStart media hush s)
def execTckGo (w : World) (v : Bool) (s : State) : Out := .next (tckBit w (goField w) v s)
def execTckStop (w : World) (v : Bool) (s : State) : Out := .next (tckBit w (stopField w) v s)
def execIngressDeadline (s : State) : Out := .next (doIngressDeadline s)
def execTckCountLoRead (w : World) (s : State) : Out := .next (withAccess (.cur w) (Creg.addr .tckCountLo) none (countLoRead w) s)
def execTckMediaLoRead (w : World) (s : State) : Out := .next (withAccess (.cur w) (Creg.addr .tckMediaLo) none (mediaLoRead w) s)

end Sys2Proof.Machine
end

