-- ==== Sys2Proof/Machine/Stitch.lean ====
section
/-! DEFINITION. The stitch (R92–R101): freeze and seeds, the abort closure, the verdict, slot resolution and concealment
history (R115, R265), ledger flips (R93, R270), the budget counters (R258), the evidence of aborts (R101, R271), failures,
takeover and handover (R131–R136, R267–R276), and the stitch record. -/

namespace Sys2Proof.Machine

/-! ### Statuses at the freeze (R80, R92, R96) -/

/-- A tile of the running tick as the freeze finds it. -/
structure Frozen where
  q : Nat
  j : Nat
  idx : Nat
  core : Core
  /-- Its causes (R79, R99); empty for a tile that is STITCHED with its write-through acknowledged. -/
  causes : NSet
deriving DecidableEq, Repr

/-- Whether a tile delivers no status (R80): its core is halted without a tile fault in the tick, or it never opened. -/
def noStatus (k : Core) : Bool := (k.halted && !k.tx.causes.contains 8) || k.tx.st == .idle

/-- The causes that stand against a tile at the freeze: its own, MISSED without a status, LEDGER with write-through not
acknowledged. -/
def freezeCauses (missing : Bool) (k : Core) : NSet :=
  let a := if missing || noStatus k then NSet.add k.tx.causes 9 else k.tx.causes
  if k.tx.wtq.isEmpty && !k.tx.wtLost then a else NSet.add a 4

/-- The released tiles of the tick, by position. -/
def frozenTiles (missing : List Nat) (s : State) : List Frozen :=
  (s.cores.filter (fun e => decide (e.1 < 1088) && e.2.tx.part && inService s (e.1 / 17) (e.1 % 17))).map (fun e =>
    ⟨e.1 / 17, e.1 % 17, consIndex s (e.1 / 17) (e.1 % 17), e.2, freezeCauses (missing.contains e.1) e.2⟩)

/-- A seed of the abort set (R97). -/
def isSeed (f : Frozen) : Bool := f.core.tx.st != .stitched || !f.causes.isEmpty

/-! ### The closure (R97) -/

/-- One propagation step: every tile whose frozen vector meets the abort set joins it. -/
def closureStep (fs : List Frozen) (ab : NSet) : NSet :=
  NSet.addAll ab ((fs.filter (fun f => !ab.contains f.idx && f.core.tx.cons.any (fun i => ab.contains i))).map (·.idx))

/-- `n` steps from step `k` on, with the last step that added a tile. -/
def closureFrom (fs : List Frozen) : Nat → Nat → NSet → Nat → NSet × Nat
  | 0, _, ab, last => (ab, last)
  | n + 1, k, ab, last =>
    let next := closureStep fs ab
    closureFrom fs n (k + 1) next (if next.length = ab.length then last else k)

/-- The abort set and STEPS. -/
def closure (fs : List Frozen) (seeds : NSet) : NSet × Nat := closureFrom fs 15 1 seeds 0

/-- What the stitch has decided. -/
structure Verdict where
  fs : List Frozen
  seeds : NSet
  aborts : NSet
  steps : Nat
deriving DecidableEq, Repr

def verdictOf (fs0 : List Frozen) : Verdict :=
  let seeds := NSet.addAll [] ((fs0.filter isSeed).map (·.idx))
  let (ab, steps) := closure fs0 seeds
  let fs := fs0.map (fun f => if ab.contains f.idx && !seeds.contains f.idx then { f with causes := NSet.add f.causes 5 } else f)
  ⟨fs, seeds, ab, steps⟩

def commits (v : Verdict) (f : Frozen) : Bool := !v.aborts.contains f.idx

/-- Whether a tile fails at the stitch: cause TFAULT or MISSED (R80). -/
def fails (f : Frozen) : Bool := f.causes.contains 8 || f.causes.contains 9

/-- The cause that is reported of several (R99): the lowest, FARHELD in place of DECKLE. -/
def reported (cs : NSet) : Nat :=
  match cs with
  | [] => 0
  | a :: _ => if a = 1 ∧ cs.contains 7 then 7 else a

/-- TSTAT for the next tick (R100), with a cause. -/
def tstatWord (s : State) (cause : Nat) (x : Tx) : Word :=
  BitVec.ofNat 32 (cause + 16 * (if cause = 2 then x.self else 0) + 4096 * x.maxDepth + 65536 * (s.tick.count.toNat % 65536))

/-! ### Slot resolution (R88, R96, R265) -/

/-- The published value of a tile's slot that stands: sealed, or of a tile that commits. -/
def standing (v : Verdict) (slot i : Nat) : Option Pub :=
  match v.fs.find? (fun f => f.idx == i) with
  | none => none
  | some f =>
    match f.core.tx.pubs.find? (fun e => e.1 == slot) with
    | some e => if e.2.sealed_ || commits v f then some e.2 else none
    | none => none

/-- What the stitch commits for an owned slot. -/
def resolve (s : State) (v : Verdict) (slot : Nat) (w : Word) : Committed :=
  let cand : Committed := ⟨candidate s slot, true⟩
  if Fd.spnSlotcfgType.get w = 2 then
    match s.spine.ingress.find? (fun e => e.1 == slot) with
    | some e => if e.2.sealed_ then ⟨e.2.value, false⟩ else cand
    | none => cand
  else
    match standing v slot (ownerTile w) with
    | some p => ⟨p.value, false⟩
    | none => cand

/-- The history of a slot after the stitch (R265). -/
def histStep (h : Hist) (c : Committed) : Hist :=
  if !c.cand then ⟨c.value, h.h1, 0, false⟩
  else
    let n := h.cnt + 1
    ⟨c.value, if n ≤ 9 then h.h1 else h.h2, min n 16, true⟩

/-- Every owned slot is resolved, and the concealment engine shifts its histories; a slot with no owner is concealed. -/
def resolveSlots (v : Verdict) (s : State) : State :=
  let res : SMap Committed := (ownedSlots s).map (fun e => (e.1, resolve s v e.1 e.2))
  let hist : SMap Hist := (res.map (fun e => (e.1, histStep (getHist s e.1) e.2))).filter (fun e => e.2 != ⟨0, 0, 16, true⟩)
  let out : SMap Committed := res.filter (fun e => e.2 != ⟨0, true⟩)
  { s with conceal := { s.conceal with hist := hist, stitched := true, out := out } }

/-- The broadcast to the mirrors (R115): a provisional value of a tile that commits, or that sealed in the deckle, is
recorded as the last committed one; any other is discarded. -/
def settlePlace (good : NSet) (p : Place) : Place :=
  if !p.prov then p
  else if good.contains p.src then { p with prov := false, depth := 0, hasLast := true, last := p.value, lastConc := p.conc }
  else { hasLast := p.hasLast, last := p.last, lastConc := p.lastConc, lost := p.lost }

def settleMirrors (v : Verdict) (s : State) : State :=
  let good := NSet.addAll [] ((v.fs.filter (fun f => commits v f || f.core.tx.deckleSeal)).map (·.idx))
  { s with spine := { s.spine with place := (s.spine.place.map (fun p => (p.1, settlePlace good p.2))).filter (fun p => p.2 != {}) } }

/-! ### Ledgers (R93, R270) -/

/-- A committing tile's dirty granules flip; a clean granule whose committed copy is poisoned is rewritten from SRAM. -/
def commitLedger (f : Frozen) (s : State) : State :=
  let pair := ledMap s f.q (maskBit s f.q f.j)
  let t := modQuire s f.q (fun x => { x with
    sel := f.core.tx.dirty.foldl (fun m g => let k := 512 * pair + g; if m.contains k then m.filter (· != k) else NSet.add m k) x.sel })
  let bad := (List.range 512).filter (fun g => !f.core.tx.dirty.contains g && t.poison.contains (committedAt t f.q pair g))
  bad.foldl (fun u g => copyRange u (tileBase f.q f.j + 0x1C000 + 32 * g) (committedAt u f.q pair g) 32) t

/-- One tile after the verdict: its TSTAT, its ledger flipped or its restore queued. -/
def settleTile (v : Verdict) (s : State) (f : Frozen) : State :=
  let c := tileId f.q f.j
  let ok := commits v f
  let t := modCore s c (fun k => { k with tx := { k.tx with
    verdict := tstatWord s (reported f.causes) f.core.tx, causes := f.causes, restore := if ok then [] else f.core.tx.dirty } })
  if ok then commitLedger f t else t

/-! ### Budgets (R258) -/

/-- BDG_TEV of a tile. -/
def countTev (s : State) (f : Frozen) : State :=
  let x := f.core.tx
  let up (b : Bool) (fl : Fld) (t : State) : State := if b then incRegF t (.bdgTev f.idx) fl 1 else t
  up x.heldArc Fd.bdgTevArchold (up x.heldPub Fd.bdgTevPubhold (up x.heldPis Fd.bdgTevPishold
    (up (x.causes.contains 3) Fd.bdgTevCycstop s)))

/-- BDG_EV of a world: a BUDGET stop, and closure aborts where every seed of the world had cause BUDGET. -/
def countEv (v : Verdict) (w : World) (s : State) : State :=
  let mine := v.fs.filter (fun f => quireWorld s f.q == w)
  let seeds := mine.filter (fun f => v.seeds.contains f.idx)
  let closed := mine.filter (fun f => f.causes.contains 5)
  let t := if mine.any (fun f => f.core.tx.causes.contains 3) then incRegF s (.bdgEv w.num) Fd.bdgEvBudstop 1 else s
  if seeds.all (fun f => reported f.causes == 3) then incRegF t (.bdgEv w.num) Fd.bdgEvBudcl closed.length else t

/-- The use of an activity, a gallery and a curator in the tick, and whether a request was held. -/
def countAct (s : State) (a : Nat) : State :=
  let t := setRegF s (.bdgActu a) Fd.bdgActuUsed (actUsed s a)
  if s.budget.heldAct.contains a then incRegF t (.bdgActu a) Fd.bdgActuHcnt 1 else t
def countGal (s : State) (h : Nat) : State :=
  if (hostWorld s h).isNone then s else
  let t := setRegF s (.bdgGalu h) Fd.bdgGaluUsed (min 65535 (s.budget.gal.get h 0))
  if s.budget.heldGal.contains h then incRegF t (.bdgGalu h) Fd.bdgGaluHcnt 1 else t
def countCur (s : State) (w : World) : State :=
  let t := setRegF s (.bdgCuru w.num) Fd.bdgCuruUsed (min 65535 (s.budget.ctl.get w.num 0))
  let t1 := if s.budget.heldCur.contains w.num then incRegF t (.bdgCuru w.num) Fd.bdgCuruHcnt 1 else t
  if s.budget.heldAct.any (fun a => actWorld a == w) then incRegF t1 (.bdgEv2 w.num) Fd.bdgEv2Memhold 1 else t1

def countBudgets (v : Verdict) (s : State) : State :=
  let t := countEv v .grd (countEv v .prg (v.fs.foldl countTev s))
  countCur (countCur ((List.range 4).foldl countGal ((List.range 64).foldl countAct t)) .prg) .grd

/-! ### Evidence of aborts (R99, R101, R271) -/

/-- The class of a cause (R101): 1 or 2 for a failed tile, by whether a reserve takes its place. -/
def causeClass (f : Frozen) (cause : Nat) (reserve : Bool) : Nat :=
  match cause with
  | 3 => 25
  | 6 => if f.core.tx.ucls = 0 then 3 else f.core.tx.ucls
  | 8 => if reserve then 1 else 2
  | 9 => if reserve then 1 else 2
  | _ => 28

/-- The causes that are recorded of a tile: FARHELD takes the place of DECKLE for its stop. -/
def recordedCauses (cs : NSet) : NSet := if cs.contains 7 then cs.filter (· != 1) else cs

/-- The unit of a cause's record (R261): for UNCORR the unit of the memory or the message behind it, else the tile. -/
def causeUnit (f : Frozen) (cause : Nat) : Nat :=
  if cause ≠ 6 then f.idx else f.core.tx.uunit.getD (if f.core.tx.ucls = 12 then f.q else f.idx)

/-- One record for each cause of a tile of the abort set, and for the late fault of a tile that commits (R269); class 26 beside a
missed stitch. -/
def recordAbort (v : Verdict) (reserve : Frozen → Bool) (s : State) (f : Frozen) : State :=
  let w := some (quireWorld s f.q)
  if commits v f then (if fails f then record s (causeClass f 8 (reserve f)) w f.idx 8 else s) else
  let t := (recordedCauses f.causes).foldl (fun u c => record u (causeClass f c (reserve f)) w (causeUnit f c) c) s
  if f.causes.contains 9 then record t 26 w f.idx 9 else t

/-! ### Failures and takeover (R131, R132, R136, R267) -/

/-- The tiles of the tick with the faults that arose after the freeze: their verdict stands, and they fail at P − 1 (R99, R269). -/
def withLate (late : List Nat) (fs : List Frozen) : List Frozen :=
  fs.map (fun f => if late.contains (17 * f.q + f.j) ∧ !fails f then { f with causes := NSet.add f.causes 8 } else f)

/-- Whether a failing tile's quire has a reserve that takes its place: the reserve does not fail itself, and no lower
logical tile of the quire takes it (R132). -/
def takesReserve (s : State) (fs : List Frozen) (f : Frozen) : Bool :=
  role s f.q f.j < 16 &&
  match holder s f.q 16 with
  | none => false
  | some j => !fs.any (fun g => g.q == f.q && g.j == j && fails g) &&
      !fs.any (fun g => g.q == f.q && decide (g.idx < f.idx) && fails g)

/-- An armed handover is cancelled (R136). -/
def cancelHandover (q : Nat) (s : State) : State :=
  if (getQuire s q).armed = none then s else
  setRegF (setRegF (setRegF (modQuire s q (fun x => { x with armed := none })) (.qrcHovr q) Fd.qrcHovrArmed 0)
    (.qrcHovr q) Fd.qrcHovrErr 1) (.qrcHovr q) Fd.qrcHovrDone 1

/-- A position is marked failed: its core halts for good; far stores on their way stay final (R89). -/
def markFailed (q j : Nat) (s0 : State) : State :=
  let s := modQuire s0 q (fun x => { x with fresh := NSet.add x.fresh j })
  let t := setRegF (setRegF s (.qrcPos q j) Fd.qrcPosRole 17) (.qrcPos q j) Fd.qrcPosFailed 1
  let k := getCore s (tileId q j)
  setCore (setRegF t (.qrcPos q j) Fd.qrcPosFailtick (s.tick.count.toNat % 65536)) (tileId q j)
    { halted := true, unack := k.unack, nextId := k.nextId }

/-- A LOADRES that waits for the edge, or is under way, ends with the reserve that it was to load (R134). -/
def dropLoadres (q : Nat) (s : State) : State :=
  match (getQuire s q).load with
  | some (.loadres _ _) => setRegF (modQuire s q (fun x => { x with load := none, loadOn := false })) (.qrcStat q) Fd.qrcStatLoading 0
  | _ => s

/-- One failed tile at P − 1: its position is failed, and a logical number passes to the reserve, whose takeover load begins
at the next edge; the quire then has no reserve. A LOADRES of a reserve that fails is dropped: DESIGN CHOICE: assumption 45. -/
def failTile (reserve : Frozen → Bool) (s : State) (f : Frozen) : State :=
  let r := role s f.q f.j
  let t := markFailed f.q f.j (cancelHandover f.q s)
  if r = 16 then dropLoadres f.q <| setRegF (setRegF t (.qrcStat f.q) Fd.qrcStatRsvRun 0) (.qrcStat f.q) Fd.qrcStatNoReserve 1
  else
    let t1 := setRun t f.q r false
    match reserve f, holder t1 f.q 16 with
    | true, some j =>
      let cause := if f.causes.contains 8 then 8 else 9
      let rsv : Core := { tx := { verdict := tstatWord s cause f.core.tx } }
      let t2 := setRegF (setRegF (setRegF t1 (.qrcPos f.q j) Fd.qrcPosRole r) (.qrcStat f.q) Fd.qrcStatRsvRun 0)
        (.qrcStat f.q) Fd.qrcStatLoading 1
      let t2 := setRegF t2 (.qrcStat f.q) Fd.qrcStatNoReserve 1
      let t3 := modQuire t2 f.q (fun x => { x with load := some (.takeover j r), loadOn := false, rsvNext := false })
      let t4 := setRegF (setRegF (incRegF t3 (.qrcTkov f.q) Fd.qrcTkovCount 1) (.qrcTkov f.q) Fd.qrcTkovLast r)
        (.qrcTkov f.q) Fd.qrcTkovTick (s.tick.count.toNat % 65536)
      let k := getCore t4 (tileId f.q j)
      setCore t4 (tileId f.q j) { rsv with nextId := k.nextId, unack := k.unack }
    | _, _ => setRegF t1 (.qrcStat f.q) Fd.qrcStatNoReserve 1

/-- Positions whose failure a curator is told of: those that failed at an earlier stitch (R267, R274). -/
def tellCurators (s : State) : State :=
  (List.range 64).foldl (fun t q =>
    modQuire t q (fun x => { x with told := (List.range 17).filter (fun j => regF t (.qrcPos q j) Fd.qrcPosFailed == 1) })) s

/-! ### Handover (R135) -/

/-- A quire's armed handover takes place when logical K and the reserve both commit and no tile of the quire fails: the
positions exchange roles, images and ledger pairs, and the old position is halted. -/
def handover (v : Verdict) (s : State) (q : Nat) : State :=
  match (getQuire s q).armed, holder s q 16 with
  | some k, some jr =>
    match holder s q k with
    | none => s
    | some jk =>
      let good (j : Nat) : Bool := v.fs.any (fun f => f.q == q && f.j == j && commits v f)
      if !good jk || !good jr then s else
      let ik := imgMap s q k
      let ir := imgMap s q 16
      let lk := ledMap s q k
      let lr := ledMap s q 16
      let t := setRegF (setRegF s (.qrcPos q jr) Fd.qrcPosRole k) (.qrcPos q jk) Fd.qrcPosRole 16
      let t1 := modQuire t q (fun x => { x with
        armed := none
        imgMap := (x.imgMap.set k ir k).set 16 ik 16
        ledMap := (x.ledMap.set k lr k).set 16 lk 16 })
      let t2 := setRegF (setRegF (setRegF t1 (.qrcStat q) Fd.qrcStatRsvRun 0) (.qrcHovr q) Fd.qrcHovrArmed 0)
        (.qrcHovr q) Fd.qrcHovrDone 1
      patchReserve q (modCore t2 (tileId q jk) (fun x => { x with on := false, tx := {} }))
  | _, _ => s

/-! ### The record (R101) and CUR_CONC (R265, R274) -/

/-- A word of a set of consumed-from indices. -/
def indexWord (m : NSet) (k : Nat) : Word :=
  BitVec.ofNat 32 ((m.filter (fun i => i / 32 == k)).foldl (fun n i => n + 2 ^ (i % 32)) 0)

def stitchRecord (v : Verdict) (failed : Bool) (s : State) : State :=
  let t := setRegF (setRegF s .spnStsum Fd.spnStsumTick (s.tick.count.toNat % 65536)) .spnStsum Fd.spnStsumSeeds v.seeds.length
  let t1 := setRegF (setRegF t .spnStsum2 Fd.spnStsum2Aborts v.aborts.length) .spnStsum2 Fd.spnStsum2Steps v.steps
  let t2 := setRegF t1 .spnStsum2 Fd.spnStsum2Failed (if failed then 1 else 0)
  (List.range 34).foldl (fun u k => setReg (setReg u (.spnStseed k) (indexWord v.seeds k)) (.spnStabt k) (indexWord v.aborts k)) t2

/-- CUR_CONC of a world after a stitch at which its egress did or did not carry a candidate, with its run so far. -/
def countConc (w : World) (hit : Bool) (run : Nat) (s : State) : State :=
  if !hit then s else
  let t := incRegF s (.curConc w.num) Fd.curConcCticks 1
  setRegF t (.curConc w.num) Fd.curConcRun (min 255 (max (regF t (.curConc w.num) Fd.curConcRun) run))

/-- Egress latches the committed values of its groups, and the worlds count what was concealed. -/
def egressPhase (s : State) : State :=
  let (t0, m0) := egressStitch s
  let (t, m) := streamsStitch t0 m0
  let p := if m % 2 = 1 then t.conceal.runPrg + 1 else 0
  let g := if m / 2 % 2 = 1 then t.conceal.runGrd + 1 else 0
  countConc .grd (m / 2 % 2 == 1) g (countConc .prg (m % 2 == 1) p { t with conceal := { t.conceal with runPrg := p, runGrd := g } })

/-! ### STITCH_FREEZE (R96) -/

/-- The stitch, from the freeze at P − 64 to the record at P − 1, with the tile faults that arise meanwhile (R269). DESIGN CHOICE:
assumption 24. -/
def doStitchFreeze (missing late : List (Fin 1088)) (s : State) : State :=
  if !running s || !s.tick.deckle || s.tick.frozen then s else
  let t := { s with tick := { s.tick with frozen := true, last := stopBits s, cycle := s.tick.period - 1 } }
  let v := verdictOf (frozenTiles (missing.map (·.val)) t)
  let fs := withLate (late.map (·.val)) v.fs
  let reserve := takesReserve t fs
  let t1 := egressPhase (v.fs.foldl (settleTile v) (settleMirrors v (resolveSlots v t)))
  let t2 := tellCurators (fs.foldl (recordAbort v reserve) (countBudgets v t1))
  let failed := fs.filter fails
  let t3 := failed.foldl (failTile reserve) t2
  stitchRecord v (!failed.isEmpty) ((List.range 64).foldl (handover v) t3)

def execStitchFreeze (missing late : List (Fin 1088)) (s : State) : Out := .next (doStitchFreeze missing late s)

end Sys2Proof.Machine
end

