-- ==== Sys2Proof/Machine/Irq.lean ====
section
/-! DEFINITION. Interrupts and non-maskable events of Limdon cores (R209, R234, R235, R239–R242, R440), and CUR_IRQw. -/

namespace Sys2Proof.Machine

/-! ### Block conditions (R240) -/

/-- Whether any of the given bits of a register is set. -/
def anyBit (s : State) (r : Creg) (m : Word) : Bool := reg s r &&& m != 0#32

/-- A tile failure that the curator has been told of (R240, R274). -/
def irqTile (s : State) (w : World) : Bool :=
  s.quires.any (fun e => quireWorld s e.1 == w && e.2.told.any (fun j => regF s (.qrcPos e.1 j) Fd.qrcPosFailed == 1))

/-- Refusals of the shared tables, and retired links, of a world's quires. -/
def irqSpine (s : State) (w : World) : Bool :=
  anyBit s (.spnErr w.num) 0xF#32 ||
    (List.range 64).any (fun q => quireWorld s q == w &&
      (regF s (.spnLink q) Fd.spnLinkL0Fail == 1 || regF s (.spnLink q) Fd.spnLinkL1Fail == 1))

/-- Refused SEL writes and an acquisition in progress; TCK_SRC belongs to the programme world. -/
def irqTick (s : State) (w : World) : Bool :=
  w == .prg && (regF s .tckSrc Fd.tckSrcErrNotready == 1 || regF s .tckSrc Fd.tckSrcErrRate == 1 ||
    regF s .tckSrc Fd.tckSrcSlewing == 1)

/-- Region-table refusals, the status bits of a world's engines (R308), and retired channels, for both worlds (R299). -/
def irqMem (s : State) (w : World) : Bool :=
  anyBit s (.memErr w.num) 0x7#32 || (List.range 8).any (fun c => chanState s c == 3) ||
    (List.range 64).any (fun e => regF s (.cvsCtl e) Fd.cvsCtlClaimed == 1 && regF s (.cvsCtl e) Fd.cvsCtlWorld == w.num &&
      (regF s (.cvsStat e) Fd.cvsStatDone == 1 || regF s (.cvsStat e) Fd.cvsStatMismatch == 1 ||
        regF s (.cvsStat e) Fd.cvsStatUnc == 1 || regF s (.cvsStat e) Fd.cvsStatFault == 1))

/-- The counted events of a TDM port: slips, ticks without a frame, rejected entries. -/
def tdmEvents (s : State) (t : Nat) : Bool :=
  [Fd.tdmStatSlip, Fd.tdmStatMiss, Fd.tdmStatRej].any (fun f => regF s (.tdmStat t) f != 0)

/-- Event queues above their thresholds (R321), TDM events, refused streams, refused claims of jacks. -/
def irqPort (s : State) (w : World) : Bool :=
  (List.range 32).any (fun p => regF s (.mdxCfg p) Fd.mdxCfgEvw == w.num && regF s (.mdxEvstat p) Fd.mdxEvstatEvirq == 1) ||
    (List.range 16).any (fun t => groupOwn s (tdmGroup t) == .world w && tdmEvents s t) ||
    (w == .prg && regF s .ethErr Fd.ethErrRefuse != 0) || (w == .grd && regF s .egrErr Fd.egrErrClaimed == 1)

/-- Link losses (R373) and refusals of a world's host ports. -/
def irqHost (s : State) (w : World) : Bool :=
  (List.range 4).any (fun h => hostWorld s h == some w &&
    (regF s (.hstStat h) Fd.hstStatLinkdowns != 0 || anyBit s (.hstErr2 h) 0x3#32))

/-- Serial interrupts (R354), panel events (R349) and panel refusals. -/
def irqSerpnl (s : State) (w : World) : Bool :=
  (List.range 4).any (fun n => regOwner s (.serStat n) == .world w && anyBit s (.serStat n) 0xF#32) ||
    regF s (.pnlEvstat w.num) Fd.pnlEvstatEvirq == 1 || anyBit s (.pnlErr w.num) 0xF#32

/-- Flash commands that ended, refused vitrine and replacement commands, refused block resets, refused sleep requests, and the sleep
timer. -/
def irqKeeper (s : State) (w : World) : Bool :=
  regF s (.flsCmd (w.num + 1)) Fd.flsCmdDone == 1 || regF s (.truCmd w.num) Fd.truCmdStatus != 0 ||
    regF s (.truLive w.num) Fd.truLiveStatus != 0 || regF s (.kprRstErr w.num) Fd.kprRstErrRefused == 1 ||
    regF s .kprPwrReq Fd.kprPwrReqRefused == 1 || (w == .prg && regF s .kprPwrTmr Fd.kprPwrTmrExpired == 1)

/-- CUR_IRQw: each bit is the OR of its blocks' status bits (R240). DEDUCED: assumption 21. -/
def curIrq (s : State) (w : World) : Word :=
  let b (x : Bool) (n : Nat) : Word := if x then BitVec.ofNat 32 (2 ^ n) else 0
  b (irqTile s w) 0 ||| b (irqSpine s w) 1 ||| b (irqTick s w) 2 ||| b (irqMem s w) 3 ||| b (irqPort s w) 4 |||
    b (irqHost s w) 5 ||| b (irqSerpnl s w) 6 ||| b (irqKeeper s w) 7

/-! ### Entries -/

/-- Whether a core stands at a retirement boundary where an asynchronous entry may be made: it may execute, or it waits
at WFT, SEAL or STITCH. A precise PRESS is not interrupted. -/
def atBoundary (s : State) (c : CoreId) : Bool :=
  (getCore s c).wait != .press && canRun (modCore s c (fun k => { k with wait := .none })) c

/-- A cell of the supervisor bank awaits an LDF, or a GET in mode WAIT (R234). -/
def supAwaits (k : Core) : Bool :=
  k.sup.cells.any (fun x => match x with
    | .pend i => k.loads.any (fun l => l.id == i && (match l.src with | .word _ g _ => g.isNone | _ => true))
    | .val _ => false)

/-- An entry from supervisor level waits for the pending cells of its bank (R229). -/
def entryWaits (k : Core) : Bool := isSup k && k.sup.cells.any isPend

/-- An enabled block condition of a world. -/
def blockDue (s : State) (w : World) : Bool := curIrq s w &&& reg s (.curIrqen w.num) != 0#32

/-- The interrupt that is due on a core, by its vector (R234, R240, R241): TTIMER, CMSG, BLOCK. The keeper core takes BLOCK
(R224) for the enabled conditions of either world. DESIGN CHOICE: assumption 21. -/
def dueVector (s : State) (c : CoreId) : Option Nat :=
  let k := getCore s c
  if ccrF k .irq Fd.cIrqTtp = 1 ∧ ccrF k .irq Fd.cIrqTten = 1 then some 9
  else match c with
    | .tile _ _ => if ccrF k .irq Fd.cIrqCmp = 1 ∧ ccrF k .irq Fd.cIrqCmen = 1 then some 10 else none
    | .curator w => if blockDue s w then some 13 else none
    | .keeper => if blockDue s .prg || blockDue s .grd then some 13 else none

/-- A non-maskable event is due (R239). -/
def nmeDue (s : State) (c : CoreId) : Bool :=
  let k := getCore s c
  ccrF k .cstat Fd.cCstatNmip == 0 &&
  match c with
  | .tile _ _ => false
  | .curator w => regF s (.curNme w.num) Fd.curNmeEvent != 0
  | .keeper => k.nmePend

/-- INTERRUPT_ENTRY (R234, R235, R240, R241): nothing is taken with IE clear, with an NME due, or while a supervisor cell
awaits a load; an interrupted WFT is the frame's EPC. DESIGN CHOICE: assumption 13. DEDUCED: assumption 21. -/
def doInterruptEntry (c : CoreId) (s : State) : State :=
  let k := getCore s c
  if !atBoundary s c || ccrF k .cstat Fd.cCstatIe == 0 || nmeDue s c || supAwaits k || entryWaits k then s else
  match dueVector s c with
  | none => s
  | some v => enterException (useStep c s) c v 0 0 k.pc

/-- The keeper ROM writes the REQ bit of each halted curator (R440). -/
def requestHalted (s : State) : State :=
  let halted (w : World) : Bool := regF s (.curStat w.num) Fd.curStatHalted == 1
  rstReqWrite .kpr 0 (BitVec.ofNat 32 ((if halted .prg then 1 else 0) + (if halted .grd then 2 else 0))) s

/-- NME_ENTRY (R239, R241, R440). DEDUCED: assumption 21. -/
def doNmeEntry (c : CoreId) (s : State) : State :=
  let k := getCore s c
  if !atBoundary s c || !nmeDue s c || entryWaits k then s else
  let t := enterException (useStep c s) c 12 0 0 k.pc
  if ccrF (getCore t c) .cstat Fd.cCstatNmip = 0 ∧ !(getCore t c).halted then t else
  match c with
  | .keeper =>
    let u := modCore t .keeper (fun x => { x with nmePend := false })
    if (getCore u .keeper).halted then u else requestHalted u
  | _ => t

def execInterruptEntry (c : CoreId) (s : State) : Out := .next (doInterruptEntry c s)
def execNmeEntry (c : CoreId) (s : State) : Out := .next (doNmeEntry c s)

end Sys2Proof.Machine
end

