-- ==== Sys2Proof/Machine/RegWrite.lean ====
section
/-! DEFINITION. Accesses to the control space by address (R4–R6, R16, R17, R19): what a write of each register does, what a
read of each returns, the frame windows, and retained memory. -/

namespace Sys2Proof.Machine

/-! ### Writes -/

/-- A register that is ignored while a condition holds: a writer that owns it changes nothing then. -/
def writeUnless (b : Bool) (x : Writer) (r : Creg) (v : Word) (s : State) : State :=
  if b && owns x ((wholeOwner s r).getD .nobody) then s else plainWrite x r v s

/-- A reserved fault class (R261), whose counters read 0 (R274). -/
def classReserved (c : Nat) : Bool := c == 0 || decide (29 ≤ c)

/-- A write of CUR_FCNTw_c: that of a reserved class holds nothing. -/
def fcntWrite (x : Writer) (r : Creg) (c : Nat) (v : Word) (s : State) : State :=
  if classReserved c then (if writeDenied s x r v then raisePriv s x r.addr else s) else plainWrite x r v s

/-- What a write of a control register does. The count of a watchdog at its check-in, and the lock of a quire's links at
the next edge, are no part of a plain write: they are free values here (assumption 3). -/
def regWrite (x : Writer) (r : Creg) (v : Word) (s : State) : State :=
  match r with
  | .kprClkSel => refselWrite x v s
  | .kprRstReq k => rstReqWrite x k v s
  | .kprRstAssert => rstAssertWrite x v s
  | .kprPwrReq => pwrReqWrite x v s
  | .kprWdgCtl w => wdgCtl x w v s
  | .kprWdgKey w => wdgKey x w v s
  | .kprWdgOpen w => wdgConfig x w r v s
  | .kprWdgClose w => wdgConfig x w r v s
  | .kprWdgReq w => wdgConfig x w r v s
  | .kprWdgChk w => let (t, u) := drawFree s; checkIn x w v t u
  | .kprWdgStat w => wdgOther x w r v s
  | .kprWdgT w => wdgOther x w r v s
  | .kprWdgDup w => wdgOther x w r v s
  | .kprWdgRcnt => rcntWrite x false v s
  | .kprWdgRcnt2 => rcntWrite x true v s
  | .serCfg n => serCfgWrite x n v s
  | .serData n => serDataWrite x n v s
  | .serFlow n => serFlowWrite x n v s
  | .flsCmd c => flsCmdWrite x c v s
  | .flsAddr c => flsArgWrite x c r v s
  | .flsSrc c => flsArgWrite x c r v s
  | .flsLower => flsLowerWrite x v s
  | .tckSrc => srcWrite x v s
  | .tckLimit => limitWrite x v s
  | .tckInitLo => writeUnless (running s) x r v s
  | .tckInitHi => writeUnless (running s) x r v s
  | .spnSlotcfg n => slotcfgWrite x n v s
  | .spnLink q => let (k, u) := drawFree s; linkWrite x q (k.setWidth 2) v u
  | .spnConc n => writeUnless (regF s (.spnSlotcfg n) Fd.spnSlotcfgType == 0) x r v s
  | .bdgAct a => actFolioWrite x a v s
  | .bdgTfolC _ => namedActWrite x r Fd.bdgTfolCAct v s
  | .bdgGal _ => namedActWrite x r Fd.bdgGalAct v s
  | .qrcRel q => relWrite x q v s
  | .qrcHovr q => hovrWrite x q v s
  | .qrcPos q j => posWrite x q j v s
  | .qrcSubLo q e => subWrite x q e false v s
  | .qrcSubHi q e => subWrite x q e true v s
  | .memPclr w => poisonClear x (World.ofNum w) v s
  | .memCh c => chanWrite x c v s
  | .memRgnBase n => regionWrite x n .base v s
  | .memRgnLim n => regionWrite x n .lim v s
  | .memRgnAttr n => regionWrite x n .attr v s
  | .cvsCtl e => engWrite x e v s
  | .cvsStart e => engArgWrite x e r v s
  | .cvsLen e => engArgWrite x e r v s
  | .cvsExp e => engArgWrite x e r v s
  | .cvsSeq e => engArgWrite x e r v s
  | .mdxCfg p => mdxCfgWrite x p v s
  | .mdxTxctln p => txctlnWrite x p v s
  | .mdxTxch p _ => txWrite x (groupEar s (mdxGroup p)) r v s
  | .tdmCfg t => tdmCfgWrite x t v s
  | .ethPtpcfg => ptpcfgWrite x v s
  | .serBaud n => serBaudWrite x n v s
  | .tdmTxslot t _ => txWrite x (groupEar s (tdmGroup t)) r v s
  | .ethRxsCfg n => streamCfgWrite x false n v s
  | .ethTxsCfg n => streamCfgWrite x true n v s
  | .ethTxch _ _ => txWrite x false r v s
  | .ethCrx e => crxWrite x e v s
  | .ethCtx e => ctxWrite x e v s
  | .pnlCfg k => pnlCfgWrite x k v s
  | .egrGrp g => egrGrpWrite x g v s
  | .egrJack g => jackWrite x g v s
  | .hstWin h => winWrite x h v s
  | .hstRing h n => ringWrite x h n v s
  | .hstStg h => stgWrite x h v s
  | .hstNote h => noteWrite x h v s
  | .truCmd w => truCmdWrite x (World.ofNum w) v s
  | .truFusectl => fuseWrite x v s
  | .truLive w => truLiveWrite x (World.ofNum w) v s
  | .truHdl w => truArgWrite x (World.ofNum w) r v s
  | .truArg w => truArgWrite x (World.ofNum w) r v s
  | .truSrc w => truArgWrite x (World.ofNum w) r v s
  | .truDst w => truArgWrite x (World.ofNum w) r v s
  | .truLen w => truArgWrite x (World.ofNum w) r v s
  | .curFcnt _ c => fcntWrite x r c v s
  | .curMsg w => msgWrite x (World.ofNum w) v s
  | .curFlush w => flushWrite x (World.ofNum w) v s
  | _ => plainWrite x r v s

/-- The core that a writer is. -/
def writerCore : Writer → CoreId
  | .cur w => .curator w
  | .kpr => .keeper

/-- A store to retained memory: below the reset counters either world's, the counters by their owners (R470), the rest the
keeper core's. It is merged into its granule; into one that cannot be read it writes nothing, and its writer takes BUS (R277,
R283). DESIGN CHOICE: assumption 20. -/
def retWrite (x : Writer) (a : Nat) (v : Word) (s : State) : State :=
  if x = .kpr ∨ a < retBase + 0xEFF0 then
    match mergeBytes s a (wordBytes v) [] none with
    | (true, t) => t
    | (false, t) => accessTrap t (writerCore x) 3 0 a
  else if a = retBase + 0xEFF0 then rcntWrite x false v s
  else raisePriv s x a

/-- A write of the control space by address; `none` where no block decodes it (R16). DESIGN CHOICE: assumption 20. -/
def ctlWrite (x : Writer) (a : Nat) (v : Word) (s : State) : Option State :=
  if pendingAt s a && ctlDecoded a then some s else if inRet a then some (retWrite x a v s) else
  match ctxAt a with
  | some (e, off) => some (ctxWindow x e off v s)
  | none =>
    if (crxAt a).isSome then some (if owns x (.world .prg) then s else raisePriv s x a) else
    match Creg.decode a with
    | some r => some (regWrite x r v s)
    | none => none

/-! ### Reads -/

/-- A read of a stitch register shows a curator only the bits of its own world's tiles (R101). -/
def stitchBits (s : State) (x : Writer) (r : Creg) (k : Nat) : Word :=
  match x with
  | .kpr => reg s r
  | .cur w => (List.range 32).foldl (fun v i => if indexWorld s (32 * k + i) == w then v else v &&& ~~~ (1#32 <<< i)) (reg s r)

/-- The role-off gate of a host port's registers and gallery folio (R255): they read 0. -/
def hostRead (s : State) (h : Nat) (r : Creg) : Word := if (hostWorld s h).isNone then 0 else reg s r

/-- A read of retained memory under the code (R277, R282): a granule that cannot be read gives 0, and its reader takes BUS. -/
def retRead (x : Writer) (a : Nat) (s : State) : Word × State :=
  match readWordAt s a [] none with
  | (some w, t) => (w, t)
  | (none, t) => (0, accessTrap t (writerCore x) 3 0 a)

/-- PNL_CFGk as it reads while the pin is not driven: IN is the level on the pin, which is a free value between the panel's samples
(R348). DESIGN CHOICE: assumption 32. -/
def pinLevel (s : State) (r : Creg) : Word × State :=
  (Fd.pnlCfgIn.putN (reg s r) (Config.freeNat s.free % 2), { s with free := s.free + 1 })

/-- The edges that a source showed in its last monitor window (R426): a free value, while the source is ready one that the frequency
test passes, 2,560 or 859 within 3 per cent. DESIGN CHOICE: assumption 41. -/
def windowCount (s : State) (k : ClkSource) : Word × State :=
  let x := Config.freeNat s.free
  let n := match k with
    | .refclk => if regF s .kprClkStat Fd.kprClkStatRefclkRdy = 1 then 2484 + x % 153 else x % 65536
    | _ => if regF s .kprClkStat Fd.kprClkStatKxtRdy = 1 then 834 + x % 51 else x % 65536
  (BitVec.ofNat 32 n, { s with free := s.free + 1 })

/-- What a read of a control register returns, with what the read does. DESIGN CHOICE: assumption 20. -/
def regRead (x : Writer) (r : Creg) (s : State) : Word × State :=
  match r with
  | .tckCountLo => (s.tick.count.setWidth 32, match x with | .cur w => countLoRead w s | .kpr => s)
  | .tckCountHi =>
    (match x with | .cur .prg => s.tick.shPrg | .cur .grd => s.tick.shGrd | .kpr => (s.tick.count >>> 32).setWidth 32, s)
  | .tckMediaLo => (s.tick.media.setWidth 32, match x with | .cur w => mediaLoRead w s | .kpr => s)
  | .tckMediaHi =>
    (match x with
     | .cur .prg => s.tick.mediaShPrg
     | .cur .grd => s.tick.mediaShGrd
     | .kpr => (s.tick.media >>> 32).setWidth 32, s)
  | .mdxEvq p => ((getMdx s p).evq.headD 0, evqPop p s)
  | .pnlEvq w => ((panelQueue s (World.ofNum w)).headD 0, pnlEvqPop (World.ofNum w) s)
  | .serData n => (serDataWord s n, serDataRead n s)
  | .curIrq w => (curIrq s (World.ofNum w), s)
  | .kprClkRefcnt => windowCount s .refclk
  | .kprClkKxtcnt => windowCount s .kxt
  | .curFcnt _ c => (if classReserved c then 0 else reg s r, s)
  | .pnlCfg k => if (pinDriven s k).isSome then (reg s r, s) else pinLevel s r
  | .spnConc n =>
    (Fd.spnConcLastc.putN (Fd.spnConcCnt.putN (reg s r) (getHist s n).cnt) (if (getHist s n).lastc then 1 else 0), s)
  | .spnStseed k => (stitchBits s x r k, s)
  | .spnStabt k => (stitchBits s x r k, s)
  | .qrcMap q =>
    let i := regEffF s r Fd.qrcMapIndex
    (Fd.qrcMapLed.putN (Fd.qrcMapImg.putN (reg s r) (imgMap s q i)) (ledMap s q i), s)
  | .qrcSubLo q e => (subStatus s q e (reg s r), s)
  | .kprRstCause => (memWord s causeAddr, s)
  | .kprWdgRcnt => (rcntWord s false, s)
  | .kprWdgRcnt2 => (rcntWord s true, s)
  | .mdxTxch p _ => (if groupEar s (mdxGroup p) then Fd.mdxTxchWorld.putN (reg s r) 1 else reg s r, s)
  | .tdmTxslot t _ => (if groupEar s (tdmGroup t) then Fd.tdmTxslotWorld.putN (reg s r) 1 else reg s r, s)
  | .bdgGal h => (hostRead s h r, s)
  | .bdgGalu h => (hostRead s h r, s)
  | .hstStat h => (hostRead s h r, s)
  | .hstWin h => (hostRead s h r, s)
  | .hstStg h => (if isLead s h then hostRead s h r else 0, s)
  | .hstErr h => (hostRead s h r, s)
  | .hstErr2 h => (hostRead s h r, s)
  | .hstRing h _ => (hostRead s h r, s)
  | .hstRstat h _ => (hostRead s h r, s)
  | _ => (reg s r, s)

/-- A read of the control space by address; `none` where no block decodes it (R16). DESIGN CHOICE: assumption 20. -/
def ctlRead (x : Writer) (a : Nat) (s : State) : Option (Word × State) :=
  if inRet a then some (retRead x a s) else
  match crxAt a with
  | some (e, off) => some (crxWord s e off, s)
  | none =>
    match ctxAt a with
    | some (e, off) => some ((getEth s e).win.get off 0, s)
    | none =>
      match Creg.decode a with
      | some r => some (regRead x r s)
      | none => none

/-! ### REGISTER_WRITE -/

/-- REGISTER_WRITE (R4–R6, R16): an address that nothing decodes gives a bus error. -/
def doRegisterWrite (x : Writer) (a : BitVec 40) (v : Word) : State → State :=
  withAccess x a.toNat (some v) (fun s => match ctlWrite x a.toNat v s with | some t => t | none => accessTrap s (writerCore x) 3 0 a.toNat)

def execRegisterWrite (x : Writer) (a : BitVec 40) (v : Word) (s : State) : Out := .next (doRegisterWrite x a v s)

end Sys2Proof.Machine
end

