-- ==== Sys2Proof/Machine/SpineOps.lean ====
section
/-! DEFINITION. Meanings of GET, PUT, SEAL, STITCH, PRESS and PWAIT (R203, R77, R83, R87, R111, R143), and of the events
that complete them: GET_REPLY, SEAL_COMPLETE, STITCH_COMPLETE. -/

namespace Sys2Proof.Machine

/-- Runs a tile-only instruction; a curator and the keeper core take an illegal opcode (R216). -/
def tileInstr (c : CoreId) (cl : PairCls) (op : Word) (f : Nat → Nat → State → Ex State) : State → State :=
  instr c cl (fun s =>
    match c with
    | .tile q j => f q.val j.val s
    | _ => .error (.trap 1 0 op))

/-- Adds an outstanding load with its pending cell; a seventh waits (R181). -/
def issueLoad (c : CoreId) (src : LoadSrc) (s : State) : Ex State :=
  let k := getCore s c
  if 6 ≤ k.loads.length then .error .wait else
  match pushCell c (.pend k.nextId) s with
  | .error h => .error h
  | .ok t => .ok (retire (modCore t c (fun x => { x with loads := x.loads ++ [⟨k.nextId, src⟩], nextId := k.nextId + 1 })) c)

/-- GET (R111, R112): the entry is checked; TRY, CAND and LAST read at once, WAIT reads at once when the entry shows a
value and otherwise stays outstanding. A GET after STITCH runs like any other, and so does an LDF (R78 names neither among
what traps): DESIGN CHOICE: assumption 24. DEDUCED: assumption 15. -/
def doGet (c : CoreId) : State → State :=
  tileInstr c .m 0xF208#32 (fun q j s => do
    let (x, s1) ← pop c s
    let e := x.toNat % 4096
    if !(entryActive s q e && entryMasked s q j e) then .error (.trapZero 7 5 (BitVec.ofNat 32 e))
    else
      let read (absent : LoadSrc) : Ex State :=
        match mirrorRead s (getCore s c).tx q e with
        | .none => issueLoad c absent s1
        | .lost => issueLoad c (.word 0 (some (gflag false false false false false true 0)) true) s1
        | .value w g dep =>
          match issueLoad c (.word w (some g) false) s1 with
          | .ok t => .ok (modCore t c (fun k => { k with tx := applyDep s dep k.tx }))
          | .error h => .error h
      match x.toNat / 4096 % 4 with
      | 0 => read (.wait e)
      | 1 => read (.word 0 (some (gflag false false true false false false 0)) false)
      | 2 => issueLoad c (.word (candidate s (subSlot s q e)) (some (gflag false false false true false false 0)) false) s1
      | _ =>
        let p := getPlace s q e
        if p.hasLast then issueLoad c (.word p.last (some (gflag p.lastConc false false false true false 0)) false) s1
        else issueLoad c (.word 0 (some (gflag false false true false false false 0)) false) s1)

/-- A GET result arrives (R181, R182): a failed check or a LOST entry gives 0 and dooms the tile with UNCORR (R119). Of two GETs
whose replies arrive out of order, GFLAG holds that of the reply that arrives last: DESIGN CHOICE: assumption 15. -/
def doGetReply (c : CoreId) (i : Fin 6) (fail : Bool) (s : State) : State :=
  match c with
  | .tile q j =>
    let k := getCore s c
    match k.loads[i.val]? with
    | none => s
    | some l =>
      let k1 := { k with loads := k.loads.eraseIdx i.val }
      let bad (g : Option Word) : State :=
        let k2 := match g with | some g => setCcr k1 .gflag g | none => k1
        let t := lostRead q.val j.val (setCore s c k2)
        arrive c (getCore t c) l.id 0 t
      match l.src with
      | .far _ _ => s
      | .word w g lost =>
        match g with
        | none => s
        | some g => if fail || lost then bad (some g) else arrive c (setCcr k1 .gflag g) l.id w s
      | .wait e =>
        match mirrorRead s k.tx q.val e with
        | .none => s
        | .lost => bad (some (gflag false false false false false true 0))
        | .value w g dep =>
          if fail then bad (some g)
          else
            let k2 := setCcr k1 .gflag g
            arrive c { k2 with tx := applyDep s dep k2.tx } l.id w s
  | _ => s

/-- Whether the publish folio of a tile is used up (R243, R245, R248). -/
def pubSpent (s : State) (q j : Nat) (k : Core) : Bool :=
  let lim := regLatF s (.bdgTfolB (folioIndex s q j)) Fd.bdgTfolBPub
  running s && k.tx.part && lim != 0xFFFF && decide (lim ≤ k.tx.pub)

/-- PUT (R83, R118, R204): refused with the first of CLOSED, ABORTING, NOTOWNER and SEALED; held by a spent publish
folio; stalled by a full quire queue; otherwise published provisional. -/
def doPut (c : CoreId) : State → State :=
  tileInstr c .m 0xF209#32 (fun q j s => do
    let (a, s1) ← pop c s
    let (x, s2) ← pop c s1
    let slot := a.toNat % 65536
    let k := getCore s c
    let ea := BitVec.ofNat 32 slot
    let w := slotCfg s slot
    if k.tx.closed then .error (.trap 7 3 ea)
    else if k.tx.st = .aborting then .error (.trap 7 4 ea)
    else if !(Fd.spnSlotcfgType.get w == 1 && ownerTile w == consIndex s q j) then .error (.trap 7 1 ea)
    else if (k.tx.pubs.find? (fun e => e.1 == slot)).any (·.2.sealed_) then .error (.trap 7 2 ea)
    else if pubSpent s q j k then .error (.waitIn (modCore s c (fun k => { k with tx := { k.tx with heldPub := true } })))
    else if 64 ≤ queueLen s q then .error .wait
    else pure (retire (publish s2 q j slot x (a.getLsbD 16)) c))

/-- SEAL (R87, R90, R118): CLOSED or ABORTING give a spine exception, an enabled press flag an arithmetic exception; with
a consumed value unsealed, or a full queue, the core waits at the SEAL. DEDUCED: assumption 15. -/
def doSeal (c : CoreId) : State → State :=
  tileInstr c .m 0xF20A#32 (fun q j s =>
    let k := getCore s c
    if k.tx.closed then .error (.trap 7 3 0)
    else if k.tx.st = .aborting then .error (.trap 7 4 0)
    else if !flagsPass k then .error (arithTrap k)
    else if k.tx.cons.isEmpty && decide (queueLen s q < 64) then .ok (retire (sealTile s q j) c)
    else .ok (setCore s c { k with wait := .seal }))

/-- A waiting SEAL completes (R87, R95, R99): its conditions hold, before the freeze. The core of a tile that a deckle
stopped, or that is held, does not move on, and takes no exception (R173). A SEAL that waited when its tile became ABORTING
completes like any other (R87 speaks only of one issued while ABORTING): DESIGN CHOICE: assumption 24. -/
def doSealComplete (c : CoreId) (s : State) : State :=
  match c with
  | .tile q j =>
    let k := getCore s c
    if k.wait ≠ .seal ∨ s.tick.frozen ∨ k.halted then s
    else if !(k.tx.cons.isEmpty && decide (queueLen s q.val < 64)) then s
    else if !flagsPass k then
      (if k.tx.st = .stopped ∨ k.tx.hold then s else takeHalt (setCore s c { k with wait := .none }) c (arithTrap k))
    else
      let t := sealTile (setCore s c { k with wait := .none }) q.val j.val
      if k.tx.st = .stopped ∨ k.tx.hold then t else retire t c
  | _ => s

/-- Completes a STITCH whose conditions hold (R77, R78). -/
def stitchNow (c : CoreId) (s : State) : Ex State := do
  let (x, s1) ← pop c s
  pure (retire (modCore s1 c (fun k =>
    let t := k.tx
    { k with wait := .none, tx := match t.st with
      | .open_ => if x = 0#32 then { t with st := .stitched, closed := true }
          else { t with st := .aborting, causes := NSet.add t.causes 2, self := x.toNat % 256, closed := true }
      | .aborting => { t with closed := true }
      | _ => t })) c)

/-- The checks of STITCH (R77, R78, R90): CLOSED; the flag check of a commit request of an OPEN tile; an idle press and
acknowledged far stores, or the core waits at it. -/
def stitchTry (c : CoreId) (s : State) : Ex State := do
  let k := getCore s c
  let (x, _) ← pop c s
  if k.tx.closed then .error (.trap 7 3 0)
  else if x = 0#32 ∧ k.tx.st = .open_ ∧ !flagsPass k then .error (arithTrap k)
  else if pressIdle k && k.unack.isEmpty then stitchNow c s
  else pure (setCore s c { k with wait := .stitch })

/-- STITCH (R77). DESIGN CHOICE: assumption 24. DEDUCED: assumption 25. -/
def doStitch (c : CoreId) : State → State := tileInstr c .z 0xF20B#32 (fun _ _ s => stitchTry c s)

/-- A waiting STITCH finds its conditions met (R77, R99). -/
def doStitchComplete (c : CoreId) (s : State) : State :=
  match c with
  | .tile _ _ =>
    let k := getCore s c
    let t := setCore s c { k with wait := .none }
    if k.wait ≠ .stitch ∨ !canRun t c ∨ !(pressIdle k && k.unack.isEmpty) then s
    else match stitchTry c t with
      | .ok u => u
      | .error h => takeHalt t c h
  | _ => s

/-- Starts a press sequence at an entry (R143). -/
def startPress (entry : Nat) (k : Core) : Core :=
  let k1 := setCcrF (setCcrF k .prsStat Fd.cPrsStatBusy 1) .prsStat Fd.cPrsStatNext (entry % 2048)
  setCcrF k1 .prsStat Fd.cPrsStatWaiting 0

/-- PRESS (R143, R78, R91): CLOSED after STITCH; stalls while a sequence runs; in precise mode the core stands at it
until the sequence has ended. -/
def doPress (c : CoreId) : State → State :=
  tileInstr c .m 0xF210#32 (fun _ _ s => do
    let (e, s1) ← pop c s
    let k := getCore s c
    if k.tx.closed then .error (.trap 7 3 0)
    else if ccrF k .prsStat Fd.cPrsStatBusy = 1 then .error .wait
    else if ccrF k .mode Fd.cModePrecise = 1 then
      if k.press.flight.isEmpty then pure (setCore s c { startPress e.toNat k with wait := .press }) else .error .wait
    else pure (retire (modCore s1 c (startPress e.toNat)) c))

/-- PWAIT (R143). -/
def doPwait (c : CoreId) : State → State :=
  tileInstr c .m 0xF211#32 (fun _ _ s => if pressIdle (getCore s c) then .ok (retire s c) else .error .wait)

def execGet (c : CoreId) (s : State) : Out := .next (doGet c s)
def execPut (c : CoreId) (s : State) : Out := .next (doPut c s)
def execSeal (c : CoreId) (s : State) : Out := .next (doSeal c s)
def execStitch (c : CoreId) (s : State) : Out := .next (doStitch c s)
def execPress (c : CoreId) (s : State) : Out := .next (doPress c s)
def execPwait (c : CoreId) (s : State) : Out := .next (doPwait c s)
def execGetReply (c : CoreId) (i : Fin 6) (fail : Bool) (s : State) : Out := .next (doGetReply c i fail s)
def execSealComplete (c : CoreId) (s : State) : Out := .next (doSealComplete c s)
def execStitchComplete (c : CoreId) (s : State) : Out := .next (doStitchComplete c s)

end Sys2Proof.Machine
end

