-- ==== Sys2Proof/Machine/FarOps.lean ====
section
/-! DEFINITION. Far loads and stores (R12–R18, R89, R122, R137, R138, R181–R183, R201, R246, R248), their replies and
acknowledgements, reads of the flash window (R400), and the debug TAP (R396). -/

namespace Sys2Proof.Machine

/-! ### Charges -/

/-- The writer that a core is in the control space; tiles never reach it (R18). -/
def coreWriter : CoreId → Writer
  | .curator w => .cur w
  | _ => .kpr

/-- Whether an address is a tile's own SRAM or press store, which its own port serves (R138). -/
def ownTarget (c : CoreId) (a : Nat) : Bool :=
  match c with
  | .tile _ _ => decide (localBase c ≤ a) && decide (a < localBase c + 0x40000)
  | _ => false

/-- The charge of a far access to memory (R246, R248): a tile's archive and far bulk folio, or the folio of its GDDR7
activity; a curator's BULK folio, but for its own SRAM and the flash window. The access is charged, or held where it stands
with its mark. DESIGN CHOICE: assumption 18. DESIGN CHOICE: assumption 19. -/
def farCharge (c : CoreId) (a : Nat) (arc store : Bool) (s : State) : Bool × State :=
  match c with
  | .tile q j =>
    let k := getCore s c
    let held (t : State) : State := modCore t c (fun x => { x with tx := { x.tx with heldArc := true } })
    if arc then
      if arcSpent s q.val j.val k then (false, held s)
      else (true, setCore s c { k with tx := { k.tx with arc := if running s && k.tx.part then k.tx.arc + 1 else k.tx.arc } })
    else if !k.tx.part then (true, s)
    else
      let act := regLatF s (.bdgTfolC (folioIndex s q.val j.val)) Fd.bdgTfolCAct
      match actCharge act a store s with
      | (true, t) => (true, t)
      | (false, t) => (false, held t)
  | .curator w =>
    if 0x0E00000000 ≤ a then (true, s) else
    match bulkCharge w s with
    | some t => (true, t)
    | none => (false, { s with budget := { s.budget with heldCur := NSet.add s.budget.heldCur w.num } })
  | .keeper => (true, s)

/-- A mark of the core's transaction: the logical tile whose takeover an access waits for (R15), if any. -/
def setFarHeld (c : CoreId) (n : Option Nat) (s : State) : State := modCore s c (fun k => { k with tx := { k.tx with farHeld := n } })

/-- Whether a control-space access that led from `t` to `u` raised an exception on the core that made it, or took the core away. -/
def ctlTrapped (t u : State) (c : CoreId) : Bool :=
  let k := getCore u c
  !k.on || k.halted || k.entry.isSome || ccr k .srsp != ccr (getCore t c) .srsp

/-- The address that an LDF or STF popped goes into EADDR and into the frame of the exception that its access has raised, or into
the exception that waits (R225, R232). -/
def patchEaddr (c : CoreId) (addr : Word) (s : State) : State :=
  let k := getCore s c
  if !k.on || k.halted then s else
  match k.entry with
  | some e => setCore s c { k with entry := some { e with ea := addr } }
  | none => setWord (setCore s c (setCcr k .eaddr addr)) (localBase c + (ccr k .efp).toNat + 20) addr

/-! ### LDF -/

/-- The address is popped, and a pending cell is left in its place. -/
def ldfIssue (c : CoreId) (src : LoadSrc) (s : State) : Ex State := do
  let (_, t) ← pop c s
  issueLoad c src t

/-- An LDF whose checks have passed goes out: the access is charged; a control register, or a word of the keeper core's ROM, is
read as it issues. DESIGN CHOICE: assumption 18. -/
def ldfSend (c : CoreId) (addr : Word) (g : FarTgt) (s : State) : Ex State :=
  match g with
  | .deny v code => .error (.trap v code addr)
  | .held n => .error (.waitIn (setFarHeld c (some n) s))
  | .rom a => ldfIssue c (.word (BitVec.ofNat 32 (leNat ((List.range 4).map (fun i => Config.rom (a + i))))) none false) s
  | .ctl a =>
    match ctlCharge (coreWriter c) s with
    | (false, t) => .error (.waitIn t)
    | (true, t) =>
      match ctlRead (coreWriter c) a t with
      | none => .error (.trapIn t 3 0 addr)
      | some (w, u) => if ctlTrapped t u c then .error (.waitIn (patchEaddr c addr u)) else ldfIssue c (.word w none false) u
  | .mem a arc =>
    match farCharge c a arc false s with
    | (false, t) => .error (.waitIn t)
    | (true, t) => ldfIssue c (.far a addr) (setFarHeld c none t)

/-- LDF (R201, R138, R181): every check comes before the wait of a seventh load (R183). -/
def doLdf (c : CoreId) : State → State :=
  instr c .m (fun s => do
    let (addr, _) ← pop c s
    match aperture s c addr false with
    | .deny v code => .error (.trap v code addr)
    | g => if 6 ≤ (getCore s c).loads.length then .error .wait else ldfSend c addr g s)

/-! ### STF -/

/-- The two operands are popped, and the STF retires. -/
def stfRetire (c : CoreId) (s : State) : Ex State := do
  let (_, t) ← pop c s
  let (_, u) ← pop c t
  pure (retire u c)

/-- An STF to the control space (R5, R16, R257): the write, then the STF retires; where the write raises an exception on the
core the STF does not retire. -/
def stfControl (c : CoreId) (addr : Word) (a : Nat) (x : Word) (s : State) : Ex State :=
  match ctlCharge (coreWriter c) s with
  | (false, t) => .error (.waitIn t)
  | (true, t) =>
    match ctlWrite (coreWriter c) a x t with
    | none => .error (.trapIn t 3 0 addr)
    | some u => if ctlTrapped t u c then .error (.waitIn (patchEaddr c addr u)) else stfRetire c u

/-- A core's word is written where it goes, merged into its granule (R283): it is written, or the granule reads
detected-uncorrectable. -/
def landWord (a : Nat) (x : Word) (err err2 : List Nat) (s : State) : Bool × State :=
  if gddrBase ≤ a ∧ a < 0x0A00000000 then gddrWrite s a (wordBytes x) err err2
  else mergeBytes s a (wordBytes x) err (addrWorld s a)

/-- An STF is posted: it stays until it is acknowledged. A store to a quire-shared region takes effect as it issues (R129). -/
def stfPost (c : CoreId) (addr : Word) (a : Nat) (x : Word) (s : State) : Ex State :=
  let post (landed : Bool) (t : State) : State := modCore t c (fun y =>
    { y with unack := y.unack ++ [⟨y.nextId, addr, a, x, landed⟩], nextId := y.nextId + 1 })
  if !archShared a then stfRetire c (post false s) else
  match landWord a x [] [] s, c with
  | (true, t), _ => stfRetire c (post true t)
  | (false, t), .tile _ _ => stfRetire c (farUncorr c a addr (post true t))
  | (false, t), _ => .error (.trapMem t 3 0 addr)

/-- STF (R201, R78, R89, R90, R138, R181): CLOSED after STITCH; a target outside the tile is a confirmation point, which
checks the press flags and waits for an empty consumed-from vector; then the store is posted. DESIGN CHOICE: assumption 18. -/
def doStf (c : CoreId) : State → State :=
  instr c .m (fun s => do
    let (addr, s1) ← pop c s
    let k := getCore s c
    let isTile := match c with | .tile _ _ => true | _ => false
    if k.tx.closed then .error (.trap 7 3 addr)
    else
      match aperture s c addr true with
      | .deny v code => .error (.trap v code addr)
      | .held n => .error (.waitIn (setFarHeld c (some n) s))
      | .rom _ => .error (.trap 3 0 addr)
      | .ctl a =>
        let (x, _) ← pop c s1
        if 32 ≤ k.unack.length then .error .wait else stfControl c addr a x s
      | .mem a arc =>
        let confirm := isTile && !ownTarget c a
        let (x, _) ← pop c s1
        if confirm && !flagsPass k then .error (arithTrap k)
        else if (confirm && !k.tx.cons.isEmpty) || decide (32 ≤ k.unack.length) then .error .wait
        else
          match farCharge c a arc true s with
          | (false, t) => .error (.waitIn t)
          | (true, t) => stfPost c addr a x (setFarHeld c none t))

/-! ### Replies and acknowledgements -/

/-- An address of the flash read window. -/
def inFlash (a : Nat) : Bool := decide (flashBase ≤ a)

/-- A word read from memory under its code, as a far load finds it: GDDR7 with its second copy, words 3–7 of a ring header as 0
(R367), or any other memory. -/
def farRead (s : State) (a : Nat) (err err2 : List Nat) : Option Word × State :=
  if gddrBase ≤ a ∧ a < 0x0A00000000 then
    match gddrRead s a err err2 with
    | (some f, t) => (some (match headerWord s a with | some (_, _, 3) | some (_, _, 4) | some (_, _, 5) | some (_, _, 6) | some (_, _, 7) => 0 | _ => applyFlips f a (memWord s a)), t)
    | (none, t) => (none, t)
  else readWordAt s a err (addrWorld s a)

/-- A load of a core is answered. -/
def loadDone (c : CoreId) (id : Nat) (w : Word) (s : State) : State :=
  let k := getCore s c
  arrive c { k with loads := k.loads.filter (fun y => y.id != id) } id w s

/-- LDF_REPLY (R122, R181, R182, R282): a reply that fails its check, or that is detected-uncorrectable, gives 0. A load
follows its core's earlier stores to the same granule; one from a ledger reads the committed copy of that moment (R127). DESIGN
CHOICE: assumption 18. -/
def doLdfReply (c : CoreId) (i : Fin 6) (fail : Bool) (err err2 : List Nat) (s : State) : State :=
  let k := getCore s c
  match k.loads[i.val]? with
  | none => s
  | some l =>
    match l.src with
    | .wait _ => s
    | .word w g _ => if g.isSome then s else loadDone c l.id w s
    | .far a ea =>
      if inFlash a || k.unack.any (fun st => !st.landed && decide (st.id < l.id) && granule st.addr == granule a) then s
      else if fail then bulkFailed (.farLoad c i) s
      else
        match farRead s (readAddr s a) err err2 with
        | (some w, t) => loadDone c l.id w t
        | (none, t) => farUncorr c (readAddr s a) ea (loadDone c l.id 0 t)

/-- STF_ACKNOWLEDGE (R122, R181, R283, R367): the store is written where it goes, in issue order for each destination, unless it
took effect when it issued (R129); a ring's index words go to their engine. DESIGN CHOICE: assumption 18. -/
def doStfAcknowledge (c : CoreId) (i : Fin 32) (err err2 : List Nat) (s : State) : State :=
  let k := getCore s c
  match k.unack[i.val]? with
  | none => s
  | some st =>
    let t := setCore s c { k with unack := k.unack.eraseIdx i.val }
    if st.landed then t
    else if (k.unack.take i.val).any (fun y => !y.landed && farDest y.addr == farDest st.addr) then s else
    match (if gddrBase ≤ st.addr ∧ st.addr < 0x0A00000000 then headerWord t st.addr else none) with
    | some (h, r, w) => indexLanded h r w (coreKey c) st.data t
    | none =>
      match landWord st.addr st.data err err2 t with
      | (true, u) => u
      | (false, u) => farUncorr c st.addr st.ea u

/-- The stored positions of a blank granule that differ from the codeword of its all-ones data (R279, R400). -/
def blankErr (a : Nat) : List Nat :=
  let f := binderField (2 ^ 256 - 1) (granule a) none false
  (List.range 19).filter (fun i => !f.testBit i) ++ ((List.range 12).filter (fun i => !f.testBit (20 + i))).map (· + 275) ++ [287]

/-- A word of the flash array as a read finds it (R400): a granule that reads as all ones is blank and gives all ones; every other is
checked under R281, one too that would be blank without its errors. -/
def flashWord (s : State) (a : Nat) (err : List Nat) : Option Word × State :=
  let e := errNorm (upsetsAt s a ++ err)
  if !granuleBlank s a || s.poison.contains (granule a) then readWordAt s a err none
  else if e.isEmpty then (some 0xFFFFFFFF, setUpsets s a e)
  else
    match readWordAt s a (blankErr a ++ err) none with
    | (some w, t) => (some w, setUpsets t a e)
    | (none, t) => (none, t)

/-- A read of an undefined page (R407): blank, other data, or a check that fails, as a free value has it (assumption 3). -/
def undefWord (s : State) (a : Nat) : Option Word × State :=
  let t : State := { s with free := s.free + 1 }
  match Config.freeNat s.free % 3 with
  | 0 => (some 0xFFFFFFFF, t)
  | 1 => let (w, u) := drawFree t; (some w, u)
  | _ => (none, { recordBad t a none with poison := t.poison })

/-- FLASH_READ (R400): the reply of a far load from the flash window. A read of a bank with an operation in progress stalls; the
result of an undefined page's read is open (R407). DEDUCED: assumption 38. -/
def doFlashRead (c : CoreId) (i : Fin 6) (err : List Nat) (s : State) : State :=
  match (getCore s c).loads[i.val]? with
  | some ⟨id, .far a ea⟩ =>
    let off := a - flashBase
    if !inFlash a || bankBusy s (off / 0x2000000) then s
    else
      match (if s.flash.undef.contains (off / 4096) then undefWord s a else flashWord s a err) with
      | (some w, t) => loadDone c id w t
      | (none, t) => farUncorr c a ea (loadDone c id 0 t)
  | _ => s

/-! ### The debug TAP (R41, R396, R412) -/

/-- Whether the TAP may halt and step a core. -/
def tapCore (s : State) (c : CoreId) : Bool :=
  debugLevel s == 0 || (debugLevel s == 1 && coreWorld s c == some .prg)

/-- Whether the TAP reaches a word of memory: all of it at level 0, the programme world's at level 1, without flash,
retained memory and the keeper core's. -/
def tapMem (s : State) (a : Nat) : Bool :=
  debugLevel s == 0 || (debugLevel s == 1 && decide (a < 0x0E00100000) && addrWorld s a == some .prg)

/-- The bits of a register that the programme world owns. -/
def prgBits (s : State) (r : Creg) : Word :=
  (r.fields.filter (fun d => owns (.cur .prg) (fieldOwner s r d))).foldl (fun m d => m ||| d.fld.mask) 0

/-- A read through the TAP: without the effects that a core's read has; the keeper core's ROM stands at its own addresses. DESIGN CHOICE: assumption 22. -/
def tapRead (s : State) (a : Nat) : Word :=
  if 0x0F00000000 ≤ a ∧ a < 0x0F80000000 then
    if inRet a then (if debugLevel s = 0 then memWord s a else 0)
    else if debugLevel s = 0 then (match ctlRead .kpr a s with | some (w, _) => w | none => 0)
    else if debugLevel s = 1 then
      match Creg.decode a, ctlRead (.cur .prg) a s with
      | some r, some (w, _) => w &&& prgBits s r
      | none, some (w, _) => w
      | _, none => 0
    else 0
  else if a < 0x8000 then (if debugLevel s = 0 then BitVec.ofNat 32 (leNat ((List.range 4).map (fun i => Config.rom (a + i)))) else 0)
  else if tapMem s a then memWord s a else 0

/-- A word of the sealing key that an entry of a handle table names, 0 where it names none (R385, R386, R388). -/
def tapKey (s : State) (w : World) (e k : Nat) : Word :=
  let h := getHandle s w e
  if h.used then BitVec.ofNat 32 ((sealKey s w h.purpose h.acc).toNat / 2 ^ (32 * k)) else 0

/-- A control register that no debug access writes: fuses (TRU_FUSECTL), and one whose write would release a hush. -/
def tapBarred (s : State) (r : Creg) (v : Word) : Bool :=
  match r with
  | .truFusectl => true
  | .egrGrp g => regF s (.egrGrp g) Fd.egrGrpShush == 1 && Fd.egrGrpShush.get v == 0
  | _ => false

/-- A write through the TAP: with the keeper core's reach at level 0, with the programme world's rights at level 1, and
without an exception on any core; FLS_LOWER is open at level 1 (R412). DESIGN CHOICE: assumption 22. -/
def tapWrite (a : Nat) (v : Word) (s : State) : State :=
  if 0x0F00000000 ≤ a ∧ a < 0x0F80000000 then
    let barred := match Creg.decode a with | some r => tapBarred s r v | none => false
    if barred then s
    else if debugLevel s = 0 then
      (if inRet a then (mergeBytes s a (wordBytes v) [] none).2 else (ctlWrite .kpr a v s).getD s)
    else if debugLevel s = 1 then
      if Creg.decode a = some .flsLower then flsLowerWrite .kpr v s
      else if inRet a then s
      else
        let c : CoreId := .curator .prg
        let t := modCore s c (fun k => { k with on := false })
        setCore ((ctlWrite (.cur .prg) a v t).getD t) c (getCore s c)
    else s
  else if tapMem s a && decide (a < flashBase) then setWord s a v else s

/-- TAP_ACCESS (R396): nothing but boundary scan at level 2, and nothing with the TAP disabled. DESIGN CHOICE: assumption 22. -/
def doTapAccess (op : TapOp) (s : State) : State :=
  match op with
  | .halt c => if tapCore s c then { s with trust := { s.trust with tapHalt := NSet.add s.trust.tapHalt (coreKey c) } } else s
  | .resume c =>
    if tapCore s c then
      { s with trust := { s.trust with
        tapHalt := s.trust.tapHalt.filter (· != coreKey c), tapStep := s.trust.tapStep.filter (· != coreKey c) } }
    else s
  | .step c =>
    if tapCore s c && s.trust.tapHalt.contains (coreKey c) then
      { s with trust := { s.trust with tapStep := NSet.add s.trust.tapStep (coreKey c) } }
    else s
  | .readWord a =>
    if debugLevel s < 2 then
      let (v, t) := drawUndef s (granule a.toNat) 32
      { t with trust := { t.trust with tapData := tapRead v a.toNat } }
    else s
  | .boundary p => if debugLevel s < 3 then { s with trust := { s.trust with tapData := BitVec.ofNat 32 (pinNumber s p) } } else s
  | .vitrineKey w e k => if debugLevel s = 0 then { s with trust := { s.trust with tapData := tapKey s w e.val k.val } } else s
  | .writeWord a v => tapWrite a.toNat v s

def execLdf (c : CoreId) (s : State) : Out := .next (doLdf c s)
def execStf (c : CoreId) (s : State) : Out := .next (doStf c s)
def execLdfReply (c : CoreId) (i : Fin 6) (fail : Bool) (err err2 : List Nat) (s : State) : Out :=
  .next (doLdfReply c i fail err err2 s)
def execStfAcknowledge (c : CoreId) (i : Fin 32) (err err2 : List Nat) (s : State) : Out :=
  .next (doStfAcknowledge c i err err2 s)
def execFlashRead (c : CoreId) (i : Fin 6) (err : List Nat) (s : State) : Out := .next (doFlashRead c i err s)
def execTapAccess (op : TapOp) (s : State) : Out := .next (doTapAccess op s)

end Sys2Proof.Machine
end

