-- ==== Sys2Proof/Machine/Held.lean ====
section
/-! DEFINITION. Requests that a spent folio held, served at the tick edge (R248, R256, R257, R259): the meanings of TICK_EDGE and
FINAL_EDGE. -/

namespace Sys2Proof.Machine

/-- A held request of a curator or a host is made again: it is charged and has its effect, or is held anew behind those that the
new tick's folio does not cover. -/
def serveHeld (s : State) (q : HeldReq) : State :=
  match q with
  | .wr w a v => withAccess (.cur w) a (some v) (fun t => (ctlWrite (.cur w) a v t).getD (accessTrap t (.curator w) 3 0 a)) s
  | .rd w a =>
    withAccess (.cur w) a none (fun t => match ctlRead (.cur w) a t with | some (_, u) => u | none => accessTrap t (.curator w) 3 0 a) s
  | .bulk w op left => truResume w op left s
  | .flash c op left => flashResume c op left s
  | .host _ _ _ _ _ _ _ | .page _ _ _ => hostResume q s
  | .release h len => if behind s h then holdReq q s else releaseServe h len s
  | .engine e g err err2 => engineResume e g err err2 s

/-- The held requests are made again in issue order, before any request of the new tick (R248, R259). -/
def releaseHeld (s : State) : State :=
  s.budget.held.foldl serveHeld { s with budget := { s.budget with held := [] } }

/-- TICK_EDGE (R57): the edge, then the requests that the ended tick's folios held. -/
def tickEdge (hush : BitVec 4) (pherr : Word) (wish : BitVec 16) (s : State) : State :=
  if edgeDue s then releaseHeld (doTickEdge hush pherr wish s) else s

/-- FINAL_EDGE (R66). -/
def finalEdge (s : State) : State := if finalDue s then releaseHeld (doFinalEdge s) else s

def execFinalEdge (s : State) : Out := .next (finalEdge s)
def execTickEdge (hush : BitVec 4) (pherr : Word) (wish : BitVec 16) (s : State) : Out := .next (tickEdge hush pherr wish s)

end Sys2Proof.Machine
end

