-- ==== Sys2Proof/Machine/Press.lean ====
section
/-! DEFINITION. The press: sources, destinations and lane operations (R146–R158), issue of a microword with its wait
conditions, steps, loops and branches (R143, R157–R167), write-back (R143, R114, R91), and the meanings of the microword
rows. -/

namespace Sys2Proof.Machine

/-! ### Sources and destinations (R158, R160) -/

/-- What reading a source for some lanes gives: the state with its records, a word per lane, the dependencies of provisional
values, and the lanes that read no value. -/
structure SrcRead where
  st : State
  ws : List Word := []
  deps : List (Nat × Nat × Nat) := []
  miss : List Nat := []
deriving DecidableEq, Repr

/-- The class of a word of tile SRAM that cannot be read (R101, R261): SRAM, or the ledger window. -/
def sramClass (i : Nat) : Nat := if 4 * i < 0x1C000 then 3 else 4

/-- One word of tile SRAM read by the press under the binder code: one that cannot be read is 0 and dooms the tile (R282). -/
def pressRead (q j i : Nat) (s : State) : Word × State :=
  match readWordAt s (tileBase q j + 4 * i) [] (some (quireWorld s q)) with
  | (some w, t) => (w, t)
  | (none, t) => (0, modCore t (tileId q j) (doomUncorr (sramClass i)))

/-- One mirror entry read by the press as a GET in mode TRY (R114, R160). -/
def pressMirror (s : State) (q j e : Nat) (x : Tx) : MirrorRead :=
  if entryActive s q e && entryMasked s q j e then mirrorRead s x q e else .none

/-- Reads a source for the lanes of a list; the other lanes read 0. A lane whose entry is lost reads no value either, and dooms
the tile (R119). -/
def readSource (s : State) (q j : Nat) (k : Core) (code : Nat) (lanes : List Nat) : SrcRead :=
  (List.range 16).foldl (fun r l =>
    if !lanes.contains l then { r with ws := r.ws ++ [0] } else
    let sram (g n : Nat) : SrcRead :=
      let x := pressRead q j (agIndex k g n) r.st
      { r with ws := r.ws ++ [x.1], st := x.2 }
    match code with
    | 0 => sram 0 l
    | 1 =>
      if mirrorMode k then
        match pressMirror s q j (agIndex k 1 l % 4096) k.tx with
        | .none => { r with ws := r.ws ++ [0], miss := r.miss ++ [l] }
        | .lost => { r with ws := r.ws ++ [0], miss := r.miss ++ [l], st := lostRead q j r.st }
        | .value w _ dep => { r with ws := r.ws ++ [w], deps := match dep with | some d => r.deps ++ [d] | none => r.deps }
      else sram 1 l
    | 2 => sram 2 l
    | 7 => sram 0 0
    | n => { r with ws := r.ws ++ [k.press.v.get (16 * (n - 3) + l) 0] }) { st := s }

/-- Reads an accumulator of a lane. -/
def getAcc (k : Core) (l a : Nat) : Accum := k.press.acc.get (8 * l + a) {}
def setAcc (l a : Nat) (x : Accum) (k : Core) : Core := { k with press := { k.press with acc := k.press.acc.set (8 * l + a) x {} } }

/-- Stores a word of the press to tile SRAM (R144, R92): a ledger word is a ledger store; a granule that cannot be read takes
nothing and dooms the tile (R283). -/
def pressStore (q j i : Nat) (w : Word) (s : State) : State :=
  match mergeBytes s (tileBase q j + 4 * i) (wordBytes w) [] (some (quireWorld s q)) with
  | (false, t) => modCore t (tileId q j) (doomUncorr (sramClass i))
  | (true, t) =>
    match ledgerGranule (4 * i) with
    | some g => ledgerMark q j g t
    | none => t

/-- Writes a result per lane to the destination (R158). -/
def writeDst (q j dst : Nat) (res : List (Nat × Word)) (s : State) : State :=
  match dst with
  | 1 => let k := getCore s (tileId q j)
    res.foldl (fun t x => pressStore q j (agIndex k 2 x.1) x.2 t) s
  | 2 | 3 | 4 | 5 => modCore s (tileId q j) (fun k => { k with press := { k.press with
      v := res.foldl (fun m x => m.set (16 * (dst - 2) + x.1) x.2 0) k.press.v } })
  | _ => s

/-! ### Lane operations -/

/-- What an operation does: results per lane for DST, and the press flags it raises. -/
structure LaneRes where
  res : List (Nat × Word) := []
  flags : Word := 0
deriving DecidableEq, Repr

def wAt (l : List Word) (i : Nat) : Word := (l[i]?).getD 0

/-- Lane-wise vector results with their flags. -/
def laneWise (lanes : List Nat) (f : Nat → FRes) : LaneRes :=
  lanes.foldl (fun r l => ⟨r.res ++ [(l, (f l).val)], r.flags ||| (f l).pflags⟩) {}

/-- The product of complex values in the order written (R154): real and imaginary part, and flags. -/
def cmulF (a b c d : Word) : Word × Word × Word :=
  let ac := f32Mul a c
  let bd := f32Mul b d
  let re := f32Sub ac.val bd.val
  let ad := f32Mul a d
  let bc := f32Mul b c
  let im := f32Add ad.val bc.val
  (re.val, im.val, ac.pflags ||| bd.pflags ||| re.pflags ||| ad.pflags ||| bc.pflags ||| im.pflags)

/-- Complex addition and subtraction, two rounded operations. -/
def caddF (x y : Word × Word) (neg : Bool) : (Word × Word) × Word :=
  let op := fun u v => if neg then f32Sub u v else f32Add u v
  let r := op x.1 y.1
  let i := op x.2 y.2
  ((r.val, i.val), r.pflags ||| i.pflags)

/-- Multiplication by j: the parts swap and one changes sign, without rounding. -/
def mulJ (x : Word × Word) : Word × Word := (f32Neg x.2, x.1)
def mulNegJ (x : Word × Word) : Word × Word := (x.2, f32Neg x.1)

/-- One radix-4 butterfly on complex inputs and twiddles, in the order of R155. -/
def bfly (inverse : Bool) (x0 x1 x2 x3 w1 w2 w3 : Word × Word) : List (Word × Word) × Word :=
  let m := fun (x w : Word × Word) => cmulF x.1 x.2 w.1 w.2
  let a := m x1 w1
  let b := m x2 w2
  let c := m x3 w3
  let y1 := (a.1, a.2.1)
  let y2 := (b.1, b.2.1)
  let y3 := (c.1, c.2.1)
  let t0 := caddF x0 y2 false
  let t1 := caddF x0 y2 true
  let t2 := caddF y1 y3 false
  let t3 := caddF y1 y3 true
  let z0 := caddF t0.1 t2.1 false
  let z2 := caddF t0.1 t2.1 true
  let z1 := caddF t1.1 (if inverse then mulJ t3.1 else mulNegJ t3.1) false
  let z3 := caddF t1.1 (if inverse then mulNegJ t3.1 else mulJ t3.1) false
  ([z0.1, z1.1, z2.1, z3.1],
    a.2.2 ||| b.2.2 ||| c.2.2 ||| t0.2 ||| t1.2 ||| t2.2 ||| t3.2 ||| z0.2 ||| z1.2 ||| z2.2 ||| z3.2)

/-- Both butterflies of BFLY4 or BFLY4I (R155). -/
def bflyLanes (inverse : Bool) (a b : List Word) : LaneRes :=
  [0, 8].foldl (fun r g =>
    let x := fun i => (wAt a (g + 2 * i), wAt a (g + 2 * i + 1))
    let w := fun i => (wAt b (g + 2 * i), wAt b (g + 2 * i + 1))
    let o := bfly inverse (x 0) (x 1) (x 2) (x 3) (w 1) (w 2) (w 3)
    ⟨r.res ++ (o.1.zipIdx.map (fun e => [(g + 2 * e.2, e.1.1), (g + 2 * e.2 + 1, e.1.2)])).flatten, r.flags ||| o.2⟩) {}

/-- One readout (R150): the word for DST, if any, and the flags. -/
def readout (u : Uword) (key : Word) (n : BitVec 64) (x : Accum) : Option Word × Word :=
  let none' := u.rmode = 0 ∨ u.rmode = 3
  if x.inv then (if none' then none else some 0, PFlag.when .rinv true)
  else
    let (v, sat) := x.window
    let fl := PFlag.when .wsat sat
    if u.rmode = 1 then (some (readoutF32 v), fl)
    else if u.rmode = 2 then
      let sc := if 190 < u.scale then 0 else u.scale
      let r := readoutInt v sc (if u.dith then dither key n u.dw else 0)
      (some r.1, fl ||| PFlag.when .isat r.2)
    else (none, fl)

/-- The image of an accumulator (R149): 16 words. -/
def accImage (x : Accum) : List Word :=
  (List.range 8).map (fun i => BitVec.ofNat 32 (x.e.toNat / 2 ^ (32 * i))) ++
    [BitVec.ofNat 32 (x.e.toNat / 2 ^ 256 + (if x.inv then 65536 else 0) + (if x.clip then 131072 else 0))] ++ List.replicate 7 0

/-- Reads words of tile SRAM by their indices, in order. -/
def readWordsAt (q j : Nat) : List Nat → State → List Word × State
  | [], s => ([], s)
  | i :: l, s =>
    let x := pressRead q j (i % 32768) s
    let r := readWordsAt q j l x.2
    (x.1 :: r.1, r.2)

/-- Reads an accumulator image at a word index of tile SRAM (R149). -/
def readImage (q j i : Nat) (s : State) : Accum × State :=
  let r := readWordsAt q j ((List.range 9).map (i + ·)) s
  let at_ := fun n => (wAt r.1 n).toNat
  let e := (List.range 8).foldl (fun acc n => acc + at_ n * 2 ^ (32 * n)) 0 + (at_ 8 % 65536) * 2 ^ 256
  (⟨BitVec.ofNat 272 e, at_ 8 / 65536 % 2 == 1, at_ 8 / 131072 % 2 == 1⟩, r.2)

/-- Whether an operation reads operand A, or B. -/
def needsA (op : Nat) : Bool := (decide (1 ≤ op) && decide (op ≤ 3)) || (decide (0x10 ≤ op) && decide (op ≤ 0x1A))
def needsB (op : Nat) : Bool :=
  op == 1 || op == 2 || (decide (0x10 ≤ op) && decide (op ≤ 0x14)) || (decide (0x18 ≤ op) && decide (op ≤ 0x1A))

def maskLanes (m : Nat) : List Nat := (List.range 16).filter (fun l => m / 2 ^ l % 2 == 1)

/-- The lanes an operation works in: the lane mask; pairs for CMUL; all for REDUCE and the butterflies. -/
def opLanes (u : Uword) : List Nat :=
  if u.op = 0x18 then (List.range 16).filter (fun l => u.lmask / 2 ^ (l / 2 * 2) % 2 == 1)
  else if u.op = 0x19 ∨ u.op = 0x1A ∨ u.op = 8 then List.range 16
  else maskLanes u.lmask

/-- The lanes whose operand B is read: the butterflies ignore lanes 0 and 1 of each group. -/
def bLanes (u : Uword) : List Nat :=
  if u.op = 0x19 ∨ u.op = 0x1A then (List.range 16).filter (fun l => decide (2 ≤ l % 8)) else opLanes u

/-- Accumulates in each enabled lane (R146, R147). -/
def macLanes (a : Nat) (lanes : List Nat) (f : Nat → Word × Word) (k : Core) : Core × Word :=
  lanes.foldl (fun r l =>
    let o := f l
    let m := (getAcc r.1 l a).mac o.1 o.2
    (setAcc l a m.1 r.1, r.2 ||| PFlag.when .ainv m.2.1 ||| PFlag.when .clip m.2.2)) (k, 0)

/-- REDUCE (R149). -/
def reduceAcc (a : Nat) (k : Core) : Core :=
  let z := getAcc k 0 a
  let rest := (List.range 15).map (fun i => getAcc k (i + 1) a)
  let sum : Accum := ⟨if z.inv then z.e else rest.foldl (fun e x => e + x.e) z.e, z.inv || rest.any (·.inv), z.clip || rest.any (·.clip)⟩
  (List.range 15).foldl (fun k i => setAcc (i + 1) a {} k) (setAcc 0 a sum k)

/-- The lane operation of a microword (R157) on its operands A and B: the new state, results for DST and flags. -/
def laneOp (s : State) (q j : Nat) (u : Uword) (a b : List Word) : State × LaneRes :=
  let c := tileId q j
  let lanes := opLanes u
  let k := getCore s c
  let upd (f : Core → Core) : State × LaneRes := (setCore s c (f k), {})
  let mac (f : Nat → Word × Word) : State × LaneRes :=
    let r := macLanes u.acc lanes f k
    (setCore s c r.1, ⟨[], r.2⟩)
  let vec (f : Nat → FRes) : State × LaneRes := (s, laneWise lanes f)
  let bits (f : Word → Word) : State × LaneRes := (s, ⟨lanes.map (fun l => (l, f (wAt a l))), 0⟩)
  let rd (clear : Bool) : State × LaneRes :=
    let r := lanes.foldl (fun (r : LaneRes) l =>
      let o := readout u (ccr k .prsDkey + BitVec.ofNat 32 (16 * u.acc + l)) k.tick (getAcc k l u.acc)
      ⟨match o.1 with | some w => r.res ++ [(l, w)] | none => r.res, r.flags ||| o.2⟩) {}
    (if clear then setCore s c (lanes.foldl (fun k l => setAcc l u.acc {} k) k) else s, r)
  let img (g l : Nat) : Nat := (agIndex k g 0 + 16 * l) % 32768
  let fill (merge : Bool) : State × LaneRes :=
    (lanes.foldl (fun t l =>
      let x := readImage q j (img 0 l) t
      modCore x.2 c (fun k => setAcc l u.acc (if merge then (getAcc k l u.acc).merge x.1 else x.1) k)) s, {})
  match u.op with
  | 0x01 => mac (fun l => (wAt a l, wAt b l))
  | 0x02 => mac (fun l => (f32Neg (wAt a l), wAt b l))
  | 0x03 => mac (fun l => (wAt a l, 0x3F800000#32))
  | 0x04 => upd (fun k => lanes.foldl (fun k l => setAcc l u.acc {} k) k)
  | 0x05 => upd (fun k => lanes.foldl (fun k l => (List.range 8).foldl (fun k n => setAcc l n {} k) k) k)
  | 0x06 => rd false
  | 0x07 => rd true
  | 0x08 => upd (reduceAcc u.acc)
  | 0x09 => (lanes.foldl (fun t l => (accImage (getAcc k l u.acc)).zipIdx.foldl (fun t e =>
      pressStore q j ((img 2 l + e.2) % 32768) e.1 t) t) s, {})
  | 0x0A => fill false
  | 0x0B => fill true
  | 0x10 => vec (fun l => f32Add (wAt a l) (wAt b l))
  | 0x11 => vec (fun l => f32Sub (wAt a l) (wAt b l))
  | 0x12 => vec (fun l => f32Mul (wAt a l) (wAt b l))
  | 0x13 => vec (fun l => f32MinMax false (wAt a l) (wAt b l))
  | 0x14 => vec (fun l => f32MinMax true (wAt a l) (wAt b l))
  | 0x15 => bits id
  | 0x16 => bits f32Neg
  | 0x17 => bits (· &&& 0x7FFFFFFF#32)
  | 0x18 => (s, ((List.range 8).filter (fun i => u.lmask / 2 ^ (2 * i) % 2 == 1)).foldl (fun r i =>
      let o := cmulF (wAt a (2 * i)) (wAt a (2 * i + 1)) (wAt b (2 * i)) (wAt b (2 * i + 1))
      ⟨r.res ++ [(2 * i, o.1), (2 * i + 1, o.2.1)], r.flags ||| o.2.2⟩) {})
  | 0x19 => (s, bflyLanes false a b)
  | 0x1A => (s, bflyLanes true a b)
  | _ => (s, {})

/-! ### Issue -/

def opDefined (op : Nat) : Bool := decide (op ≤ 0x0B) || (decide (0x10 ≤ op) && decide (op ≤ 0x1A))

/-- Whether a microword reads generator 1 in mirror mode. -/
def readsMirror (k : Core) (u : Uword) : Bool :=
  mirrorMode k && ((needsA u.op && u.srca == 1) || (needsB u.op && u.srcb == 1))

/-- The lanes that read generator 1. -/
def mirrorLanes (u : Uword) : List Nat :=
  (List.range 16).filter (fun l => (needsA u.op && u.srca == 1 && (opLanes u).contains l) ||
    (needsB u.op && u.srcb == 1 && (bLanes u).contains l))

/-- The wait condition of a microword (R161). An entry marked lost satisfies an ENTRY wait, as it ends a GET in mode WAIT (R119
names WAIT and TRY reads only): DESIGN CHOICE: assumption 16. -/
def waitHolds (s : State) (q j : Nat) (k : Core) (u : Uword) : Bool :=
  match u.wait with
  | 1 => !readsMirror k u || (mirrorLanes u).all (fun l =>
      let e := agIndex k 1 l % 4096
      !(entryActive s q e && entryMasked s q j e) || mirrorRead s k.tx q e != .none)
  | 2 => pressMirror s q j (u.warg % 4096) k.tx != .none
  | 3 => k.loads.all (fun x => match x.src with
      | .far a _ => !(decide (archBase q ≤ a) && decide (a < archBase q + 0x400000)) | _ => true)
  | 4 => k.loads.all (fun x => match x.src with
      | .far a _ => !(decide (gddrBase ≤ a) && decide (a < 0x0A00000000)) | _ => true)
  | 5 => decide (u.warg ≤ s.tick.cycle)
  | 6 => ccrF k .prsCf Fd.cPrsCfCf / 2 ^ (u.warg % 4) % 2 == 1
  | _ => true

/-- Whether the press-issue folio is used up (R165, R245). -/
def pisSpent (s : State) (q j : Nat) (k : Core) : Bool :=
  let lim := regLatF s (.bdgTfolA (folioIndex s q j)) Fd.bdgTfolAPis
  running s && k.tx.part && lim != 0xFFFF && decide (lim ≤ k.tx.pis)

/-- Whether the press of a position may issue: a sequence runs in a tile that is in its work window (R166), or that was released
before tick start and whose quire has not started (R140). -/
def pressRuns (s : State) (q : Nat) (k : Core) : Bool :=
  k.on && !k.halted && ccrF k .prsStat Fd.cPrsStatBusy == 1 && k.tx.st != .stopped &&
    (!running s || (k.tx.part && s.tick.started.contains q && !s.tick.deckle) || k.tx.early) &&
    (ccrF k .mode Fd.cModePrecise == 0 || k.press.flight.isEmpty)

/-- Ends a sequence. -/
def endSeq (k : Core) : Core := setCcrF (setCcrF k .prsStat Fd.cPrsStatBusy 0) .prsStat Fd.cPrsStatWaiting 0

/-- The loop counter of a microword. -/
def lcFld (sel : Nat) : Fld := if sel = 0 then Fd.cPrsLcLc0 else Fd.cPrsLcLc1

/-- Loop command, branch and end of a microword at address `n` (R162, R157): the next address, the end of the sequence,
and ILL when it runs past address 2,047. -/
def sequenceOn (u : Uword) (n : Nat) (timedOut : Bool) (k : Core) : Core × Bool :=
  let lc := ccrF k .prsLc (lcFld u.lsel)
  let k1 := if u.lcmd = 1 then setCcrF k .prsLc (lcFld u.lsel) (if u.lcnt = 0 then 4096 else u.lcnt)
    else if u.lcmd = 2 then setCcrF k .prsLc (lcFld u.lsel) (lc - 1) else k
  let taken := if u.lcmd = 2 then decide (1 < lc) else
    match u.bcond with
    | 1 => true
    | 2 => timedOut
    | 3 => !timedOut
    | 4 => ccrF k .prsCf Fd.cPrsCfCf / 2 ^ (u.warg % 4) % 2 == 1
    | _ => false
  let past := !taken && !u.fin && n == 2047
  let k2 := setCcrF k1 .prsStat Fd.cPrsStatNext (if taken then u.btgt else (n + 1) % 2048)
  (if u.fin || past then endSeq k2 else k2, past)

/-- Issues a microword whose wait is over: operands, lane operation, destination, generator steps, loop and branch. Its
flags and dependencies take effect at its write-back. DEDUCED: assumption 16. -/
def issueNow (s : State) (q j n : Nat) (u : Uword) (timedOut : Bool) : State :=
  let c := tileId q j
  let k := getCore s c
  let none' (t : State) : SrcRead := { st := t, ws := List.replicate 16 0 }
  let a := if needsA u.op then readSource s q j k u.srca (opLanes u) else none' s
  let b := if needsB u.op then readSource a.st q j k u.srcb (bLanes u) else none' a.st
  let (s1, r) := laneOp b.st q j u a.ws b.ws
  let s2 := writeDst q j u.dst r.res s1
  let miss := (NSet.addAll (NSet.addAll [] a.miss) b.miss).foldl (fun m l => m + 2 ^ l) 0
  modCore s2 c (fun k0 =>
    let k1 := if readsMirror k u then setCcrF k0 .prsWmiss Fd.cPrsWmissLanes miss else k0
    let k2 := (List.range 3).foldl (fun k g => agStep k g (u.ag g)) k1
    let k3 := setCcrF k2 .prsStat Fd.cPrsStatWaiting 0
    let (k4, past) := sequenceOn u n timedOut k3
    let fl := r.flags ||| PFlag.when .wto timedOut ||| PFlag.when .ill past
    { k4 with tx := { k4.tx with pis := k4.tx.pis + 1 }
              press := { k4.press with flight := k4.press.flight ++ [⟨n, fl, a.deps ++ b.deps⟩] } })

/-- Whether a microword's stores would overfill the write-through queue: then it does not issue yet (R126). -/
def pressLedgerFull (s : State) (k : Core) (u : Uword) : Bool :=
  running s && k.tx.part &&
  let idx := if u.op = 9 then ((opLanes u).map (fun l => (List.range 16).map (fun n => (agIndex k 2 0 + 16 * l + n) % 32768))).flatten
    else if u.dst = 1 && (needsA u.op || u.op == 6 || u.op == 7) then (opLanes u).map (agIndex k 2) else []
  let gs := NSet.addAll [] (idx.filterMap (fun i => ledgerGranule (4 * i)))
  let fresh := gs.filter (fun g => !k.tx.wtq.contains g)
  !fresh.isEmpty && decide (32 < k.tx.wtq.length + fresh.length)

/-- In precise mode the PRESS at which the core stands retires once the press is idle (R91). -/
def pressDone (c : CoreId) (s : State) : State :=
  let k := getCore s c
  if k.wait = .press ∧ pressIdle k then
    match popCell c (setCore s c { k with wait := .none }) with
    | .ok (_, t) => retire t c
    | .error _ => s
  else s

/-- The press of a position comes to its next microword (R143, R157, R161, R164, R165). `want` is the operation the
command names, `timeout` and `timer` say that the wait's timeout or its TIMER condition has been reached. -/
def issueMicroword (s : State) (q j : Nat) (err : List Nat) (want : Option Nat) (timeout timer : Bool) : State :=
  let c := tileId q j
  let k := getCore s c
  if !pressRuns s q k then s else
  let n := ccrF k .prsStat Fd.cPrsStatNext
  let a := tileBase q j + 0x20000 + 16 * n
  let r := readGranule s a err (coreWorld s c)
  let u := fetchUwordWith (r.1.getD []) s q j n
  let matches_ := match want with
    | some op => if opDefined op then u.op == op else !opDefined u.op
    | none => opDefined u.op
  if !matches_ then s else
  if pisSpent s q j k then
    setCore s c { setCcrF k .prsStat Fd.cPrsStatHeld 1 with tx := { k.tx with heldPis := true } } else
  match r with
  | (none, t) => pressDone c (modCore t c (fun k => doomUncorr 5 (endSeq k)))
  | (some _, t) =>
    if !opDefined u.op then
      modCore t c (fun k => { endSeq k with press := { k.press with
        flight := k.press.flight ++ [⟨n, PFlag.when .ill true, []⟩] } })
    else if pressLedgerFull t k u then t
    else if waitHolds t q j k u || (timer && u.wait == 5) then issueNow t q j n u false
    else if timeout && u.tmo != 0 then issueNow t q j n u true
    else modCore t c (fun k => setCcrF k .prsStat Fd.cPrsStatWaiting 1)

/-- The oldest issued microword writes back (R143): its flags set, its provisional reads are recorded (R114, R85); in
precise mode a set, enabled flag traps at the PRESS (R91, R237), and the PRESS retires once the sequence has ended. DEDUCED: assumption 16. -/
def doMicrowordWriteback (q : Fin 64) (j : Fin 17) (s : State) : State :=
  let c : CoreId := .tile q j
  let k := getCore s c
  match k.press.flight with
  | [] => s
  | u :: rest =>
    let k1 := setCcr { k with press := { k.press with flight := rest } } .prsFlags (ccr k .prsFlags ||| u.flags)
    let k2 := { k1 with tx := u.deps.foldl (fun x d => recordDep s d.1 d.2.1 d.2.2 x) k1.tx }
    if k.wait = .press then
      if u.flags &&& ccr k .prsFen &&& 0x3FF#32 ≠ 0#32 then
        let k3 := setCcrF { endSeq k2 with wait := .none } .prsXaddr Fd.cPrsXaddrUaddr u.addr
        enterException (setCore s c k3) c 6 1 (BitVec.ofNat 32 u.addr) k.pc
      else
        pressDone c (setCore s c k2)
    else setCore s c k2

/-- NOP issues. -/
def execUNop (q : Fin 64) (j : Fin 17) (err : List Nat) (s : State) : Out :=
  .next (issueMicroword s q.val j.val err (some 0x00) false false)
/-- MAC issues. -/
def execUMac (q : Fin 64) (j : Fin 17) (err : List Nat) (s : State) : Out :=
  .next (issueMicroword s q.val j.val err (some 0x01) false false)
/-- MSUB issues. -/
def execUMsub (q : Fin 64) (j : Fin 17) (err : List Nat) (s : State) : Out :=
  .next (issueMicroword s q.val j.val err (some 0x02) false false)
/-- ACCA issues. -/
def execUAcca (q : Fin 64) (j : Fin 17) (err : List Nat) (s : State) : Out :=
  .next (issueMicroword s q.val j.val err (some 0x03) false false)
/-- CLR issues. -/
def execUClr (q : Fin 64) (j : Fin 17) (err : List Nat) (s : State) : Out :=
  .next (issueMicroword s q.val j.val err (some 0x04) false false)
/-- CLRA issues. -/
def execUClra (q : Fin 64) (j : Fin 17) (err : List Nat) (s : State) : Out :=
  .next (issueMicroword s q.val j.val err (some 0x05) false false)
/-- RD issues. -/
def execURd (q : Fin 64) (j : Fin 17) (err : List Nat) (s : State) : Out :=
  .next (issueMicroword s q.val j.val err (some 0x06) false false)
/-- RDC issues. -/
def execURdc (q : Fin 64) (j : Fin 17) (err : List Nat) (s : State) : Out :=
  .next (issueMicroword s q.val j.val err (some 0x07) false false)
/-- REDUCE issues. -/
def execUReduce (q : Fin 64) (j : Fin 17) (err : List Nat) (s : State) : Out :=
  .next (issueMicroword s q.val j.val err (some 0x08) false false)
/-- SPILL issues. -/
def execUSpill (q : Fin 64) (j : Fin 17) (err : List Nat) (s : State) : Out :=
  .next (issueMicroword s q.val j.val err (some 0x09) false false)
/-- FILL issues. -/
def execUFill (q : Fin 64) (j : Fin 17) (err : List Nat) (s : State) : Out :=
  .next (issueMicroword s q.val j.val err (some 0x0A) false false)
/-- MERGE issues. -/
def execUMerge (q : Fin 64) (j : Fin 17) (err : List Nat) (s : State) : Out :=
  .next (issueMicroword s q.val j.val err (some 0x0B) false false)
/-- VADD issues. -/
def execUVadd (q : Fin 64) (j : Fin 17) (err : List Nat) (s : State) : Out :=
  .next (issueMicroword s q.val j.val err (some 0x10) false false)
/-- VSUB issues. -/
def execUVsub (q : Fin 64) (j : Fin 17) (err : List Nat) (s : State) : Out :=
  .next (issueMicroword s q.val j.val err (some 0x11) false false)
/-- VMUL issues. -/
def execUVmul (q : Fin 64) (j : Fin 17) (err : List Nat) (s : State) : Out :=
  .next (issueMicroword s q.val j.val err (some 0x12) false false)
/-- VMIN issues. -/
def execUVmin (q : Fin 64) (j : Fin 17) (err : List Nat) (s : State) : Out :=
  .next (issueMicroword s q.val j.val err (some 0x13) false false)
/-- VMAX issues. -/
def execUVmax (q : Fin 64) (j : Fin 17) (err : List Nat) (s : State) : Out :=
  .next (issueMicroword s q.val j.val err (some 0x14) false false)
/-- VMOV issues. -/
def execUVmov (q : Fin 64) (j : Fin 17) (err : List Nat) (s : State) : Out :=
  .next (issueMicroword s q.val j.val err (some 0x15) false false)
/-- VNEG issues. -/
def execUVneg (q : Fin 64) (j : Fin 17) (err : List Nat) (s : State) : Out :=
  .next (issueMicroword s q.val j.val err (some 0x16) false false)
/-- VABS issues. -/
def execUVabs (q : Fin 64) (j : Fin 17) (err : List Nat) (s : State) : Out :=
  .next (issueMicroword s q.val j.val err (some 0x17) false false)
/-- CMUL issues. -/
def execUCmul (q : Fin 64) (j : Fin 17) (err : List Nat) (s : State) : Out :=
  .next (issueMicroword s q.val j.val err (some 0x18) false false)
/-- BFLY4 issues. -/
def execUBfly4 (q : Fin 64) (j : Fin 17) (err : List Nat) (s : State) : Out :=
  .next (issueMicroword s q.val j.val err (some 0x19) false false)
/-- BFLY4I issues. -/
def execUBfly4i (q : Fin 64) (j : Fin 17) (err : List Nat) (s : State) : Out :=
  .next (issueMicroword s q.val j.val err (some 0x1A) false false)
/-- RESERVED_OP (R157): a microword with a reserved OP ends the sequence with ILL. -/
def execUReservedOp (q : Fin 64) (j : Fin 17) (err : List Nat) (s : State) : Out :=
  .next (issueMicroword s q.val j.val err (some 0x3F) false false)
def execMicrowordWriteback (q : Fin 64) (j : Fin 17) (s : State) : Out := .next (doMicrowordWriteback q j s)
/-- PRESS_WAIT_TIMEOUT (R161): the held microword issues; WTO is set unless its condition holds (R7). -/
def execPressWaitTimeout (q : Fin 64) (j : Fin 17) (err : List Nat) (s : State) : Out :=
  .next (issueMicroword s q.val j.val err none true false)
/-- PRESS_TIMER_CONDITION (R161): the count from TE has reached WARG. -/
def execPressTimerCondition (q : Fin 64) (j : Fin 17) (err : List Nat) (s : State) : Out :=
  .next (issueMicroword s q.val j.val err none false true)

end Sys2Proof.Machine
end

