-- ==== Sys2Proof/Machine/Dispatch.lean ====
section
/-! DEFINITION. What each command does: one arm for each constructor, in the order of the opcode table. -/

namespace Sys2Proof.Machine

def exec (i : Instr) (s : State) : Host.Outcome State Fault Refusal :=
  match i with
  | .lit c imm => Sys2Proof.Machine.execLit c imm s
  | .ext c imm => Sys2Proof.Machine.execExt c imm s
  | .dup c => Sys2Proof.Machine.execDup c s
  | .drop c => Sys2Proof.Machine.execDrop c s
  | .swap c => Sys2Proof.Machine.execSwap c s
  | .over c => Sys2Proof.Machine.execOver c s
  | .rot c => Sys2Proof.Machine.execRot c s
  | .pick c => Sys2Proof.Machine.execPick c s
  | .add c => Sys2Proof.Machine.execAdd c s
  | .sub c => Sys2Proof.Machine.execSub c s
  | .and c => Sys2Proof.Machine.execAnd c s
  | .or c => Sys2Proof.Machine.execOr c s
  | .xor c => Sys2Proof.Machine.execXor c s
  | .shl c => Sys2Proof.Machine.execShl c s
  | .shr c => Sys2Proof.Machine.execShr c s
  | .sar c => Sys2Proof.Machine.execSar c s
  | .mul c => Sys2Proof.Machine.execMul c s
  | .mulh c => Sys2Proof.Machine.execMulh c s
  | .div c => Sys2Proof.Machine.execDiv c s
  | .rem c => Sys2Proof.Machine.execRem c s
  | .fadd c => Sys2Proof.Machine.execFadd c s
  | .fmul c => Sys2Proof.Machine.execFmul c s
  | .fdiv c => Sys2Proof.Machine.execFdiv c s
  | .fsqrt c => Sys2Proof.Machine.execFsqrt c s
  | .exp2 c => Sys2Proof.Machine.execExp2 c s
  | .log2 c => Sys2Proof.Machine.execLog2 c s
  | .cmp c cc => Sys2Proof.Machine.execCmp c cc s
  | .ld c off err => Sys2Proof.Machine.execLd c off err s
  | .st c off err => Sys2Proof.Machine.execSt c off err s
  | .ldb c off err => Sys2Proof.Machine.execLdb c off err s
  | .stb c off err => Sys2Proof.Machine.execStb c off err s
  | .ldf c => Sys2Proof.Machine.execLdf c s
  | .stf c => Sys2Proof.Machine.execStf c s
  | .get c => Sys2Proof.Machine.execGet c s
  | .put c => Sys2Proof.Machine.execPut c s
  | .seal c => Sys2Proof.Machine.execSeal c s
  | .stitch c => Sys2Proof.Machine.execStitch c s
  | .press c => Sys2Proof.Machine.execPress c s
  | .pwait c => Sys2Proof.Machine.execPwait c s
  | .movn c k => Sys2Proof.Machine.execMovn c k s
  | .filln c k => Sys2Proof.Machine.execFilln c k s
  | .ccrr c => Sys2Proof.Machine.execCcrr c s
  | .ccrw c => Sys2Proof.Machine.execCcrw c s
  | .br c off => Sys2Proof.Machine.execBr c off s
  | .bz c off => Sys2Proof.Machine.execBz c off s
  | .bnz c off => Sys2Proof.Machine.execBnz c off s
  | .call c off => Sys2Proof.Machine.execCall c off s
  | .brInd c => Sys2Proof.Machine.execBrInd c s
  | .callInd c => Sys2Proof.Machine.execCallInd c s
  | .ret c => Sys2Proof.Machine.execRet c s
  | .reti c => Sys2Proof.Machine.execReti c s
  | .sync c => Sys2Proof.Machine.execSync c s
  | .iflush c => Sys2Proof.Machine.execIflush c s
  | .wft c => Sys2Proof.Machine.execWft c s
  | .trap c code => Sys2Proof.Machine.execTrap c code s
  | .loop c len => Sys2Proof.Machine.execLoop c len s
  | .definedIllegal c op => Sys2Proof.Machine.execDefinedIllegal c op s
  | .reservedBlock c op => Sys2Proof.Machine.execReservedBlock c op s
  | .sideUnitResult c n => Sys2Proof.Machine.execSideUnitResult c n s
  | .getReply c n fail => Sys2Proof.Machine.execGetReply c n fail s
  | .ldfReply c n fail err err2 => Sys2Proof.Machine.execLdfReply c n fail err err2 s
  | .stfAcknowledge c n err err2 => Sys2Proof.Machine.execStfAcknowledge c n err err2 s
  | .sealComplete c => Sys2Proof.Machine.execSealComplete c s
  | .stitchComplete c => Sys2Proof.Machine.execStitchComplete c s
  | .interruptEntry c => Sys2Proof.Machine.execInterruptEntry c s
  | .nmeEntry c => Sys2Proof.Machine.execNmeEntry c s
  | .uNop q j err => Sys2Proof.Machine.execUNop q j err s
  | .uMac q j err => Sys2Proof.Machine.execUMac q j err s
  | .uMsub q j err => Sys2Proof.Machine.execUMsub q j err s
  | .uAcca q j err => Sys2Proof.Machine.execUAcca q j err s
  | .uClr q j err => Sys2Proof.Machine.execUClr q j err s
  | .uClra q j err => Sys2Proof.Machine.execUClra q j err s
  | .uRd q j err => Sys2Proof.Machine.execURd q j err s
  | .uRdc q j err => Sys2Proof.Machine.execURdc q j err s
  | .uReduce q j err => Sys2Proof.Machine.execUReduce q j err s
  | .uSpill q j err => Sys2Proof.Machine.execUSpill q j err s
  | .uFill q j err => Sys2Proof.Machine.execUFill q j err s
  | .uMerge q j err => Sys2Proof.Machine.execUMerge q j err s
  | .uVadd q j err => Sys2Proof.Machine.execUVadd q j err s
  | .uVsub q j err => Sys2Proof.Machine.execUVsub q j err s
  | .uVmul q j err => Sys2Proof.Machine.execUVmul q j err s
  | .uVmin q j err => Sys2Proof.Machine.execUVmin q j err s
  | .uVmax q j err => Sys2Proof.Machine.execUVmax q j err s
  | .uVmov q j err => Sys2Proof.Machine.execUVmov q j err s
  | .uVneg q j err => Sys2Proof.Machine.execUVneg q j err s
  | .uVabs q j err => Sys2Proof.Machine.execUVabs q j err s
  | .uCmul q j err => Sys2Proof.Machine.execUCmul q j err s
  | .uBfly4 q j err => Sys2Proof.Machine.execUBfly4 q j err s
  | .uBfly4i q j err => Sys2Proof.Machine.execUBfly4i q j err s
  | .uReservedOp q j err => Sys2Proof.Machine.execUReservedOp q j err s
  | .microwordWriteback q j => Sys2Proof.Machine.execMicrowordWriteback q j s
  | .pressWaitTimeout q j err => Sys2Proof.Machine.execPressWaitTimeout q j err s
  | .pressTimerCondition q j err => Sys2Proof.Machine.execPressTimerCondition q j err s
  | .tickStart media hush => Sys2Proof.Machine.execTickStart media hush s
  | .tckGo w v => Sys2Proof.Machine.execTckGo w v s
  | .tckStop w v => Sys2Proof.Machine.execTckStop w v s
  | .finalEdge => Sys2Proof.Machine.execFinalEdge s
  | .tickEdge hush pherr wish => Sys2Proof.Machine.execTickEdge hush pherr wish s
  | .egressFrameStart => Sys2Proof.Machine.execEgressFrameStart s
  | .quireStart q => Sys2Proof.Machine.execQuireStart q s
  | .tickTimer c => Sys2Proof.Machine.execTickTimer c s
  | .ingressDeadline => Sys2Proof.Machine.execIngressDeadline s
  | .deckle => Sys2Proof.Machine.execDeckle s
  | .cycleFolioExhausted q j => Sys2Proof.Machine.execCycleFolioExhausted q j s
  | .stitchFreeze missing late => Sys2Proof.Machine.execStitchFreeze missing late s
  | .selWrite w v => Sys2Proof.Machine.execSelWrite w v s
  | .wordClockReady => Sys2Proof.Machine.execWordClockReady s
  | .ptpLock offset => Sys2Proof.Machine.execPtpLock offset s
  | .ptpLockLoss => Sys2Proof.Machine.execPtpLockLoss s
  | .tickSourceFail => Sys2Proof.Machine.execTickSourceFail s
  | .acquisitionEnd pherr => Sys2Proof.Machine.execAcquisitionEnd pherr s
  | .holdEnd => Sys2Proof.Machine.execHoldEnd s
  | .tckCountLoRead w => Sys2Proof.Machine.execTckCountLoRead w s
  | .tckMediaLoRead w => Sys2Proof.Machine.execTckMediaLoRead w s
  | .slotMessage q inj err0 err1 => Sys2Proof.Machine.execSlotMessage q inj err0 err1 s
  | .slotcfgWrite x slot v => Sys2Proof.Machine.execSlotcfgWrite x slot v s
  | .subscriptionMapWrite x q e hi v => Sys2Proof.Machine.execSubscriptionMapWrite x q e hi v s
  | .linkReen w q v lock => Sys2Proof.Machine.execLinkReen w q v lock s
  | .linkRetire q l locked => Sys2Proof.Machine.execLinkRetire q l locked s
  | .bulkPacket k err err2 => Sys2Proof.Machine.execBulkPacket k err err2 s
  | .tileRelease w q v => Sys2Proof.Machine.execTileRelease w q v s
  | .releaseLoadEnd q j => Sys2Proof.Machine.execReleaseLoadEnd q j s
  | .relClear w q v => Sys2Proof.Machine.execRelClear w q v s
  | .takeoverLoadEnd q => Sys2Proof.Machine.execTakeoverLoadEnd q s
  | .loadres w q v => Sys2Proof.Machine.execLoadres w q v s
  | .loadresLoadEnd q => Sys2Proof.Machine.execLoadresLoadEnd q s
  | .handoverGo w q v => Sys2Proof.Machine.execHandoverGo w q v s
  | .readmit w q j v => Sys2Proof.Machine.execReadmit w q j v s
  | .readmitTestEnd q j pass => Sys2Proof.Machine.execReadmitTestEnd q j pass s
  | .writeThroughAck q j => Sys2Proof.Machine.execWriteThroughAck q j s
  | .send w v => Sys2Proof.Machine.execSend w v s
  | .actWrite x t v => Sys2Proof.Machine.execActWrite x t v s
  | .evidenceRecord cls world unit detail => Sys2Proof.Machine.execEvidenceRecord cls world unit detail s
  | .flush w => Sys2Proof.Machine.execFlush w s
  | .channelRetire c cause => Sys2Proof.Machine.execChannelRetire c cause s
  | .retrain w c => Sys2Proof.Machine.execRetrain w c s
  | .retrainEnd c pass => Sys2Proof.Machine.execRetrainEnd c pass s
  | .resilverEnd c => Sys2Proof.Machine.execResilverEnd c s
  | .patrolScrub t err err2 => Sys2Proof.Machine.execPatrolScrub t err err2 s
  | .recalibrationSlice c pass => Sys2Proof.Machine.execRecalibrationSlice c pass s
  | .channelPowerDown c => Sys2Proof.Machine.execChannelPowerDown c s
  | .regionWrite x r f v => Sys2Proof.Machine.execRegionWrite x r f v s
  | .zeroingEnd r => Sys2Proof.Machine.execZeroingEnd r s
  | .poisonClear w v => Sys2Proof.Machine.execPoisonClear w v s
  | .storeScan q ps img => Sys2Proof.Machine.execStoreScan q ps img s
  | .engineStart x e v => Sys2Proof.Machine.execEngineStart x e v s
  | .engineRelease w e => Sys2Proof.Machine.execEngineRelease w e s
  | .engineBlock e granule err err2 => Sys2Proof.Machine.execEngineBlock e granule err err2 s
  | .maldexFrame p blocks => Sys2Proof.Machine.execMaldexFrame p blocks s
  | .lossOfSignal p => Sys2Proof.Machine.execLossOfSignal p s
  | .blockLock p => Sys2Proof.Machine.execBlockLock p s
  | .blockLockLoss p => Sys2Proof.Machine.execBlockLockLoss p s
  | .portEnableGroup g => Sys2Proof.Machine.execPortEnableGroup g s
  | .evqRead w p => Sys2Proof.Machine.execEvqRead w p s
  | .tdmFrame t slots => Sys2Proof.Machine.execTdmFrame t slots s
  | .tdmEgressFrame t => Sys2Proof.Machine.execTdmEgressFrame t s
  | .tdmClockLoss t => Sys2Proof.Machine.execTdmClockLoss t s
  | .jackSettlingExpiry g => Sys2Proof.Machine.execJackSettlingExpiry g s
  | .jackLinkWrite x g v => Sys2Proof.Machine.execJackLinkWrite x g v s
  | .mediaPacket e dest udp pt stamp payload => Sys2Proof.Machine.execMediaPacket e dest udp pt stamp payload s
  | .ptpMessage e stamp offset state => Sys2Proof.Machine.execPtpMessage e stamp offset state s
  | .streamEnable x tx n v => Sys2Proof.Machine.execStreamEnable x tx n v s
  | .streamPacketTx n => Sys2Proof.Machine.execStreamPacketTx n s
  | .controlFrame e bytes fcs => Sys2Proof.Machine.execControlFrame e bytes fcs s
  | .pop w e => Sys2Proof.Machine.execPop w e s
  | .ctxSend w e v => Sys2Proof.Machine.execCtxSend w e v s
  | .ethLinkChange e up => Sys2Proof.Machine.execEthLinkChange e up s
  | .maldexSignalPresent p => Sys2Proof.Machine.execMaldexSignalPresent p s
  | .tdmBclkReturn t => Sys2Proof.Machine.execTdmBclkReturn t s
  | .ptpEventTransmit stamp origin => Sys2Proof.Machine.execPtpEventTransmit stamp origin s
  | .panelSample levels => Sys2Proof.Machine.execPanelSample levels s
  | .buttonHeld k => Sys2Proof.Machine.execButtonHeld k s
  | .touchBurst j count => Sys2Proof.Machine.execTouchBurst j count s
  | .pnlCfgWrite x k v => Sys2Proof.Machine.execPnlCfgWrite x k v s
  | .pnlEvqRead w q => Sys2Proof.Machine.execPnlEvqRead w q s
  | .receiveCharacter n c => Sys2Proof.Machine.execReceiveCharacter n c s
  | .transmitCharacter n => Sys2Proof.Machine.execTransmitCharacter n s
  | .serDataWrite x n v => Sys2Proof.Machine.execSerDataWrite x n v s
  | .serDataRead w n => Sys2Proof.Machine.execSerDataRead w n s
  | .receiveTimeout n => Sys2Proof.Machine.execReceiveTimeout n s
  | .lineHeld n => Sys2Proof.Machine.execLineHeld n s
  | .heldClear n => Sys2Proof.Machine.execHeldClear n s
  | .serBaudWrite x n v => Sys2Proof.Machine.execSerBaudWrite x n v s
  | .ctsChange n low => Sys2Proof.Machine.execCtsChange n low s
  | .bar0Access h off op g err err2 => Sys2Proof.Machine.execBar0Access h off op g err err2 s
  | .bar2Access h off op g err err2 => Sys2Proof.Machine.execBar2Access h off op g err err2 s
  | .release h len => Sys2Proof.Machine.execRelease h len s
  | .doorbell h op v => Sys2Proof.Machine.execDoorbell h op v s
  | .ringProdApply h r => Sys2Proof.Machine.execRingProdApply h r s
  | .note x h v => Sys2Proof.Machine.execNote x h v s
  | .hostLinkDown h => Sys2Proof.Machine.execHostLinkDown h s
  | .hostLinkUp h speed width cfg => Sys2Proof.Machine.execHostLinkUp h speed width cfg s
  | .stgWrite x h v => Sys2Proof.Machine.execStgWrite x h v s
  | .ringConfigWrite x h r v => Sys2Proof.Machine.execRingConfigWrite x h r v s
  | .checkIn x w v t => Sys2Proof.Machine.execCheckIn x w v t s
  | .windowClose w => Sys2Proof.Machine.execWindowClose w s
  | .hardTimerEnd w => Sys2Proof.Machine.execHardTimerEnd w s
  | .wdgKey x w v => Sys2Proof.Machine.execWdgKey x w v s
  | .wdgDisable x w => Sys2Proof.Machine.execWdgDisable x w s
  | .wdgEnable x w lock => Sys2Proof.Machine.execWdgEnable x w lock s
  | .wdgLock x w => Sys2Proof.Machine.execWdgLock x w s
  | .wdgConfigWrite x w r v => Sys2Proof.Machine.execWdgConfigWrite x w r v s
  | .imageStaged => Sys2Proof.Machine.execImageStaged s
  | .verificationEnd => Sys2Proof.Machine.execVerificationEnd s
  | .imageLoad => Sys2Proof.Machine.execImageLoad s
  | .fuseProgram x addr data => Sys2Proof.Machine.execFuseProgram x addr data s
  | .fuseProgramEnd => Sys2Proof.Machine.execFuseProgramEnd s
  | .derive w purpose => Sys2Proof.Machine.execDerive w purpose s
  | .vitrineSeal w => Sys2Proof.Machine.execVitrineSeal w s
  | .vitrineOpen w => Sys2Proof.Machine.execVitrineOpen w s
  | .destroy w => Sys2Proof.Machine.execDestroy w s
  | .quote w => Sys2Proof.Machine.execQuote w s
  | .cert w => Sys2Proof.Machine.execCert w s
  | .idpub w => Sys2Proof.Machine.execIdpub w s
  | .program x c => Sys2Proof.Machine.execProgram x c s
  | .erase x c => Sys2Proof.Machine.execErase x c s
  | .blank x c => Sys2Proof.Machine.execBlank x c s
  | .activate x c => Sys2Proof.Machine.execActivate x c s
  | .claim x c => Sys2Proof.Machine.execClaim x c s
  | .unclaim x c => Sys2Proof.Machine.execUnclaim x c s
  | .option x c => Sys2Proof.Machine.execOption x c s
  | .flashOperationEnd k => Sys2Proof.Machine.execFlashOperationEnd k s
  | .flashTimeout k => Sys2Proof.Machine.execFlashTimeout k s
  | .flashRead c n err => Sys2Proof.Machine.execFlashRead c n err s
  | .flsLowerKey x key => Sys2Proof.Machine.execFlsLowerKey x key s
  | .lowering x => Sys2Proof.Machine.execLowering x s
  | .accept w src => Sys2Proof.Machine.execAccept w src s
  | .step w q k => Sys2Proof.Machine.execStep w q k s
  | .curator w => Sys2Proof.Machine.execCurator w s
  | .finish w => Sys2Proof.Machine.execFinish w s
  | .abandon w => Sys2Proof.Machine.execAbandon w s
  | .powerOn p1 p2 p3 => Sys2Proof.Machine.execPowerOn p1 p2 p3 s
  | .nreset p1 p2 p3 ns held => Sys2Proof.Machine.execNreset p1 p2 p3 ns held s
  | .powerGood r => Sys2Proof.Machine.execPowerGood r s
  | .pgTimeout r => Sys2Proof.Machine.execPgTimeout r s
  | .pgLost r => Sys2Proof.Machine.execPgLost r s
  | .sourceReady k => Sys2Proof.Machine.execSourceReady k s
  | .refclkFail => Sys2Proof.Machine.execRefclkFail s
  | .krcFail => Sys2Proof.Machine.execKrcFail s
  | .kxtFail => Sys2Proof.Machine.execKxtFail s
  | .corePllLossOfLock => Sys2Proof.Machine.execCorePllLossOfLock s
  | .audioPllLossOfLock n => Sys2Proof.Machine.execAudioPllLossOfLock n s
  | .audioPllRelock n => Sys2Proof.Machine.execAudioPllRelock n s
  | .serdesPllLossOfLock n => Sys2Proof.Machine.execSerdesPllLossOfLock n s
  | .refselWrite x v => Sys2Proof.Machine.execRefselWrite x v s
  | .referenceSwitchEnd => Sys2Proof.Machine.execReferenceSwitchEnd s
  | .rstReq x k v => Sys2Proof.Machine.execRstReq x k v s
  | .blockIdle b dropped clk => Sys2Proof.Machine.execBlockIdle b dropped clk s
  | .sequencerRetry run => Sys2Proof.Machine.execSequencerRetry run s
  | .rstAssertKey x key => Sys2Proof.Machine.execRstAssertKey x key s
  | .rstAssert x => Sys2Proof.Machine.execRstAssert x s
  | .sleepRequest x v => Sys2Proof.Machine.execSleepRequest x v s
  | .sleepEntry => Sys2Proof.Machine.execSleepEntry s
  | .serialWake n window => Sys2Proof.Machine.execSerialWake n window s
  | .ctsWake n => Sys2Proof.Machine.execCtsWake n s
  | .wakeTimer => Sys2Proof.Machine.execWakeTimer s
  | .wake chk => Sys2Proof.Machine.execWake chk s
  | .temperatureRead temps => Sys2Proof.Machine.execTemperatureRead temps s
  | .quireGate q => Sys2Proof.Machine.execQuireGate q s
  | .quirePowerUpEnd q => Sys2Proof.Machine.execQuirePowerUpEnd q s
  | .vddStbyLoss => Sys2Proof.Machine.execVddStbyLoss s
  | .tapAccess op => Sys2Proof.Machine.execTapAccess op s
  | .registerWrite x a v => Sys2Proof.Machine.execRegisterWrite x a v s

end Sys2Proof.Machine
end

