-- ==== Sys2Proof/Machine/Step.lean ====
section
/-! DEFINITION. One step of the block: the command at the front of the queue runs. -/

namespace Sys2Proof.Machine

/-- One step: the front command is taken from the queue and runs; an ill-formed one is a fault; on an empty queue the block
idles (assumption 8). DESIGN CHOICE: assumption 7. -/
def step (s : State) : Host.Outcome State Fault Refusal :=
  match s.pending with
  | [] => .next s
  | c :: r => if c.wf then exec c { s with pending := r } else .fault .illFormed

/-- The command that a word spells, put at the front of the queue. DESIGN CHOICE: assumption 9. -/
def State.withFetchWord (s : State) (nbits w : Nat) : State :=
  match decodeTableWord nbits w with
  | some c => { s with pending := c :: s.pending }
  | none => s

end Sys2Proof.Machine
end

