-- ==== Sys2Proof/Safety.lean ====
section
/-! DEFINITION. What a safe state and a safe run of the block are, and the terms that statements use: a core that stands
ready at an instruction, its cached cells, and what a command leaves alone. -/

namespace Sys2Proof

/-- The canonical form of the memory: addresses strictly rise, and no entry holds what an unlisted address reads as. -/
def Memory.wf (m : List Host.Cell) : Bool := SMap.sorted m && m.all (fun e => e.2 != Machine.memDefault e.1)

/-- Every waiting command is well formed. -/
def queueWf (s : Machine.State) : Bool := s.pending.all Instr.wf

/-- A state that is data of the machine: its memory in canonical form, and only well-formed commands waiting. -/
def Safe (s : Machine.State) : Prop := Memory.wf s.mem = true ∧ queueWf s = true

/-- A step neither stops nor is refused. -/
def goesOn (s : Machine.State) : Prop := ∃ t, Machine.step s = .next t

namespace Machine

/-- Whether a granule reads good with the codeword last written to it (R281): no poison, and no position in error. -/
def clean (s : State) (a : Nat) : Bool := !s.poison.contains (granule a) && (upsetsAt s a).isEmpty

/-- Every granule reads good, and every GDDR7 channel is in service with nothing miscorrected (R281, R282, R298). -/
def sound (s : State) : Prop :=
  (∀ a, clean s a = true) ∧ memChans s ≤ 8 ∧ ∀ c, c < 8 → chanState s c = 2 ∧ (getChan s c).wrong = []

/-- Whether a read of a granule with the positions `err` in error is detected-uncorrectable (R281, R282). -/
def unreadable (s : State) (a : Nat) (err : List Nat) : Bool :=
  match readOutcome (s.poison.contains (granule a)) (errNorm (upsetsAt s a ++ err)) with | .bad _ _ => true | _ => false

/-- A writer reaches a control register at `a` now (R11, R246, R434): the keeper core while it runs, a curator while the main die has
power and its access folio is not spent, in a block that is not held in reset for want of its clock. -/
def reaches (s : State) (x : Writer) (a : Nat) : Bool :=
  (match x with
   | .kpr => (getCore s .keeper).on
   | .cur _ => s.power.up && (ctlCharge x s).1) && !pendingAt s a

/-- Whether the next command waiting is an instruction of the same core, with which the running one may pair (R175). -/
def sharesCycle (s : State) (c : CoreId) : Bool :=
  match s.pending with
  | i :: _ => (match pairing i with | some (d, _, _) => d == c | none => false)
  | [] => false

/-- The core may execute the instruction at its pc (R58, R76, R81) with nothing but its own effect: the fetch is in the memory that
holds code (R18, R123), in a good granule or the keeper core's ROM; no debug step is pending, every CCRW has been followed by SYNC
(R189), the instruction is alone in its cycle (R175), and no bank holds more than 8 cells (R177). -/
def Ready (s : State) (c : CoreId) : Bool :=
  let k := getCore s c
  canRun s c && !s.trust.tapStep.contains (coreKey c) && (fetchFault c k.pc.toNat).isNone &&
    ((c == .keeper && decide (k.pc.toNat < 0x10000)) || clean s (localAddr c k.pc.toNat)) &&
    k.stale.isEmpty && !k.paired && !sharesCycle s c && decide (k.user.cells.length ≤ 8) && decide (k.sup.cells.length ≤ 8)

/-- The cached operand cells of a core's level, newest first (R177). -/
def cells (s : State) (c : CoreId) : List Cell := (bank (getCore s c) (isSup (getCore s c))).cells

/-- The state with other cached cells at the core's level. -/
def setCells (c : CoreId) (xs : List Cell) (s : State) : State :=
  modCore s c (fun k => setBank k (isSup k) { bank k (isSup k) with cells := xs })

/-- The cached return addresses of a core's level, newest first. -/
def rets (s : State) (c : CoreId) : List Word := (bank (getCore s c) (isSup (getCore s c))).rets

/-- The cached shadow entries of a core's level, newest first. -/
def shadows (s : State) (c : CoreId) : List Word := (bank (getCore s c) (isSup (getCore s c))).shs

/-- The state with other cached return and shadow entries at the core's level. -/
def setRets (c : CoreId) (rs hs : List Word) (s : State) : State :=
  modCore s c (fun k => setBank k (isSup k) { bank k (isSup k) with rets := rs, shs := hs })

/-- Everything but the cores is as it was, and of the cores only `c` may differ. -/
def OnlyCore (c : CoreId) (s t : State) : Prop :=
  { t with cores := s.cores } = s ∧ ∀ d, d ≠ c → getCore t d = getCore s d

/-- The press of a position comes to the microword `u`, which does not wait: a sequence runs, the issue folio covers it, and its
granule of the press store reads good (R143, R157, R165). -/
def pressAt (s : State) (q j : Nat) (u : Uword) : Bool :=
  let k := getCore s (tileId q j)
  let n := ccrF k .prsStat Fd.cPrsStatNext
  pressRuns s q k && fetchUword s q j n == u && u.wait == 0 && !pisSpent s q j k && decide (n < 2047) &&
    clean s (tileBase q j + 0x20000 + 16 * n)

/-- Lane `l` of vector register `r` of a core's press. -/
def vreg (k : Core) (r l : Nat) : Word := k.press.v.get (16 * r + l) 0

/-- Every byte of memory reads as before. -/
def SameMem (s t : State) : Prop := ∀ a, memByte t a = memByte s a

/-- Every byte of memory outside `n` bytes at `a` reads as before. -/
def SameMemBut (a n : Nat) (s t : State) : Prop := ∀ x, x < a ∨ a + n ≤ x → memByte t x = memByte s x

/-- Every control register but the listed ones holds what it held. -/
def SameCtl (rs : List Creg) (s t : State) : Prop := ∀ r, (∀ x ∈ rs, r.addr ≠ x.addr) → reg t r = reg s r

/-- The status registers of the GDDR7 channels, whose power-down bit a request clears (R298). -/
def chanRegs : List Creg := (List.range 8).map .memCh

/-- Everything but the control registers is as it was, and of those only the listed ones may differ. -/
def OnlyCtl (rs : List Creg) (s t : State) : Prop := { t with ctl := s.ctl, eff := s.eff } = s ∧ SameCtl rs s t

end Machine

end Sys2Proof
end

