-- ==== Sys2Proof/Certificates/Slice0/Obligations.lean ====
section
/-! DEFINITION. The statements about the model, for the provers: the step, the Limdon core, the press, the tick and the
transactions, the spine, memory, ports, trust, flash, clocks, power and the keeper. -/

open Sys2Proof Sys2Proof.Machine

/-! ### The step -/

/-- The block takes the command at the front of its queue: a well-formed one runs on the state with the rest of the
queue, an ill-formed one is a fault, and on an empty queue the block idles (assumption 8, the model's own choice). -/
def Obligations.StepRunsFront : Prop :=
  (∀ s : State, s.pending = [] → step s = .next s) ∧
  ∀ (c : Instr) (r : List Instr) (s : State), s.pending = c :: r →
    (c.wf = true → step s = exec c { s with pending := r }) ∧ (c.wf = false → step s = .fault .illFormed)

/-- Every command completes: in every state `exec` answers a next state. What that state is, the
statements below say, command by command; no command's meaning ends in a fault or a refusal. -/
def Obligations.EveryCommandCompletes : Prop :=
  ∀ (i : Instr) (s : State), ∃ t, exec i s = .next t

/-! ### Limdon: operands and results -/

/-- The two-operand integer operations of group 0 that retire with their result (R196, R197): b is the top cell and a the one
below; both are replaced by the result and nothing but the cached cells and the pc of the core changes. CMP (R200) pops b then
a and pushes −1 if the condition holds and 0 otherwise; the floating-point conditions raise NV for a signalling-NaN operand,
and the integer ones raise nothing. FADD and FMUL (R196, R198) replace their two operands by the rounded result and raise its
CFPF bits; a NaN result is 0x7FC0_0000, and an operand that is a signalling NaN raises NV. The rounding step of every binary32
result (R153, R198): `roundShift n k` is an integer nearest to n · 2^−k, and the even one of two that are equally near. Where
the spec is open it follows the model's own reading (assumption 11). -/
def Obligations.BinaryOperations : Prop :=
  (∀ (c : CoreId) (s : State) (a b : Word) (rest : List Cell),
     Ready s c = true → cells s c = .val b :: .val a :: rest → rest.length < 8 →
     let done (r : Word) : Out := .next (retire (setCells c (.val r :: rest) s) c)
     exec (.add c) s = done (a + b) ∧ exec (.sub c) s = done (a - b) ∧ exec (.and c) s = done (a &&& b) ∧
     exec (.or c) s = done (a ||| b) ∧ exec (.xor c) s = done (a ^^^ b) ∧
     exec (.shl c) s = done (if 32 ≤ b.toNat then 0#32 else a <<< b.toNat) ∧
     exec (.shr c) s = done (if 32 ≤ b.toNat then 0#32 else a >>> b.toNat) ∧
     exec (.sar c) s = done (if 32 ≤ b.toNat then (if a.msb then 0xFFFFFFFF#32 else 0#32) else a.sshiftRight b.toNat) ∧
     exec (.mul c) s = done (BitVec.ofInt 32 (a.toInt * b.toInt)) ∧
     exec (.mulh c) s = done (BitVec.ofInt 32 (a.toInt * b.toInt / 2 ^ 32))) ∧
  (∀ (c : CoreId) (s : State) (a b : Word) (rest : List Cell),
     Ready s c = true → cells s c = .val b :: .val a :: rest → rest.length < 8 →
     let done (p : Bool) : State := setCells c (.val (if p then 0xFFFFFFFF#32 else 0#32) :: rest) s
     let int (p : Bool) : Out := .next (retire (done p) c)
     let flt (p : Bool) : Out := .next (retire (raiseCfpf (done p) c (if f32IsSNaN a || f32IsSNaN b then 1#32 else 0#32)) c)
     let nan := f32IsNaN a || f32IsNaN b
     exec (.cmp c .eq) s = int (a == b) ∧ exec (.cmp c .ne) s = int (a != b) ∧
     exec (.cmp c .lt) s = int (decide (a.toInt < b.toInt)) ∧ exec (.cmp c .ge) s = int (decide (b.toInt ≤ a.toInt)) ∧
     exec (.cmp c .gt) s = int (decide (b.toInt < a.toInt)) ∧ exec (.cmp c .le) s = int (decide (a.toInt ≤ b.toInt)) ∧
     exec (.cmp c .ltu) s = int (decide (a.toNat < b.toNat)) ∧ exec (.cmp c .geu) s = int (decide (b.toNat ≤ a.toNat)) ∧
     exec (.cmp c .gtu) s = int (decide (b.toNat < a.toNat)) ∧ exec (.cmp c .leu) s = int (decide (a.toNat ≤ b.toNat)) ∧
     exec (.cmp c .feq) s = flt (!nan && decide (f32Key a = f32Key b)) ∧
     exec (.cmp c .flt) s = flt (!nan && decide (f32Key a < f32Key b)) ∧
     exec (.cmp c .fle) s = flt (!nan && decide (f32Key a ≤ f32Key b)) ∧
     exec (.cmp c .fun_) s = flt nan ∧
     exec (.cmp c .fne) s = flt (nan || decide (f32Key a ≠ f32Key b))) ∧
  (∀ (c : CoreId) (s : State) (a b : Word) (rest : List Cell),
     Ready s c = true → cells s c = .val b :: .val a :: rest → rest.length < 8 →
     let done (r : FRes) : Out := .next (retire (raiseCfpf (setCells c (.val r.val :: rest) s) c r.cfpf) c)
     exec (.fadd c) s = done (f32Add a b) ∧ exec (.fmul c) s = done (f32Mul a b) ∧
     (f32IsNaN (f32Add a b).val = true → (f32Add a b).val = 0x7FC00000#32) ∧
     (f32IsNaN (f32Mul a b).val = true → (f32Mul a b).val = 0x7FC00000#32) ∧
     (f32IsSNaN a = true ∨ f32IsSNaN b = true → (f32Add a b).nv = true ∧ (f32Mul a b).nv = true)) ∧
  (∀ n k : Nat,
     2 * (roundShift n k * 2 ^ k) ≤ 2 * n + 2 ^ k ∧ 2 * n ≤ 2 * (roundShift n k * 2 ^ k) + 2 ^ k ∧
     (2 * n = 2 * (roundShift n k * 2 ^ k) + 2 ^ k ∨ 2 * (roundShift n k * 2 ^ k) = 2 * n + 2 ^ k →
       roundShift n k % 2 = 0))

/-- The literals (R192): LIT pushes its 15-bit immediate, sign-extended; EXT replaces the top cell T by (T shl 14) or its
immediate. The stack operations (R196, R182) move cells, pending or not: DUP, DROP, SWAP, OVER, ROT; PICK copies cell k,
counting the cell below k as cell 0. A literal that pairs with the instruction after it, such as ADD, spills nothing even where
8 cells are cached (R176), and the pair leaves what the two would leave one by one; that the pair is found in the commands
waiting is the model's own choice (assumption 47). -/
def Obligations.OperandMoves : Prop :=
  (∀ (c : CoreId) (s : State), Ready s c = true →
     (∀ imm : BitVec 15, (cells s c).length < 8 →
       exec (.lit c imm) s = .next (retire (setCells c (.val (imm.signExtend 32) :: cells s c) s) c)) ∧
     (∀ (imm : BitVec 14) (t : Word) (rest : List Cell), cells s c = .val t :: rest → rest.length < 8 →
       exec (.ext c imm) s = .next (retire (setCells c (.val ((t <<< 14) ||| imm.setWidth 32) :: rest) s) c))) ∧
  (∀ (c : CoreId) (s : State), Ready s c = true →
     let done (xs : List Cell) : Out := .next (retire (setCells c xs s) c)
     (∀ x r, cells s c = x :: r → r.length < 7 → exec (.dup c) s = done (x :: x :: r)) ∧
     (∀ x r, cells s c = x :: r → r.length < 8 → exec (.drop c) s = done r) ∧
     (∀ x y r, cells s c = x :: y :: r → r.length < 7 → exec (.swap c) s = done (y :: x :: r)) ∧
     (∀ x y r, cells s c = x :: y :: r → r.length < 6 → exec (.over c) s = done (y :: x :: y :: r)) ∧
     (∀ x y z r, cells s c = x :: y :: z :: r → r.length < 6 → exec (.rot c) s = done (z :: x :: y :: r)) ∧
     (∀ (k : Word) (x : Cell) r, cells s c = .val k :: r → r[k.toNat]? = some x → r.length < 8 →
       exec (.pick c) s = done (x :: r))) ∧
  (∀ (c : CoreId) (s : State) (l : List Instr) (imm : BitVec 15) (a : Word) (rest : List Cell),
     Ready { s with pending := [] } c = true → s.pending = .add c :: l → Fd.cLoopstDepth.get (getCore s c).loopEff = 0 →
     cells s c = .val a :: rest → rest.length < 8 →
     let led := modCore (retire (setCells c (.val (imm.signExtend 32) :: cells s c) s) c) c (fun k => { k with paired := true })
     exec (.lit c imm) s = .next led ∧ led.mem = s.mem ∧
     (Ready { modCore (setCells c rest led) c (fun k => { k with paired := false }) with pending := [] } c = true →
       ∃ t, exec (.add c) { led with pending := [] } = .next t ∧ cells t c = .val (a + imm.signExtend 32) :: rest ∧
         t.mem = s.mem ∧ (getCore t c).pc = (getCore s c).pc + 4 ∧ (getCore t c).paired = false))

/-- Operands and results beyond the cached cells (R177, R193, R227): with no cell cached, a pop takes the word below the
operand pointer from the stack region and moves the pointer down by 4; an instruction that ends with 9 cells writes the oldest
at the pointer and moves it up by 4; outside the region either one is a BUS error with code 1. The granule of the stack region
reads good. -/
def Obligations.StackRegion : Prop :=
  (∀ (c : CoreId) (s : State), (getCore s c).on = true →
    let k := getCore s c
    let sup := isSup k
    let o := (ccr k (osp sup)).toNat
    (cells s c = [] → stackValid c k sup = true → winBase k (win sup) + 4 ≤ o → clean s (localBase c + (o - 4)) = true →
      ∃ t, pop c s = .ok (memWord s (localBase c + (o - 4)), t) ∧ cells t c = [] ∧
        (ccr (getCore t c) (osp sup)).toNat = o - 4 ∧ t.mem = s.mem) ∧
    (cells s c = [] → (stackValid c k sup = false ∨ o < winBase k (win sup) + 4) →
      ∃ ea, pop c s = .error (.trap 3 1 ea))) ∧
  (∀ (c : CoreId) (s : State) (imm : BitVec 15) (v : Word) (r : List Cell), Ready s c = true → cells s c = r ++ [.val v] →
    r.length = 7 →
    let k := getCore s c
    let sup := isSup k
    let o := (ccr k (osp sup)).toNat
    (stackValid c k sup = true → o + 4 ≤ (ccr k (rsp sup)).toNat → clean s (localBase c + o) = true →
      ∃ t, exec (.lit c imm) s = .next t ∧ cells t c = .val (imm.signExtend 32) :: r ∧ (ccr (getCore t c) (osp sup)).toNat = o + 4 ∧
        memWord t (localBase c + o) = v ∧ SameMemBut (localBase c + o) 4 s t) ∧
    (stackValid c k sup = false ∨ (ccr k (rsp sup)).toNat < o + 4 →
      ∃ ea, exec (.lit c imm) s = .next (enterException s c 3 1 ea k.pc)))

/-- The side-unit operations (R179, R180, R197–R199): with a slot free, the instruction retires with a pending cell, and the
side unit holds the result and the CFPF bits it will raise; DIV and REM by zero give 0 and a with DZ. A side-unit result
arrives (R179, R182): every cell pending on it takes the value, its CFPF bits are raised and its slot is free; memory, control
registers and the other cores keep their values. A pending operand (R182): an instruction that needs its value waits, and
nothing changes. Where the spec is open it follows the model's own readings (assumptions 12 and 15). -/
def Obligations.SideUnits : Prop :=
  (∀ (c : CoreId) (s : State), Ready s c = true → (getCore s c).side.length < 4 →
     let id := (getCore s c).nextId
     let done (rest : List Cell) (r : FRes) : Out := .next (retire (modCore (setCells c (.pend id :: rest) s) c (fun x =>
       { x with side := x.side ++ [⟨id, r.val, r.cfpf⟩], nextId := id + 1 })) c)
     (∀ (a b : Word) (rest : List Cell), cells s c = .val b :: .val a :: rest → rest.length < 8 →
       exec (.div c) s = done rest (if b = 0#32 then ⟨0#32, false, true, false, false⟩
         else ⟨BitVec.ofInt 32 (a.toInt.tdiv b.toInt), false, false, false, false⟩) ∧
       exec (.rem c) s = done rest (if b = 0#32 then ⟨a, false, true, false, false⟩
         else ⟨BitVec.ofInt 32 (a.toInt.tmod b.toInt), false, false, false, false⟩) ∧
       exec (.fdiv c) s = done rest (f32Div a b)) ∧
     (∀ (a : Word) (rest : List Cell), cells s c = .val a :: rest → rest.length < 8 →
       exec (.fsqrt c) s = done rest (f32Sqrt a) ∧ exec (.exp2 c) s = done rest (f32Exp2 a) ∧
       exec (.log2 c) s = done rest (f32Log2 a))) ∧
  (∀ (c : CoreId) (i : Fin 4) (s : State) (o : SideOp), (getCore s c).side[i.val]? = some o → (getCore s c).entry = none →
     ∃ t, exec (.sideUnitResult c i) s = .next t ∧ OnlyCore c s t ∧
       (getCore t c).side = (getCore s c).side.eraseIdx i.val ∧
       (∀ x, x ∈ (getCore t c).user.cells ++ (getCore t c).sup.cells → x ≠ .pend o.id) ∧
       (∀ n : Nat, (getCore s c).user.cells[n]? = some (.pend o.id) → (getCore t c).user.cells[n]? = some (.val o.res)) ∧
       (∀ n : Nat, (getCore s c).sup.cells[n]? = some (.pend o.id) → (getCore t c).sup.cells[n]? = some (.val o.res)) ∧
       ccr (getCore t c) .cfpf = ccr (getCore s c) .cfpf ||| o.fl) ∧
  (∀ (c : CoreId) (s : State) (id : Nat) (rest : List Cell), Ready s c = true → cells s c = .pend id :: rest →
     exec (.add c) s = .next s ∧ exec (.fadd c) s = .next s ∧ exec (.div c) s = .next s ∧ exec (.bz c 0) s = .next s ∧
     exec (.ldf c) s = .next s ∧ exec (.ccrw c) s = .next s ∧ exec (.movn c 0) s = .next s)

/-! ### Limdon: local memory -/

/-- LD and LDB (R202, R123) on a core that may execute. LD pushes the word at addr + 4 × off, LDB the byte at addr + off,
zero-extended, from the SRAM of the core, from the press store at supervisor level, and from the keeper core's ROM. A word
address that is not a multiple of 4 is a misaligned access, the press store at user level a privilege violation, and an address
that nothing decodes a BUS error. One codeword position in error is corrected: the word is the one stored (R281). A
detected-uncorrectable granule (R282) is poisoned: an OPEN tile gets 0, becomes ABORTING with cause UNCORR and goes on; a
curator and the keeper core take BUS with the address, and their cells stand. -/
def Obligations.LocalLoads : Prop :=
  ∀ (c : CoreId) (s : State) (addr : Word) (off : BitVec 10) (rest : List Cell),
     Ready s c = true → cells s c = .val addr :: rest → rest.length < 8 →
     let pc := (getCore s c).pc
     let ew := addr + 4 * off.setWidth 32
     let eb := addr + off.setWidth 32
     let reads (e : Word) (a : Nat) : Prop :=
       localTarget c e.toNat = .sram a ∨ (localTarget c e.toNat = .pstore a ∧ isSup (getCore s c) = true)
     let done (w : Word) : Out := .next (retire (setCells c (.val w :: rest) s) c)
     let bad (i : Instr) (e : Word) (a : Nat) : Prop :=
       (∀ q j, c = .tile q j → (getCore s c).tx.st = .open_ →
         ∃ t, exec i s = .next t ∧ cells t c = .val 0#32 :: rest ∧ (getCore t c).tx.st = .aborting ∧ 6 ∈ (getCore t c).tx.causes ∧
           granule a ∈ t.poison ∧ t.mem = s.mem) ∧
       ((∀ q j, c ≠ .tile q j) → ∃ u, exec i s = .next (enterException u c 3 0 e pc) ∧ cells u c = cells s c ∧
         granule a ∈ u.poison ∧ u.mem = s.mem)
     (∀ a, ew.toNat % 4 = 0 → reads ew a → clean s a = true → exec (.ld c off []) s = done (memWord s a)) ∧
     (∀ a, reads eb a → clean s a = true → exec (.ldb c off []) s = done ((memByte s a).setWidth 32)) ∧
     (∀ a p, ew.toNat % 4 = 0 → reads ew a → clean s a = true → p < 288 →
       ∃ t, exec (.ld c off [p]) s = .next t ∧ cells t c = .val (memWord s a) :: rest ∧ t.mem = s.mem) ∧
     (∀ a err, ew.toNat % 4 = 0 → reads ew a → unreadable s a err = true → bad (.ld c off err) ew a) ∧
     (∀ a err, reads eb a → unreadable s a err = true → bad (.ldb c off err) eb a) ∧
     (∀ a err, ew.toNat % 4 = 0 → localTarget c ew.toNat = .rom a →
       exec (.ld c off err) s = done (Config.rom (a + 3) ++ Config.rom (a + 2) ++ Config.rom (a + 1) ++ Config.rom a)) ∧
     (∀ a err, localTarget c eb.toNat = .rom a → exec (.ldb c off err) s = done ((Config.rom a).setWidth 32)) ∧
     (∀ err, ew.toNat % 4 ≠ 0 → exec (.ld c off err) s = .next (enterException s c 2 0 ew pc)) ∧
     (∀ a err, ew.toNat % 4 = 0 → localTarget c ew.toNat = .pstore a → isSup (getCore s c) = false →
       exec (.ld c off err) s = .next (enterException s c 4 0 ew pc)) ∧
     (∀ a err, localTarget c eb.toNat = .pstore a → isSup (getCore s c) = false →
       exec (.ldb c off err) s = .next (enterException s c 4 0 eb pc)) ∧
     (∀ err, ew.toNat % 4 = 0 → localTarget c ew.toNat = .unpop → exec (.ld c off err) s = .next (enterException s c 3 0 ew pc)) ∧
     (∀ err, localTarget c eb.toNat = .unpop → exec (.ldb c off err) s = .next (enterException s c 3 0 eb pc))

/-- ST and STB (R202, R124) into SRAM outside the ledger window and, at user level, outside the shadow window: ST stores x at
addr + 4 × off, STB its low byte at addr + off; every other byte of memory keeps its value. A ledger store of a tile that
takes part in the running tick (R92, R126): the word is stored, its granule is dirty and waits for write-through, and the
committed copies keep their bytes; after STITCH the store is refused with the spine exception CLOSED. -/
def Obligations.LocalStores : Prop :=
  (∀ (c : CoreId) (s : State) (addr x : Word) (off : BitVec 10) (rest : List Cell),
     Ready s c = true → cells s c = .val addr :: .val x :: rest →
     let k := getCore s c
     let ew := addr + 4 * off.setWidth 32
     let eb := addr + off.setWidth 32
     let free (a : Nat) : Prop := clean s a = true ∧
       (isSup k = true ∨ a - localBase c < winBase k .shwin ∨ winLimit k .shwin ≤ a - localBase c) ∧
       (∀ q j, c = .tile q j → a - localBase c < 0x1C000)
     (∀ a, ew.toNat % 4 = 0 → localTarget c ew.toNat = .sram a → free a →
       ∃ t, exec (.st c off []) s = .next t ∧ t = retire (setBytes (setCells c rest s) a (wordBytes x)) c ∧
         memWord t a = x ∧ SameMemBut a 4 s t) ∧
     (∀ a, localTarget c eb.toNat = .sram a → free a →
       ∃ t, exec (.stb c off []) s = .next t ∧ t = retire (setByte (setCells c rest s) a (x.setWidth 8)) c ∧
         memByte t a = x.setWidth 8 ∧ SameMemBut a 1 s t) ∧
     (∀ err, ew.toNat % 4 ≠ 0 → exec (.st c off err) s = .next (enterException s c 2 0 ew k.pc)) ∧
     (∀ a err, ew.toNat % 4 = 0 → localTarget c ew.toNat = .pstore a → exec (.st c off err) s = .next (enterException s c 4 6 ew k.pc)) ∧
     (∀ a err, localTarget c eb.toNat = .sram a → isSup k = false → winBase k .shwin ≤ a - localBase c →
       a - localBase c < winLimit k .shwin → exec (.stb c off err) s = .next (enterException s c 4 4 eb k.pc))) ∧
  (∀ (q : Fin 64) (j : Fin 17) (s : State) (addr x : Word) (rest : List Cell),
     let c : CoreId := .tile q j
     let k := getCore s c
     let a := localBase c + addr.toNat
     let g := (addr.toNat - 0x1C000) / 32
     Ready s c = true → cells s c = .val addr :: .val x :: rest → isSup k = true → addr.toNat % 4 = 0 →
     0x1C000 ≤ addr.toNat → addr.toNat < 0x20000 → clean s a = true → (getCore s c).tx.wtq.length < 32 →
     (k.tx.closed = false → running s = true → k.tx.part = true →
       ∃ t, exec (.st c 0 []) s = .next t ∧ memWord t a = x ∧ SameMemBut a 4 s t ∧ g ∈ (getCore t c).tx.dirty ∧
         g ∈ (getCore t c).tx.wtq ∧ cells t c = rest) ∧
     (k.tx.closed = true → exec (.st c 0 []) s = .next (enterException s c 7 3 0 k.pc)))

/-- MOVN and FILLN (R213–R215) between SRAM ranges outside the ledger window, with every element free of errors: the words
are copied, or filled, one by one in ascending order; when `k` reaches their number the three cells are popped and the
instruction retires, and when an interrupt or a hold cuts it after `k` elements, or at
the boundary before of a granule that moves in one cycle (R215), the cells show what is left and the pc stands. -/
def Obligations.BlockOperations : Prop :=
  ∀ (c : CoreId) (s : State) (x dst : Word) (n k a b : Nat) (rest : List Cell),
    Ready s c = true → isSup (getCore s c) = true → cells s c = .val (BitVec.ofNat 32 n) :: .val dst :: .val x :: rest →
    rest.length < 6 → n < 2 ^ 20 → dst.toNat % 4 = 0 → dst.toNat + 4 * n < 2 ^ 32 →
    (∀ i, i < n → localTarget c (dst.toNat + 4 * i) = .sram (b + 4 * i) ∧ clean s (b + 4 * i) = true ∧
      (∀ q j, c = .tile q j → dst.toNat + 4 * i < 0x1C000)) →
    let s0 := setCells c rest s
    let left (m : Nat) (y : Word) (t : State) : State :=
      setCells c (.val (BitVec.ofNat 32 (n - m)) :: .val (dst + BitVec.ofNat 32 (4 * m)) :: .val y :: rest) t
    let fill (m : Nat) : State := (List.range m).foldl (fun t i => setBytes t (b + 4 * i) (wordBytes x)) s0
    let move (m : Nat) : State := (List.range m).foldl (fun t i => setBytes t (b + 4 * i) (wordBytes (memWord t (a + 4 * i)))) s0
    (n ≤ k → exec (.filln c k) s = .next (retire (fill n) c)) ∧
    (k < n → let m := blockCut dst (fillWhole dst n) k; exec (.filln c k) s = .next (left m x (fill m))) ∧
    (x.toNat % 4 = 0 → x.toNat + 4 * n < 2 ^ 32 →
      (∀ i, i < n → localTarget c (x.toNat + 4 * i) = .sram (a + 4 * i) ∧ clean s (a + 4 * i) = true) →
      (n ≤ k → exec (.movn c k) s = .next (retire (move n) c)) ∧
      (k < n → let m := blockCut x (movWhole x dst n) k; exec (.movn c k) s = .next (left m (x + BitVec.ofNat 32 (4 * m)) (move m)))) ∧
    (0 < n → x.toNat % 4 ≠ 0 → exec (.movn c k) s = .next (enterException s c 2 0 x (getCore s c).pc))

/-! ### Limdon: flow -/

/-- What retirement does (R211): the core goes on at the next halfword, unless the instruction ends the innermost level and
that level is above FLOOR. Then LC is decremented; where it stays non-zero, execution continues at LS; where it is zero, DEPTH
is decremented, and the level now innermost applies its own test to the same instruction, so that with no level left execution
continues after LE. Nothing but the core changes. -/
def Obligations.LoopEndTest : Prop :=
  ∀ (c : CoreId) (s : State),
    let k := getCore s c
    let d := Fd.cLoopstDepth.get k.loopEff
    let kt := getCore (retire s c) c
    (d ≤ Fd.cLoopstFloor.get k.loopEff ∨ ccr k (.le (d - 1)) ≠ k.pc → kt = { k with pc := k.pc + 2 }) ∧
    (Fd.cLoopstFloor.get k.loopEff < d → ccr k (.le (d - 1)) = k.pc → 1 < (ccr k (.lc (d - 1))).toNat →
      kt.pc = ccr k (.ls (d - 1)) ∧ ccr kt (.lc (d - 1)) = ccr k (.lc (d - 1)) - 1 ∧ kt.loopEff = k.loopEff) ∧
    (Fd.cLoopstFloor.get k.loopEff < d → ccr k (.le (d - 1)) = k.pc → (ccr k (.lc (d - 1))).toNat ≤ 1 →
      kt = getCore (retire (modCore s c (fun x => setDepth (setCcr x (.lc (d - 1)) 0#32) (d - 1))) c) c) ∧
    (d = 1 → Fd.cLoopstFloor.get k.loopEff = 0 → ccr k (.le 0) = k.pc → (ccr k (.lc 0)).toNat ≤ 1 →
      kt.pc = k.pc + 2 ∧ ccr kt (.lc 0) = 0#32 ∧ Fd.cLoopstDepth.get kt.loopEff = 0 ∧ ccrF kt .loopst Fd.cLoopstDepth = 0) ∧
    OnlyCore c s (retire s c)

/-- LOOP (R210): with a length, it pops a count n; n = 0 skips the body and pushes no level, otherwise level DEPTH gets LS,
LE and LC and DEPTH rises by 1. With length 0 it leaves the innermost level. It is an illegal opcode, and changes nothing
else, with a length at DEPTH 4, and with length 0 when DEPTH ≤ FLOOR. -/
def Obligations.LoopInstruction : Prop :=
  ∀ (c : CoreId) (s : State) (len : BitVec 8), Ready s c = true →
    let k := getCore s c
    let d := Fd.cLoopstDepth.get k.loopEff
    let ill : Out := .next (enterException s c 1 0 (0xF500#32 + len.setWidth 32) k.pc)
    (len ≠ 0 → d = 4 → exec (.loop c len) s = ill) ∧
    (len = 0 → d ≤ Fd.cLoopstFloor.get k.loopEff → exec (.loop c len) s = ill) ∧
    (len = 0 → Fd.cLoopstFloor.get k.loopEff < d → exec (.loop c len) s = .next (retire (modCore s c (fun x => setDepth x (d - 1))) c)) ∧
    (∀ rest, len ≠ 0 → d < 4 → cells s c = .val 0#32 :: rest →
      exec (.loop c len) s = .next (retireTo (setCells c rest s) c (k.pc + 2 * len.setWidth 32 + 2))) ∧
    (∀ (n : Word) rest, len ≠ 0 → d < 4 → n ≠ 0#32 → cells s c = .val n :: rest →
      ∃ u, exec (.loop c len) s = .next (retire u c) ∧ OnlyCore c s u ∧ cells u c = rest ∧
        ccr (getCore u c) (.ls d) = k.pc + 2 ∧ ccr (getCore u c) (.le d) = k.pc + 2 * len.setWidth 32 ∧
        ccr (getCore u c) (.lc d) = n ∧ Fd.cLoopstDepth.get (getCore u c).loopEff = d + 1 ∧
        ccrF (getCore u c) .loopst Fd.cLoopstDepth = d + 1 ∧ (getCore u c).pc = k.pc)

/-- Branches and calls (R207, R194): BR goes to the branch's address + 2 + 2 × off; BZ branches when the popped cell is 0 and
BNZ when it is not, and a short backward one of these fills the loop buffer (R185); the indirect forms go to the popped address, and an odd one is a misaligned access with code 1; a call
pushes the address of the next instruction on the return and the shadow stack. RET (R194) pops both stacks and goes to the
return address; with the return-address check in force, two addresses that differ give the shadow-stack mismatch, and the RET
does not retire. -/
def Obligations.BranchesAndReturn : Prop :=
  (∀ (c : CoreId) (s : State) (off : BitVec 11), Ready s c = true →
     let pc := (getCore s c).pc
     let dest := pc + 2 + 2 * off.signExtend 32
     exec (.br c off) s = .next (retireTo s c dest) ∧
     (∀ (f : Word) rest, cells s c = .val f :: rest →
       exec (.bz c off) s = .next (if f = 0#32 then branchTo (setCells c rest s) c dest else retire (setCells c rest s) c) ∧
       exec (.bnz c off) s = .next (if f = 0#32 then retire (setCells c rest s) c else branchTo (setCells c rest s) c dest)) ∧
     (∀ (a : Word) rest, cells s c = .val a :: rest →
       exec (.brInd c) s = .next (if a.getLsbD 0 then enterException s c 2 1 a pc else retireTo (setCells c rest s) c a)) ∧
     ((rets s c).length < 16 → (shadows s c).length < 16 →
       exec (.call c off) s = .next (retireTo (setRets c ((pc + 2) :: rets s c) ((pc + 2) :: shadows s c) s) c dest) ∧
       ∀ (a : Word) rest, cells s c = .val a :: rest →
         exec (.callInd c) s = .next (if a.getLsbD 0 then enterException s c 2 1 a pc
           else retireTo (setRets c ((pc + 2) :: rets s c) ((pc + 2) :: shadows s c) (setCells c rest s)) c a))) ∧
  (∀ (c : CoreId) (s : State) (x y : Word) (rs hs : List Word), Ready s c = true → rets s c = x :: rs → shadows s c = y :: hs →
     exec (.ret c) s = .next (if ccrF (getCore s c) .mode Fd.cModeRachk = 1 ∧ x ≠ y
       then enterException s c 5 0 y (getCore s c).pc else retireTo (setRets c rs hs s) c x))

/-- INTERRUPT_ENTRY and NME_ENTRY (R234, R239, R241) at a core that may execute, with no cell of an interrupted supervisor
bank pending: the tick timer comes before a tile's curator message; with IE clear nothing is taken; a curator's event is taken
whatever IE says, unless NMIP is set. RETI (R233): at supervisor level, with EFP a multiple of 4 inside SWIN, the frame at EFP, whose
words read good, restores the stack pointers, EFP, CSTAT but WORLD, LOOPST and CFPF, the supervisor bank empties, and the core goes on at EPC;
at user level it is a privilege violation. Where the spec is open it follows the model's own readings (assumptions 13 and 21). -/
def Obligations.InterruptsAndReturn : Prop :=
  ((∀ (c : CoreId) (s : State), Ready s c = true → (getCore s c).sup.cells = [] → nmeDue s c = false →
     let k := getCore s c
     (ccrF k .cstat Fd.cCstatIe = 0 → exec (.interruptEntry c) s = .next s) ∧
     (ccrF k .cstat Fd.cCstatIe = 1 → ccrF k .irq Fd.cIrqTtp = 1 → ccrF k .irq Fd.cIrqTten = 1 →
       exec (.interruptEntry c) s = .next (enterException s c 9 0 0 k.pc)) ∧
     (∀ q j, c = .tile q j → ccrF k .cstat Fd.cCstatIe = 1 → ccrF k .irq Fd.cIrqTtp = 0 → ccrF k .irq Fd.cIrqCmp = 1 →
       ccrF k .irq Fd.cIrqCmen = 1 → exec (.interruptEntry c) s = .next (enterException s c 10 0 0 k.pc)) ∧
     (∀ w, c = .curator w → ccrF k .cstat Fd.cCstatIe = 1 → ccrF k .irq Fd.cIrqTtp = 0 →
       curIrq s w &&& reg s (.curIrqen w.num) ≠ 0#32 → exec (.interruptEntry c) s = .next (enterException s c 13 0 0 k.pc))) ∧
   (∀ (w : World) (s : State), Ready s (.curator w) = true → (getCore s (.curator w)).sup.cells = [] →
     let k := getCore s (.curator w)
     (ccrF k .cstat Fd.cCstatNmip = 0 → regF s (.curNme w.num) Fd.curNmeEvent ≠ 0 →
       exec (.nmeEntry (.curator w)) s = .next (enterException s (.curator w) 12 0 0 k.pc)) ∧
     (ccrF k .cstat Fd.cCstatNmip = 1 → exec (.nmeEntry (.curator w)) s = .next s))) ∧
  (∀ (c : CoreId) (s : State), Ready s c = true →
     let k := getCore s c
     let f := (ccr k .efp).toNat
     let w (i : Nat) : Word := memWord s (localBase c + f + 4 * i)
     (∀ i, i < 8 → clean s (localBase c + f + 4 * i) = true) →
     (isSup k = false → exec (.reti c) s = .next (enterException s c 4 0 0 k.pc)) ∧
     (isSup k = true → f % 4 ≠ 0 ∨ f < winBase k .swin ∨ winLimit k .swin ≤ f →
       exec (.reti c) s = .next (enterException s c 3 1 (ccr k .efp) k.pc)) ∧
     (isSup k = true → f % 4 = 0 → winBase k .swin ≤ f → f < winLimit k .swin →
       ∃ t, exec (.reti c) s = .next t ∧ OnlyCore c s t ∧
         let kt := getCore t c
         kt.pc = w 0 ∧ ccr kt .srsp = BitVec.ofNat 32 (f + 32) ∧ ccr kt .sosp = w 7 ∧ ccr kt .shsp = w 4 ∧ ccr kt .efp = w 6 ∧
         ccr kt .cstat &&& 7#32 = w 1 &&& 7#32 ∧ ccr kt .loopst = w 2 &&& 0x3F#32 ∧ ccr kt .cfpf = (w 1 >>> 16) &&& 0xF#32 ∧
         kt.sup = {} ∧ kt.user = k.user))

/-- System control on a core that may execute (R188, R189, R208, R209, R217). SYNC brings every earlier CCRW and the return-address
check of the world into force and retires; IFLUSH retires, and each empties the loop buffer (R185); WFT completes when the start latch is set, clearing it, and otherwise
the core waits at it (that a wait is a state of the core is the model's choice, assumption 13); TRAP takes vector 8 with its code
and the address of the next instruction; a defined illegal opcode takes vector 1 with the opcode. An encoding of the reserved
block (R218) takes one step, to a state that no rule but its bounds fixes (assumption 17): from a state `u` in which memory
outside the core's own SRAM, and in a tile the ledger window and the press store, the other cores, the control registers, the
poison marks, the spine, the transaction, the apertures and the supervisor's windows and vectors are as they were, it retires, or
it takes an exception that is no non-maskable event. -/
def Obligations.SystemInstructions : Prop :=
  (∀ (c : CoreId) (s : State), Ready s c = true →
     let k := getCore s c
     exec (.sync c) s = .next (retire (modCore s c (fun x => { setCcrF x .mode Fd.cModeRachk (rachkOf s c) with stale := [], lbuf := none })) c) ∧
     exec (.iflush c) s = .next (retire (modCore s c (fun x => { x with lbuf := none })) c) ∧
     (k.latch = true → exec (.wft c) s = .next (retire (modCore s c (fun x => { x with latch := false })) c)) ∧
     (k.latch = false → exec (.wft c) s = .next (modCore s c (fun x => { x with wait := .wft }))) ∧
     (∀ code, exec (.trap c code) s = .next (enterException s c 8 code.toNat 0 (k.pc + 2))) ∧
     (∀ op, exec (.definedIllegal c op) s = .next (enterException s c 1 0 (op.setWidth 32) k.pc))) ∧
  (∀ (c : CoreId) (s : State) (op : BitVec 16), Ready s c = true →
     ∃ u t, exec (.reservedBlock c op) s = .next t ∧
       (t = retire u c ∨ ∃ v code ea, 1 ≤ v ∧ v ≤ 8 ∧ t = enterException u c v code ea (getCore u c).pc) ∧
       u.ctl = s.ctl ∧ u.poison = s.poison ∧ u.spine = s.spine ∧
       (∀ d, d ≠ c → getCore u d = getCore s d) ∧ (getCore u c).tx = (getCore s c).tx ∧ (getCore u c).pc = (getCore s c).pc ∧
       (∀ d, d < 8 → ccr (getCore u c) (.apa d) = ccr (getCore s c) (.apa d) ∧ ccr (getCore u c) (.apb d) = ccr (getCore s c) (.apb d) ∧
         ccr (getCore u c) (.apl d) = ccr (getCore s c) (.apl d)) ∧
       ccr (getCore u c) .vbar = ccr (getCore s c) .vbar ∧ ccr (getCore u c) .swin = ccr (getCore s c) .swin ∧
       (∀ a, a < localBase c ∨ localBase c + 0x40000 ≤ a → memByte u a = memByte s a) ∧
       (∀ q j a, c = .tile q j → localBase c + 0x1C000 ≤ a → memByte u a = memByte s a))

/-- TAKING AN EXCEPTION (R229, R232), with the core's memory free of errors, when the checks of R230 pass, on a core whose CCRWs SYNC has
followed (R189), or the entry itself acts as SYNC (R241): the pc goes to the handler the vector word names, LEVEL is
supervisor and IE is clear, ECAUSE and EADDR are written, SRSP and EFP name the frame, whose 8 words stand in order from EPC
to SOSP, FLOOR becomes DEPTH; the user bank stands and an interrupted supervisor bank is written out. A failed entry (R230)
writes nothing and halts the core: with an invalid supervisor stack state, no room for the frame, or a vector word that is 0
or odd. In a tile before the freeze it is a tile fault, and the tick aborts with cause TFAULT (R79, R269); a curator shows
HALTED (R242). Where the spec is open it follows the model's own reading (assumption 15). -/
def Obligations.ExceptionFrame : Prop :=
  (∀ (c : CoreId) (s : State) (vec code : Nat) (ea epc : Word),
     let k := getCore s c
     let b : Bank := if isSup k then k.sup else {}
     let r := (ccr k .srsp).toNat
     let h := (ccr k .shsp).toNat
     let o1 := (ccr k .sosp).toNat + 4 * b.cells.length
     let f := r - 4 * b.rets.length - 32
     let vw := (localWord s c (64 * ccrF k .vbar Fd.cVbarBase + 4 * vec)).1
     k.entry = none → k.paired = false → (k.stale = [] ∨ entrySyncs k = true) →
     (∀ a, localBase c ≤ a → a < localBase c + 0x40000 → clean s a = true) →
     b.cells.any isPend = false → stackValid c k true = true → o1 + 4 * b.rets.length + 32 ≤ r →
     (b.shs = [] ∨ (winBase k .shwin + 4 * b.shs.length ≤ h ∧ h ≤ winLimit k .shwin)) → vw ≠ 0#32 → vw.getLsbD 0 = false →
     let t := enterException s c vec code ea epc
     let kt := getCore t c
     let word (i : Nat) : Word := memWord t (localBase c + f + 4 * i)
     kt.pc = vw ∧ ccrF kt .cstat Fd.cCstatLevel = 1 ∧ ccrF kt .cstat Fd.cCstatIe = 0 ∧
     ccr kt .ecause = BitVec.ofNat 32 (vec + 256 * code) ∧ ccr kt .eaddr = ea ∧
     (ccr kt .srsp).toNat = f ∧ (ccr kt .efp).toNat = f ∧ (ccr kt .sosp).toNat = o1 ∧
     Fd.cLoopstFloor.get (ccr kt .loopst) = Fd.cLoopstDepth.get (ccr k .loopst) ∧
     (vec = 12 → ccrF kt .cstat Fd.cCstatNmip = 1) ∧
     word 0 = epc ∧ word 1 = BitVec.ofNat 32 ((cstatWord s c k).toNat % 16 + 65536 * ((ccr k .cfpf).toNat % 16)) ∧
     word 2 = ccr k .loopst ∧ word 3 = BitVec.ofNat 32 (vec + 256 * code) ∧
     word 4 = BitVec.ofNat 32 (h - 4 * b.shs.length) ∧ word 5 = ea ∧ word 6 = ccr k .efp ∧ word 7 = BitVec.ofNat 32 o1 ∧
     kt.user = k.user ∧ (isSup k = true → kt.sup = {}) ∧ t.ctl = s.ctl ∧ (∀ d, d ≠ c → getCore t d = getCore s d) ∧
     (isSup k = false → SameMemBut (localBase c + f) 32 s t)) ∧
  (∀ (c : CoreId) (s : State) (vec code : Nat) (ea epc : Word),
     let k := getCore s c
     let vw := (localWord s c (64 * ccrF k .vbar Fd.cVbarBase + 4 * vec)).1
     k.entry = none → k.paired = false → (k.stale = [] ∨ entrySyncs k = true) →
     (∀ a, localBase c ≤ a → a < localBase c + 0x40000 → clean s a = true) →
     (isSup k = true → k.sup.cells.any isPend = false) →
     (stackValid c k true = false ∨ (ccr k .srsp).toNat < (ccr k .sosp).toNat + 32 ∨ vw = 0#32 ∨ vw.getLsbD 0 = true) →
     let t := enterException s c vec code ea epc
     t.mem = s.mem ∧ (getCore t c).halted = true ∧ (getCore t c).pc = k.pc ∧
     (∀ q j, c = .tile q j → running s = true → s.tick.frozen = false → k.tx.st = .open_ ∨ k.tx.st = .aborting ∨ k.tx.st = .stitched →
       (getCore t c).tx.st = .stopped ∧ 8 ∈ (getCore t c).tx.causes) ∧
     (∀ w, c = .curator w → regF t (.curStat w.num) Fd.curStatHalted = 1))

/-! ### Limdon: core control registers -/

/-- CCRR (R205): the register the index names is pushed; CSTAT shows the core's world; TICK_LO gives the low half of the tick
and latches the high half; an index that nothing decodes pushes 0 and takes BUS with code 3. CCRW (R205, R4, R216): the fields
that may be written take the value, W1C bits clear where it has ones, read-only fields keep theirs; a user-level write to a
register of supervisor fields alone is a privilege violation, an index that nothing decodes a BUS error with code 3, an index
of 0x40 and above in the keeper core an illegal opcode, and CMEN of IRQ stays 0 in a curator (R6); none of these has an effect of its own. A register that needs a SYNC
keeps its old word beside the new one until then (R189). Where the spec is open it
follows the model's own readings (assumptions 5 and 6). -/
def Obligations.CoreRegisters : Prop :=
  (∀ (c : CoreId) (s : State) (i : Word) (rest : List Cell), Ready s c = true → cells s c = .val i :: rest → rest.length < 8 →
     let k := getCore s c
     let done (w : Word) : Out := .next (retire (setCells c (.val w :: rest) s) c)
     (∀ r, Ccr.decode (i.toNat % 256) = some r →
       r ∉ [Ccr.uosp, .ursp, .sosp, .srsp, .shsp, .cstat, .tickLo, .tickHi, .pipeCnt, .pipeCntp] →
       exec (.ccrr c) s = done (ccr k r)) ∧
     (Ccr.decode (i.toNat % 256) = some .cstat → exec (.ccrr c) s = done (cstatWord s c k)) ∧
     (Ccr.decode (i.toNat % 256) = some .tickHi → exec (.ccrr c) s = done k.tickHi) ∧
     (Ccr.decode (i.toNat % 256) = some .tickLo → ∀ n : BitVec 64,
       n = (match c with | .tile _ _ => k.tick | _ => s.tick.count) →
       ∃ t, exec (.ccrr c) s = .next t ∧ cells t c = .val (n.setWidth 32) :: rest ∧ (getCore t c).tickHi = (n >>> 32).setWidth 32) ∧
     (Ccr.decode (i.toNat % 256) = none →
       k.sup.cells.any isPend = false → exec (.ccrr c) s = .next (enterNow (setCells c (.val 0#32 :: rest) s) c 3 3 (i &&& 0xFF#32) k.pc))) ∧
  (∀ (c : CoreId) (s : State) (i v : Word) (rest : List Cell), Ready s c = true → cells s c = .val i :: .val v :: rest →
     let k := getCore s c
     let n := i.toNat % 256
     (∀ r, Ccr.decode n = some r → (c ≠ .keeper ∨ n < 0x40) → isSup k = true → (pressHeld r = false ∨ pressIdle k = true) →
       exec (.ccrw c) s = .next (retire (modCore (setCells c rest s) c (fun x => noteStale r x (ccrWrite r (ccrValue c r v) x))) c) ∧
       ((∀ w, c ≠ .curator w) ∨ r ≠ .irq → ccrValue c r v = v) ∧
       ∀ d, d ∈ r.fields →
         let new := ccr (ccrWrite r (ccrValue c r v) (getCore (setCells c rest s) c)) r
         (d.acc = .rw → d.fld.get new = d.fld.get (ccrValue c r v) ∧
           (∀ w, c = .curator w → r = .irq → d.fld = Fd.cIrqCmen → d.fld.get new = 0)) ∧ (d.acc = .ro → d.fld.get new = d.fld.get (ccr k r)) ∧
         (d.acc = .w1c → d.fld.get new = d.fld.get (ccr k r &&& ~~~ v))) ∧
     (∀ r, Ccr.decode n = some r → (c ≠ .keeper ∨ n < 0x40) → isSup k = false → ccrDenied r (ccr k r) (ccrValue c r v) = true →
       exec (.ccrw c) s = .next (enterException s c 4 0 (i &&& 0xFF#32) k.pc)) ∧
     (Ccr.decode n = none → (c ≠ .keeper ∨ n < 0x40) → exec (.ccrw c) s = .next (enterException s c 3 3 (i &&& 0xFF#32) k.pc)) ∧
     (c = .keeper → 0x40 ≤ n → exec (.ccrw c) s = .next (enterException s c 1 0 0xF221#32 k.pc)))

/-! ### Limdon: far accesses -/

/-- The checks of a far access (R137, R138, R291), the first that fails deciding: a descriptor that is not valid or does not
reach the offset gives BUS with code 0, a level it does not admit PRIV with code 3, the control space and the flash window
from a tile PRIV with code 2, an archive or a region of the other world PRIV with code 1, a store into a constant region PRIV
with code 5, GDDR7 in no region BUS with code 0, and at last an address that is not a multiple of 4 a misaligned access. Each
leaves the popped cells in place. Where the spec is open it follows the model's own reading (assumption 18). -/
def Obligations.FarChecks : Prop :=
  ∀ (c : CoreId) (s : State) (addr x : Word) (rest : List Cell), Ready s c = true →
    cells s c = .val addr :: .val x :: rest → (getCore s c).tx.closed = false →
    let k := getCore s c
    let d := addr.toNat / 2 ^ 29
    let off := addr.toNat % 2 ^ 29
    let a := (4096 * ccrF k (.apb d) Fd.cApbBase + off) % 2 ^ 40
    let apa := ccr k (.apa d)
    let far (v code : Nat) : Out := .next (enterException s c v code addr k.pc)
    let valid : Prop := Fd.cApaValid.get apa = 1 ∧ off < 4096 * (ccrF k (.apl d) Fd.cAplSize + 1)
    let loads : Prop := (if isSup k then Fd.cApaSr else Fd.cApaUr).get apa = 1
    let stores : Prop := (if isSup k then Fd.cApaSw else Fd.cApaUw).get apa = 1
    (¬valid → exec (.ldf c) s = far 3 0 ∧ exec (.stf c) s = far 3 0) ∧
    (valid → (¬loads → exec (.ldf c) s = far 4 3) ∧ (¬stores → exec (.stf c) s = far 4 3)) ∧
    (valid → ∀ q j, c = .tile q j → 0x0F00000000 ≤ a → a < 0x0F84000000 →
      (loads → exec (.ldf c) s = far 4 2) ∧ (stores → exec (.stf c) s = far 4 2)) ∧
    (valid → 0x0200000000 ≤ a → a < 0x0210000000 → coreWorld s c ≠ some (quireWorld s ((a - 0x0200000000) / 0x400000)) →
      (loads → exec (.ldf c) s = far 4 1) ∧ (stores → exec (.stf c) s = far 4 1)) ∧
    (valid → gddrBase + 0x2000000 ≤ a → a < memTop s → a < 0x0A00000000 →
      (regionOf s a = none → (loads → exec (.ldf c) s = far 3 0) ∧ (stores → exec (.stf c) s = far 3 0)) ∧
      (∀ r, regionOf s a = some r →
        (coreWorld s c ≠ some (regionWorld s r) → (loads → exec (.ldf c) s = far 4 1) ∧ (stores → exec (.stf c) s = far 4 1)) ∧
        (coreWorld s c = some (regionWorld s r) →
          (stores → regLatF s (.memRgnAttr r) Fd.memRgnAttrType = 2 → exec (.stf c) s = far 4 5) ∧
          (loads → addr.toNat % 4 ≠ 0 → exec (.ldf c) s = far 2 0))))

/-- LDF and its reply (R127, R181–R183, R201, R400): a charged load leaves a pending cell and the core goes on; the reply fills
every cell pending on it with the word in memory, that of a ledger from its committed copy. A seventh load waits. From the flash
window the reply is the word programmed, or all ones where nothing is. STF and its acknowledgement (R78, R89, R90, R129, R181,
R201): after STITCH it is a spine exception; a store that leaves the tile is a confirmation point, which checks the press flags
and waits for an empty consumed-from vector; a 33rd store waits; a charged store is posted and the core goes on, and one to a
quire-shared region takes effect as it issues. The acknowledgement of any other writes its word, and nothing else in memory. Where the spec is open it follows the model's own readings (assumptions 18 and 38). -/
def Obligations.FarReplies : Prop :=
  ((∀ (c : CoreId) (s : State) (addr : Word) (rest : List Cell), Ready s c = true → cells s c = .val addr :: rest → rest.length < 8 →
     let k := getCore s c
     let issued (src : LoadSrc) (t : State) : State := retire (modCore (setCells c (.pend k.nextId :: rest) t) c (fun x =>
       { x with loads := x.loads ++ [⟨k.nextId, src⟩], nextId := k.nextId + 1 })) c
     (∀ a arc, aperture s c addr false = .mem a arc → 6 ≤ k.loads.length → exec (.ldf c) s = .next s) ∧
     (∀ a arc t, k.loads.length < 6 → aperture s c addr false = .mem a arc → farCharge c a arc false s = (true, t) →
       exec (.ldf c) s = .next (issued (.far a addr) (setFarHeld c none t))) ∧
     (∀ a arc t, k.loads.length < 6 → aperture s c addr false = .mem a arc → farCharge c a arc false s = (false, t) →
       exec (.ldf c) s = .next t)) ∧
   (∀ (c : CoreId) (i : Fin 6) (s : State) (l : Load) (a : Nat) (ea : Word), (getCore s c).loads[i.val]? = some l → l.src = .far a ea →
     (getCore s c).entry = none →
     let filled (w : Word) : Out := .next (modCore s c (fun x =>
       deliver { x with loads := x.loads.filter (fun y => y.id != l.id) } l.id w))
     (a < gddrBase → clean s (readAddr s a) = true →
       (∀ st ∈ (getCore s c).unack, st.landed = false → granule st.addr = granule a → l.id ≤ st.id) →
       ∀ err2, exec (.ldfReply c i false [] err2) s = filled (memWord s (readAddr s a))) ∧
     (flashBase ≤ a → bankBusy s ((a - flashBase) / 0x2000000) = false → s.flash.undef.contains ((a - flashBase) / 4096) = false →
       granule a ∉ s.poison → (∀ x ∈ s.upsets, x.1 ≠ granule a) →
       exec (.flashRead c i []) s = filled (if granuleBlank s a then 0xFFFFFFFF#32 else memWord s a)))) ∧
  ((∀ (c : CoreId) (s : State) (addr x : Word) (rest : List Cell), Ready s c = true → cells s c = .val addr :: .val x :: rest →
     let k := getCore s c
     (k.tx.closed = true → exec (.stf c) s = .next (enterException s c 7 3 addr k.pc)) ∧
     ∀ a arc, k.tx.closed = false → aperture s c addr true = .mem a arc →
       let leaves : Prop := (∃ q j, c = .tile q j) ∧ ownTarget c a = false
       (leaves → flagsPass k = false → exec (.stf c) s = .next (enterException s c 6 0
         (BitVec.ofNat 32 ((ccr k .prsFlags).toNat % 1024 + 65536 * ((ccr k .prsFen).toNat % 1024))) k.pc)) ∧
       (leaves → flagsPass k = true → k.tx.cons ≠ [] → exec (.stf c) s = .next s) ∧
       (¬leaves ∨ (flagsPass k = true ∧ k.tx.cons = []) → 32 ≤ k.unack.length → exec (.stf c) s = .next s) ∧
       (¬leaves ∨ (flagsPass k = true ∧ k.tx.cons = []) → k.unack.length < 32 → ∀ t, farCharge c a arc true s = (true, t) →
         (archShared a = false → exec (.stf c) s = .next (retire (modCore (setCells c rest (setFarHeld c none t)) c (fun y =>
           { y with unack := y.unack ++ [⟨k.nextId, addr, a, x, false⟩], nextId := k.nextId + 1 })) c)) ∧
         (archShared a = true → clean s a = true → ∃ u, exec (.stf c) s = .next u ∧ memWord u a = x ∧ SameMemBut a 4 s u ∧
           cells u c = rest ∧ (getCore u c).unack = k.unack ++ [⟨k.nextId, addr, a, x, true⟩]))) ∧
   (∀ (c : CoreId) (i : Fin 32) (s : State) (st : FarStore), (getCore s c).unack[i.val]? = some st → st.addr < gddrBase →
     (∀ y ∈ (getCore s c).unack.take i.val, y.landed = false → farDest y.addr ≠ farDest st.addr) → clean s st.addr = true →
     ∀ err2, ∃ t, exec (.stfAcknowledge c i [] err2) s = .next t ∧ (getCore t c).unack = (getCore s c).unack.eraseIdx i.val ∧
       (st.landed = false → memWord t st.addr = st.data ∧ SameMemBut st.addr 4 s t) ∧ (st.landed = true → t.mem = s.mem) ∧
       t.ctl = s.ctl ∧ ∀ d, d ≠ c → getCore t d = getCore s d))

/-! ### The spine instructions -/

/-- The press and spine instructions are a tile's alone (R216): on a curator or the keeper core each is an illegal opcode.
PRESS and PWAIT (R78, R91, R143): an idle press starts at the popped entry, with BUSY set; while a sequence runs PRESS waits,
and PWAIT waits until the press is idle; in precise mode the core stands at the PRESS; after STITCH it is a spine exception.
Where the spec is open it follows the model's own reading (assumption 13). -/
def Obligations.PressStarts : Prop :=
  (∀ (c : CoreId) (s : State), Ready s c = true → (∀ q j, c ≠ .tile q j) →
     let ill (op : Word) : Out := .next (enterException s c 1 0 op (getCore s c).pc)
     exec (.get c) s = ill 0xF208#32 ∧ exec (.put c) s = ill 0xF209#32 ∧ exec (.seal c) s = ill 0xF20A#32 ∧
     exec (.stitch c) s = ill 0xF20B#32 ∧ exec (.press c) s = ill 0xF210#32 ∧ exec (.pwait c) s = ill 0xF211#32) ∧
  (∀ (q : Fin 64) (j : Fin 17) (s : State),
     let c : CoreId := .tile q j
     let k := getCore s c
     Ready s c = true →
     (pressIdle k = true → exec (.pwait c) s = .next (retire s c)) ∧ (pressIdle k = false → exec (.pwait c) s = .next s) ∧
     ∀ (e : Word) (rest : List Cell), cells s c = .val e :: rest →
       (k.tx.closed = true → exec (.press c) s = .next (enterException s c 7 3 0 k.pc)) ∧
       (k.tx.closed = false → ccrF k .prsStat Fd.cPrsStatBusy = 1 → exec (.press c) s = .next s) ∧
       (k.tx.closed = false → ccrF k .prsStat Fd.cPrsStatBusy = 0 → ccrF k .mode Fd.cModePrecise = 0 →
         ∃ t, exec (.press c) s = .next (retire t c) ∧ OnlyCore c s t ∧ cells t c = rest ∧
           ccrF (getCore t c) .prsStat Fd.cPrsStatBusy = 1 ∧ ccrF (getCore t c) .prsStat Fd.cPrsStatNext = e.toNat % 2048) ∧
       (k.tx.closed = false → pressIdle k = true → ccrF k .mode Fd.cModePrecise = 1 →
         ∃ t, exec (.press c) s = .next t ∧ OnlyCore c s t ∧ cells t c = cells s c ∧ (getCore t c).pc = k.pc ∧
           (getCore t c).wait = .press ∧ ccrF (getCore t c) .prsStat Fd.cPrsStatBusy = 1))

/-- GET (R111, R112, R181, R203): an entry that is not active or not the tile's own pushes 0 and is a spine exception with the
entry's number; TRY, CAND and LAST take what is there, and WAIT waits for a value. Its reply fills the cells pending on it and
sets GFLAG; one that fails gives 0 and dooms a tile that is OPEN or ABORTING. Where the spec is open it follows the model's own reading
(assumption 15). -/
def Obligations.SpineGet : Prop :=
  (∀ (q : Fin 64) (j : Fin 17) (s : State) (x : Word) (rest : List Cell),
    let c : CoreId := .tile q j
    Ready s c = true → cells s c = .val x :: rest → rest.length < 8 → (getCore s c).loads.length < 6 →
    let k := getCore s c
    let e := x.toNat % 4096
    let issued (src : LoadSrc) : Out := .next (retire (modCore (setCells c (.pend k.nextId :: rest) s) c (fun y =>
      { y with loads := y.loads ++ [⟨k.nextId, src⟩], nextId := k.nextId + 1 })) c)
    (entryActive s q.val e = false ∨ entryMasked s q.val j.val e = false →
      k.sup.cells.any isPend = false →
      exec (.get c) s = .next (enterNow (setCells c (.val 0#32 :: rest) s) c 7 5 (BitVec.ofNat 32 e) k.pc)) ∧
    (entryActive s q.val e = true → entryMasked s q.val j.val e = true →
      let p := getPlace s q.val e
      (x.toNat / 4096 % 4 = 0 → p.lost = false → p.has = false → exec (.get c) s = issued (.wait e)) ∧
      (x.toNat / 4096 % 4 = 1 → p.lost = false → p.has = false → exec (.get c) s = issued (.word 0 (some 0x4#32) false)) ∧
      (x.toNat / 4096 % 4 ≤ 1 → p.lost = false → p.has = true → p.prov = false →
        exec (.get c) s = issued (.word p.value (some (if p.conc then 1#32 else 0#32)) false)) ∧
      (x.toNat / 4096 % 4 = 1 → p.lost = false → p.has = true → p.prov = true → entryFirm s q.val e = true →
        exec (.get c) s = issued (.word 0 (some 0x4#32) false)) ∧
      (x.toNat / 4096 % 4 = 2 → exec (.get c) s = issued (.word (candidate s (subSlot s q.val e)) (some 0x8#32) false)) ∧
      (x.toNat / 4096 % 4 = 3 → p.hasLast = true →
        exec (.get c) s = issued (.word p.last (some (if p.lastConc then 0x11#32 else 0x10#32)) false)))) ∧
  (∀ (q : Fin 64) (j : Fin 17) (i : Fin 6) (s : State) (l : Load) (w g : Word),
    let c : CoreId := .tile q j
    let k := getCore s c
    k.loads[i.val]? = some l → l.src = .word w (some g) false → k.entry = none →
    exec (.getReply c i false) s = .next (setCore s c (deliver (setCcr { k with loads := k.loads.eraseIdx i.val } .gflag g) l.id w)) ∧
    (k.tx.st = .open_ ∨ k.tx.st = .aborting → exec (.getReply c i true) s = .next (setCore s c
      (deliver (doomUncorr 12 (setCcr { k with loads := k.loads.eraseIdx i.val } .gflag g)) l.id 0))))

/-- PUT (R83, R86, R118, R204): the first of CLOSED, ABORTING, NOTOWNER and SEALED that holds is a spine exception with the
slot's number; otherwise the value is published provisional at the tile's depth, follows the quire's earlier messages, and
freezes the tile. A full queue waits. Where the spec is open it follows the model's own readings (assumptions 7 and 26). -/
def Obligations.SpinePut : Prop :=
  ∀ (q : Fin 64) (j : Fin 17) (s : State) (a x : Word) (rest : List Cell),
    let c : CoreId := .tile q j
    Ready s c = true → cells s c = .val a :: .val x :: rest →
    let k := getCore s c
    let slot := a.toNat % 65536
    let own := Fd.spnSlotcfgType.get (slotCfg s slot) = 1 ∧ ownerTile (slotCfg s slot) = consIndex s q.val j.val
    let sealed_ : Prop := ∃ p, k.tx.pubs.find? (fun e => e.1 == slot) = some (slot, p) ∧ p.sealed_ = true
    let spine (code : Nat) : Out := .next (enterException s c 7 code (BitVec.ofNat 32 slot) k.pc)
    (k.tx.closed = true → exec (.put c) s = spine 3) ∧
    (k.tx.closed = false → k.tx.st = .aborting → exec (.put c) s = spine 4) ∧
    (k.tx.closed = false → k.tx.st ≠ .aborting → ¬own → exec (.put c) s = spine 1) ∧
    (k.tx.closed = false → k.tx.st ≠ .aborting → own → sealed_ → exec (.put c) s = spine 2) ∧
    (k.tx.closed = false → k.tx.st ≠ .aborting → own → ¬sealed_ → pubSpent s q.val j.val k = false →
      (64 ≤ queueLen s q.val → exec (.put c) s = .next s) ∧
      (queueLen s q.val < 64 → ∃ t, exec (.put c) s = .next (retire t c) ∧ cells t c = rest ∧
        (getCore t c).tx.frozen = true ∧ (getCore t c).tx.pub = k.tx.pub + 1 ∧ (getCore t c).tx.depth = k.tx.depth ∧
        SMap.get (getCore t c).tx.pubs slot ⟨0, false, true⟩ = ⟨x, a.getLsbD 16, false⟩ ∧
        injLog t q.val = injLog s q.val ++ [⟨slot, x, a.getLsbD 16, true, false, k.tx.depth, consIndex s q.val j.val,
          slotWorld s slot, slotXw s slot, s.tick.count.getLsbD 0⟩] ∧
        (∀ i, i ≠ q.val → injLog t i = injLog s i) ∧ t.mem = s.mem ∧ t.ctl = s.ctl ∧ ∀ d, d ≠ c → getCore t d = getCore s d))

/-- SEAL and its completion (R85, R87, R90, R118). SEAL after STITCH and SEAL while ABORTING are spine exceptions, an enabled press
flag that is set is an arithmetic exception; with nothing consumed unsealed and room in the quire's queue, everything the tile
has published is sealed with its values as they are, its depth is 0 and thaws, its bit leaves every consumed-from vector, the
SEAL message follows its values, and memory, control registers and poison marks stand; otherwise the core stands at it. A SEAL
that stands so completes when both conditions hold, before the freeze; that one which stood before its tile became ABORTING
completes too, and that the SEAL command names the tile it completes for, are the model's own choices (assumptions 13, 24). -/
def Obligations.SpineSeal : Prop :=
  ∀ (q : Fin 64) (j : Fin 17) (s : State),
    let c : CoreId := .tile q j
    let k := getCore s c
    let i := consIndex s q.val j.val
    let sealed_ (t : State) : Prop := (∀ e ∈ (getCore t c).tx.pubs, e.2.sealed_ = true) ∧
      (getCore t c).tx.pubs.map (fun e => (e.1, e.2.value)) = k.tx.pubs.map (fun e => (e.1, e.2.value)) ∧
      (getCore t c).tx.depth = 0 ∧ (getCore t c).tx.frozen = false ∧ (∀ d, i ∉ (getCore t d).tx.cons) ∧
      injLog t q.val = injLog s q.val ++ [⟨0, 0, false, false, true, 0, i, quireWorld s q.val, false, s.tick.count.getLsbD 0⟩] ∧
      t.mem = s.mem ∧ t.ctl = s.ctl ∧ t.poison = s.poison
    (Ready s c = true → k.tx.closed = false → k.tx.st ≠ .aborting → flagsPass k = true → k.tx.cons = [] → queueLen s q.val < 64 →
      ∃ t, exec (.seal c) s = .next (retire t c) ∧ sealed_ t) ∧
    (Ready s c = true → k.tx.closed = false → k.tx.st ≠ .aborting → flagsPass k = true → (k.tx.cons ≠ [] ∨ 64 ≤ queueLen s q.val) →
      exec (.seal c) s = .next (setCore s c { k with wait := .seal })) ∧
    (Ready s c = true → k.tx.closed = true → exec (.seal c) s = .next (enterException s c 7 3 0 k.pc)) ∧
    (Ready s c = true → k.tx.closed = false → k.tx.st = .aborting → exec (.seal c) s = .next (enterException s c 7 4 0 k.pc)) ∧
    (Ready s c = true → k.tx.closed = false → k.tx.st ≠ .aborting → flagsPass k = false → exec (.seal c) s = .next (enterException s c 6 0
      (BitVec.ofNat 32 ((ccr k .prsFlags).toNat % 1024 + 65536 * ((ccr k .prsFen).toNat % 1024))) k.pc)) ∧
    (k.wait = .seal → k.on = true → k.halted = false → s.tick.frozen = false → flagsPass k = true → k.tx.cons = [] →
      queueLen s q.val < 64 → k.tx.st ≠ .stopped → k.tx.hold = false →
      ∃ t, exec (.sealComplete c) s = .next (retire t c) ∧ sealed_ t ∧ (getCore t c).wait = .none)

/-- STITCH and its completion (R77, R78, R90). With the press idle and every far store acknowledged, a cell of 0 makes an OPEN tile
STITCHED, any other makes it ABORTING with cause SELF and the cell's low 8 bits as its self code, and an ABORTING tile stays as it
is whatever the cell; in each case the tile is closed and its cell popped, and a further STITCH is a spine exception. A commit
request with an enabled press flag set is an arithmetic exception. Otherwise the core stands at it, and completes when both
conditions hold (R77). Where the spec is open it follows the model's own readings (assumptions 13 and 25). -/
def Obligations.SpineStitch : Prop :=
  ∀ (q : Fin 64) (j : Fin 17) (s : State) (x : Word) (rest : List Cell),
    let c : CoreId := .tile q j
    let k := getCore s c
    cells s c = .val x :: rest →
    let ends (f : Instr) : Prop := ∃ t, exec f s = .next (retire t c) ∧ OnlyCore c s t ∧ cells t c = rest ∧
      (getCore t c).wait = .none ∧ (getCore t c).pc = k.pc ∧
      (k.tx.st = .open_ → x = 0 → (getCore t c).tx = { k.tx with st := .stitched, closed := true }) ∧
      (k.tx.st = .open_ → x ≠ 0 →
        (getCore t c).tx = { k.tx with st := .aborting, closed := true, causes := NSet.add k.tx.causes 2, self := x.toNat % 256 }) ∧
      (k.tx.st = .aborting → (getCore t c).tx = { k.tx with closed := true })
    let may : Prop := k.tx.closed = false ∧ (k.tx.st = .open_ ∧ (x ≠ 0 ∨ flagsPass k = true) ∨ k.tx.st = .aborting)
    (Ready s c = true → may → pressIdle k = true → k.unack = [] → ends (.stitch c)) ∧
    (Ready s c = true → may → (pressIdle k = false ∨ k.unack ≠ []) → exec (.stitch c) s = .next (setCore s c { k with wait := .stitch })) ∧
    (Ready s c = true → k.tx.closed = true → exec (.stitch c) s = .next (enterException s c 7 3 0 k.pc)) ∧
    (Ready s c = true → k.tx.closed = false → k.tx.st = .open_ → x = 0 → flagsPass k = false →
      exec (.stitch c) s = .next (enterException s c 6 0
        (BitVec.ofNat 32 ((ccr k .prsFlags).toNat % 1024 + 65536 * ((ccr k .prsFen).toNat % 1024))) k.pc)) ∧
    (k.wait = .stitch → canRun (setCore s c { k with wait := .none }) c = true → may → pressIdle k = true → k.unack = [] →
      ends (.stitchComplete c))

/-! ### The press -/

/-- The lane operations on vector registers (R153, R157, R158): in every enabled lane the destination takes the result of the
two sources of that lane, and nothing else of the press, of memory or of any other core changes; the microword is in flight
with the flags that its lanes raise. The accumulator operations (R146–R150, R157): MAC, MSUB and ACCA add the exact product to
the named accumulator of every enabled lane; CLR clears it and CLRA all of the lane's; RD and RDC give its readout to the
destination, and RDC clears it; REDUCE adds all sixteen lanes into lane 0 and clears the others. Every other accumulator keeps
its value. Where the spec is open it follows the model's own reading (assumption 16). -/
def Obligations.PressArithmetic : Prop :=
  (∀ (q : Fin 64) (j : Fin 17) (s : State) (u : Uword),
     let c : CoreId := .tile q j
     let k := getCore s c
     let n := ccrF k .prsStat Fd.cPrsStatNext
     pressAt s q.val j.val u = true → 3 ≤ u.srca → u.srca ≤ 6 → 3 ≤ u.srcb → u.srcb ≤ 6 → 2 ≤ u.dst → u.dst ≤ 5 →
     let on (l : Nat) : Bool := u.lmask / 2 ^ l % 2 == 1
     let does (i : Instr) (op : Nat) (f : Word → Word → FRes) : Prop := u.op = op →
       ∃ t, exec i s = .next t ∧ OnlyCore c s t ∧ (getCore t c).press.acc = k.press.acc ∧
         (∀ r l, r < 4 → l < 16 → vreg (getCore t c) r l =
           if r = u.dst - 2 ∧ on l = true then (f (vreg k (u.srca - 3) l) (vreg k (u.srcb - 3) l)).val else vreg k r l) ∧
         (getCore t c).press.flight = k.press.flight ++ [⟨n, ((List.range 16).filter on).foldl
           (fun w l => w ||| (f (vreg k (u.srca - 3) l) (vreg k (u.srcb - 3) l)).pflags) 0#32, []⟩]
     let one (g : Word → Word) (a _b : Word) : FRes := ⟨g a, false, false, false, false⟩
     does (.uVadd q j []) 0x10 f32Add ∧ does (.uVsub q j []) 0x11 f32Sub ∧ does (.uVmul q j []) 0x12 f32Mul ∧
     does (.uVmin q j []) 0x13 (f32MinMax false) ∧ does (.uVmax q j []) 0x14 (f32MinMax true) ∧
     does (.uVmov q j []) 0x15 (one id) ∧ does (.uVneg q j []) 0x16 (one (· ^^^ 0x80000000#32)) ∧
     does (.uVabs q j []) 0x17 (one (· &&& 0x7FFFFFFF#32))) ∧
  (∀ (q : Fin 64) (j : Fin 17) (s : State) (u : Uword),
     let c : CoreId := .tile q j
     let k := getCore s c
     pressAt s q.val j.val u = true → 3 ≤ u.srca → u.srca ≤ 6 → 3 ≤ u.srcb → u.srcb ≤ 6 → 2 ≤ u.dst → u.dst ≤ 5 →
     let on (l : Nat) : Bool := u.lmask / 2 ^ l % 2 == 1
     let va (l : Nat) := vreg k (u.srca - 3) l
     let vb (l : Nat) := vreg k (u.srcb - 3) l
     let does (i : Instr) (op : Nat) (f : Nat → Nat → Accum) : Prop := u.op = op →
       ∃ t, exec i s = .next t ∧ OnlyCore c s t ∧ (∀ l a, l < 16 → a < 8 → getAcc (getCore t c) l a = f l a) ∧
         ((op = 6 ∨ op = 7) ∧ (u.rmode = 1 ∨ u.rmode = 2) → ∀ r l, r < 4 → l < 16 → vreg (getCore t c) r l =
           if r = u.dst - 2 ∧ on l = true then
             ((readout u (ccr k .prsDkey + BitVec.ofNat 32 (16 * u.acc + l)) k.tick (getAcc k l u.acc)).1).getD 0 else vreg k r l) ∧
         (op ≠ 6 → op ≠ 7 → (getCore t c).press.v = k.press.v)
     let at_ (l a : Nat) (x : Accum) : Accum := if a = u.acc ∧ on l = true then x else getAcc k l a
     does (.uMac q j []) 1 (fun l a => at_ l a ((getAcc k l a).mac (va l) (vb l)).1) ∧
     does (.uMsub q j []) 2 (fun l a => at_ l a ((getAcc k l a).mac (va l ^^^ 0x80000000#32) (vb l)).1) ∧
     does (.uAcca q j []) 3 (fun l a => at_ l a ((getAcc k l a).mac (va l) 0x3F800000#32).1) ∧
     does (.uClr q j []) 4 (fun l a => at_ l a {}) ∧
     does (.uClra q j []) 5 (fun l a => if on l = true then {} else getAcc k l a) ∧
     does (.uRd q j []) 6 (getAcc k) ∧
     does (.uRdc q j []) 7 (fun l a => at_ l a {}) ∧
     ((∀ l, l < 16 → (getAcc k l u.acc).inv = false ∧ (getAcc k l u.acc).clip = false) →
       does (.uReduce q j []) 8 (fun l a => if a ≠ u.acc then getAcc k l a else if l = 0
         then ⟨(List.range 16).foldl (fun e i => e + (getAcc k i u.acc).e) 0, false, false⟩ else {})))

/-- SPILL, FILL and MERGE of lane 0 between an accumulator and its 16-word image in SRAM (R149): SPILL writes the image of the
accumulator, and no other of its 64 bytes' neighbours changes; FILL gives the accumulator `y` whose image stands in memory, whatever
it held before, and MERGE the sum of what it held and `y`; every other accumulator keeps its value. Where the spec is open it follows
the model's own reading (assumption 16). -/
def Obligations.PressImages : Prop :=
  ∀ (q : Fin 64) (j : Fin 17) (s : State) (u : Uword),
    let c : CoreId := .tile q j
    let k := getCore s c
    pressAt s q.val j.val u = true → u.lmask = 1 → u.dst = 0 →
    let out := tileBase q.val j.val + 4 * agIndex k 2 0
    let inp := tileBase q.val j.val + 4 * agIndex k 0 0
    let good (a : Nat) : Prop := ∀ g, a ≤ g + 31 → g < a + 64 → clean s g = true
    let x := getAcc k 0 u.acc
    let image (y : Accum) (i : Nat) : Word := if i < 8 then BitVec.ofNat 32 (y.e.toNat / 2 ^ (32 * i)) else if i = 8
      then BitVec.ofNat 32 (y.e.toNat / 2 ^ 256 + (if y.inv then 65536 else 0) + (if y.clip then 131072 else 0)) else 0
    (u.op = 9 → agIndex k 2 0 + 16 ≤ 0x7000 → good out →
      ∃ t, exec (.uSpill q j []) s = .next t ∧ (∀ i, i < 16 → memWord t (out + 4 * i) = image x i) ∧ SameMemBut out 64 s t ∧
        (getCore t c).press.acc = k.press.acc ∧ t.ctl = s.ctl ∧ ∀ d, d ≠ c → getCore t d = getCore s d) ∧
    (agIndex k 0 0 + 16 ≤ 0x8000 → good inp → ∀ y : Accum, (∀ i, i < 9 → memWord s (inp + 4 * i) = image y i) →
      (u.op = 10 → ∃ t, exec (.uFill q j []) s = .next t ∧ OnlyCore c s t ∧ ∀ l a, l < 16 → a < 8 →
        getAcc (getCore t c) l a = if l = 0 ∧ a = u.acc then y else getAcc k l a) ∧
      (u.op = 11 → ∃ t, exec (.uMerge q j []) s = .next t ∧ OnlyCore c s t ∧ ∀ l a, l < 16 → a < 8 →
        getAcc (getCore t c) l a = if l = 0 ∧ a = u.acc then x.merge y else getAcc k l a))

/-- The complex operations on vector registers (R154, R155): CMUL multiplies the pairs of enabled even lanes, each of the four
products rounded and then the difference and the sum; BFLY4 and BFLY4I transform the four complex values of each half. Where
the spec is open it follows the model's own reading (assumption 16). -/
def Obligations.PressComplex : Prop :=
  ∀ (q : Fin 64) (j : Fin 17) (s : State) (u : Uword),
    let c : CoreId := .tile q j
    let k := getCore s c
    pressAt s q.val j.val u = true → 3 ≤ u.srca → u.srca ≤ 6 → 3 ≤ u.srcb → u.srcb ≤ 6 → 2 ≤ u.dst → u.dst ≤ 5 →
    let va (l : Nat) := vreg k (u.srca - 3) l
    let vb (l : Nat) := vreg k (u.srcb - 3) l
    let does (i : Instr) (op : Nat) (f : Nat → Word) : Prop := u.op = op →
      ∃ t, exec i s = .next t ∧ OnlyCore c s t ∧ (getCore t c).press.acc = k.press.acc ∧
        ∀ r l, r < 4 → l < 16 → vreg (getCore t c) r l = if r = u.dst - 2 then f l else vreg k r l
    let half (inverse : Bool) (g : Nat) : List (Word × Word) :=
      (bfly inverse (va g, va (g + 1)) (va (g + 2), va (g + 3)) (va (g + 4), va (g + 5)) (va (g + 6), va (g + 7))
        (vb (g + 2), vb (g + 3)) (vb (g + 4), vb (g + 5)) (vb (g + 6), vb (g + 7))).1
    let part (l : Nat) (p : Word × Word) : Word := if l % 2 = 0 then p.1 else p.2
    does (.uCmul q j []) 0x18 (fun l =>
      let e := l / 2 * 2
      if u.lmask / 2 ^ e % 2 = 0 then vreg k (u.dst - 2) l
      else if l % 2 = 0 then (f32Sub (f32Mul (va e) (vb e)).val (f32Mul (va (e + 1)) (vb (e + 1))).val).val
      else (f32Add (f32Mul (va e) (vb (e + 1))).val (f32Mul (va (e + 1)) (vb e)).val).val) ∧
    does (.uBfly4 q j []) 0x19 (fun l => part l (((half false (l / 8 * 8))[l % 8 / 2]?).getD (0, 0))) ∧
    does (.uBfly4i q j []) 0x1A (fun l => part l (((half true (l / 8 * 8))[l % 8 / 2]?).getD (0, 0)))

/-- The sequence and the microword's end (R143, R157, R161, R162). A NOP microword that issues counts one PIS, joins the
microwords in flight, and leaves NEXT at its branch target where it branches (BCOND 1 or 3; BCOND 4 with CF bit WARG set) and
else at the next address; FIN clears BUSY. A reserved OP ends the sequence with ILL. The write-back of the oldest microword in
flight sets its flags, where the core does not wait for it (the precise PRESS). A wait that does not hold shows WAITING; the
timeout issues the microword with WTO, the timer condition without. That a command issues, writes back and times out is the
model's reading (assumptions 13 and 16). -/
def Obligations.PressSequence : Prop :=
  (∀ (q : Fin 64) (j : Fin 17) (s : State) (u : Uword),
    let c : CoreId := .tile q j
    let k := getCore s c
    let n := ccrF k .prsStat Fd.cPrsStatNext
    pressAt s q.val j.val u = true →
    (u.op = 0 → u.lcmd = 0 → u.ag0 = 0 → u.ag1 = 0 → u.ag2 = 0 →
      ∃ t, exec (.uNop q j []) s = .next t ∧ OnlyCore c s t ∧
        (getCore t c).press = { k.press with flight := k.press.flight ++ [⟨n, 0, []⟩] } ∧ (getCore t c).tx = { k.tx with pis := k.tx.pis + 1 } ∧
        ccrF (getCore t c) .prsStat Fd.cPrsStatNext = (if u.bcond = 1 ∨ u.bcond = 3 ∨
          (u.bcond = 4 ∧ ccrF k .prsCf Fd.cPrsCfCf / 2 ^ (u.warg % 4) % 2 = 1) then u.btgt else n + 1) ∧
        ccrF (getCore t c) .prsStat Fd.cPrsStatBusy = (if u.fin then 0 else 1)) ∧
    (opDefined u.op = false → ∃ t, exec (.uReservedOp q j []) s = .next t ∧ OnlyCore c s t ∧
      ccrF (getCore t c) .prsStat Fd.cPrsStatBusy = 0 ∧ ccrF (getCore t c) .prsStat Fd.cPrsStatNext = n ∧
      (getCore t c).press = { k.press with flight := k.press.flight ++ [⟨n, PFlag.when .ill true, []⟩] })) ∧
  (∀ (q : Fin 64) (j : Fin 17) (s : State) (u : Uop) (rest : List Uop),
    let c : CoreId := .tile q j
    let k := getCore s c
    k.press.flight = u :: rest → k.wait ≠ .press → u.deps = [] →
    ∃ t, exec (.microwordWriteback q j) s = .next t ∧ OnlyCore c s t ∧
      ccr (getCore t c) .prsFlags = ccr k .prsFlags ||| u.flags ∧ (getCore t c).press = { k.press with flight := rest } ∧
      (getCore t c).tx = k.tx) ∧
  (∀ (q : Fin 64) (j : Fin 17) (s : State),
    let c : CoreId := .tile q j
    let k := getCore s c
    let n := ccrF k .prsStat Fd.cPrsStatNext
    let u := fetchUword s q.val j.val n
    pressRuns s q.val k = true → opDefined u.op = true → pisSpent s q.val j.val k = false → pressLedgerFull s k u = false →
    clean s (tileBase q.val j.val + 0x20000 + 16 * n) = true → waitHolds s q.val j.val k u = false →
    (u.op = 0 → exec (.uNop q j []) s = .next (modCore s c (fun k => setCcrF k .prsStat Fd.cPrsStatWaiting 1))) ∧
    (u.tmo ≠ 0 → exec (.pressWaitTimeout q j []) s = .next (issueNow s q.val j.val n u true)) ∧
    (u.wait = 5 → exec (.pressTimerCondition q j []) s = .next (issueNow s q.val j.val n u false)) ∧
    ∃ fl d, (getCore (issueNow s q.val j.val n u true) c).press.flight = k.press.flight ++ [⟨n, fl, d⟩] ∧
      fl &&& PFlag.when .wto true = PFlag.when .wto true)

/-! ### The tick -/

/-- A tick starts when both GO bits stand (R63, R65): RUN sets, and the count is TCK_INIT, or n + 1 after an earlier tick; no
tick starts while one of the bits is clear. A tick edge (R54, R57, R61, R62): the count rises by 1 modulo 2^64, the period's
length follows the residue of the tick rate, and budgets, messages and the phases of the tick start anew. The final edge (R66):
RUN and the GO and STOP bits clear and the count stays. A curator sets or clears only its own GO and STOP bits. That one command
is the whole edge, and the steering the loop asks for an operand of it, are the model's own choices (assumptions 23 and 24). -/
def Obligations.TickStartAndStop : Prop :=
  (∀ (s : State) (media : BitVec 64) (hush : BitVec 4), running s = false → s.power.up = true → s.budget.held = [] →
     (goBits s = false → exec (.tickStart media hush) s = .next s) ∧
     (goBits s = true → regF s .tckSrc Fd.tckSrcActive ≠ 2 →
       ∃ t, exec (.tickStart media hush) s = .next t ∧ running t = true ∧ t.tick.ran = true ∧
         t.tick.count = (if s.tick.ran = true then s.tick.count + 1 else (reg s .tckInitHi) ++ (reg s .tckInitLo)) ∧
         t.tick.deckle = false ∧ t.tick.frozen = false ∧ t.tick.started = [] ∧ t.budget = {} ∧ (∀ i, i < 64 → injLog t i = []) ∧
         (∀ j q, (getCore t (tileId q j)).tx.part = false))) ∧
  (∀ (s : State) (hush : BitVec 4) (pherr : Word) (wish : BitVec 16), running s = true → s.tick.frozen = true → s.tick.last = false →
    s.budget.held = [] →
    ∃ t, exec (.tickEdge hush pherr wish) s = .next t ∧ t.tick.count = s.tick.count + 1 ∧ running t = true ∧
      (let (n, p, m) := rateTable (rate s)
       (s.tick.resid + p < m → t.tick.period = n ∧ t.tick.resid = s.tick.resid + p) ∧
       (m ≤ s.tick.resid + p → t.tick.period = n + 1 ∧ t.tick.resid = s.tick.resid + p - m)) ∧
      t.tick.deckle = false ∧ t.tick.frozen = false ∧ t.tick.deadline = false ∧ t.tick.started = [] ∧ t.budget = {} ∧
      (∀ i, i < 64 → injLog t i = []) ∧ (∀ q j : Nat, (getCore t (tileId q j)).tx.part = false)) ∧
  ((∀ s : State, running s = true → s.tick.frozen = true → s.tick.last = true → s.budget.held = [] →
     ∃ t, exec .finalEdge s = .next t ∧ running t = false ∧ goBits t = false ∧ stopBits t = false ∧ t.tick.count = s.tick.count ∧
       t.tick.frozen = false ∧ t.tick.last = false ∧ t.tick.cycle = 0 ∧ t.tick.started = [] ∧ t.stage.frameDue = true) ∧
   (∀ (s : State) (b : Bool), running s = false → reaches s (.cur .prg) (Creg.addr .tckCtl) = true →
     reaches s (.cur .grd) (Creg.addr .tckCtl) = true →
     ∃ t u v x, exec (.tckGo .prg b) s = .next t ∧ exec (.tckGo .grd b) s = .next u ∧ exec (.tckStop .prg b) s = .next v ∧
       exec (.tckStop .grd b) s = .next x ∧
       reg t .tckCtl = Fd.tckCtlGoPrg.putN (reg s .tckCtl) (if b then 1 else 0) ∧
       reg u .tckCtl = Fd.tckCtlGoGrd.putN (reg s .tckCtl) (if b then 1 else 0) ∧
       reg v .tckCtl = Fd.tckCtlStopPrg.putN (reg s .tckCtl) (if b then 1 else 0) ∧
       reg x .tckCtl = Fd.tckCtlStopGrd.putN (reg s .tckCtl) (if b then 1 else 0) ∧
       SameCtl [.tckCtl] s t ∧ SameCtl [.tckCtl] s u ∧ t.mem = s.mem ∧ t.cores = s.cores))

/-- The phases of a tick (R58, R62, R76, R95, R79, R81, R234): a quire start, in the order of quire numbers and before the ingress
deadline, opens the transaction of each position in service, with its TSTAT, the press flags of the last tick in PRS_FLAGP and
none of its own, and sets its start latch; the deckle, after the deadline, stops an OPEN tile with cause DECKLE, or FARHELD where
a far access of it waits for a takeover, and holds any other; a cycle folio that ends before the deckle stops or holds its tile
with cause BUDGET, but no core that is clock-gated in WFT; the tick timer sets TTP. That each phase is one command is the model's
own choice (assumptions 10 and 24). -/
def Obligations.TickPhases : Prop :=
  (∀ (q : Fin 64) (j : Fin 17) (s : State), running s = true → s.tick.deadline = false → s.tick.deckle = false →
    (∀ n ∈ s.tick.started, n < q.val) → startsDue (fun n => decide (n < q.val)) s = false →
    let c : CoreId := .tile q j
    let k := getCore s c
    k.tx.ready = true → inService s q.val j.val = true → k.on = true → k.halted = false → k.wait = .none →
    (k.tx.st = .stitched ∨ k.tx.st = .aborting ∨ k.tx.st = .idle) → k.doomNext = false → k.tx.restore = [] → s.poison = [] →
    ∃ t, exec (.quireStart q) s = .next t ∧ q.val ∈ t.tick.started ∧ t.ctl = s.ctl ∧
      (getCore t c).tx = { st := .open_, part := true, ready := true, verdict := k.tx.verdict, since := 16 * q.val } ∧
      (getCore t c).latch = true ∧
      (getCore t c).pc = k.pc ∧ ccr (getCore t c) .tstat = k.tx.verdict ∧ ccr (getCore t c) .prsFlags = 0 ∧
      ccr (getCore t c) .prsFlagp = ccr k .prsFlags ∧ (getCore t c).tick = s.tick.count) ∧
  (∀ s : State, running s = true → s.tick.deckle = false → s.tick.deadline = true →
    ∃ t, exec .deckle s = .next t ∧ t.tick.deckle = true ∧ t.ctl = s.ctl ∧ t.mem = s.mem ∧
      ∀ q j, let k := getCore s (.tile q j)
        let kt := getCore t (.tile q j)
        (k.tx.part = false → kt = k) ∧
        (k.tx.part = true → k.tx.st = .open_ → kt.tx.st = .stopped ∧ kt.loads = [] ∧ kt.side = [] ∧
          kt.tx.causes = NSet.add k.tx.causes (if k.tx.farHeld.isSome then 7 else 1)) ∧
        (k.tx.part = true → k.tx.st = .stitched ∨ k.tx.st = .aborting → kt.tx.hold = true ∧ kt.tx.st = k.tx.st ∧ kt.tx.causes = k.tx.causes)) ∧
  (∀ (q : Fin 64) (j : Fin 17) (s : State), running s = true → s.tick.deckle = false → q.val ∈ s.tick.started →
    let c : CoreId := .tile q j
    let k := getCore s c
    let cyc := regLatF s (.bdgTfolA (folioIndex s q.val j.val)) Fd.bdgTfolACyc
    k.tx.part = true → cyc ≠ 0xFFFF → k.tx.since + cyc + 640 < s.tick.period →
    (k.wait = .wft → exec (.cycleFolioExhausted q j) s = .next s) ∧
    (k.wait ≠ .wft → ∃ t, exec (.cycleFolioExhausted q j) s = .next t ∧ OnlyCore c s t ∧
      (k.tx.st = .open_ → (getCore t c).tx.st = .stopped ∧ (getCore t c).tx.causes = NSet.add k.tx.causes 3) ∧
      (k.tx.st = .stitched ∨ k.tx.st = .aborting → (getCore t c).tx = { k.tx with hold := true }))) ∧
  (∀ (c : CoreId) (s : State), running s = true → ccrF (getCore s c) .irq Fd.cIrqTten = 1 →
    ccrF (getCore s c) .irq Fd.cIrqTtcyc < s.tick.period →
    ∃ t, exec (.tickTimer c) s = .next t ∧ (getCore t c) = setCcrF (getCore s c) .irq Fd.cIrqTtp 1 ∧
      (∀ d, d ≠ c → getCore t d = getCore s d) ∧ t.ctl = s.ctl ∧ t.mem = s.mem)

/-- Tick sources and the counts (R64, R67–R71, R336): the ready flags follow the word clock and, once a master is selected and 16
offsets in sequence have held, the PTP lock; a SEL write takes a ready source into control and is refused whole where the source
is not ready, or PTP is named at a 44.1 kHz family rate; a failing source leaves the generator on KRC in holdover with the
steering where it stands, both curators told; at an edge the steering moves by no more than the slew limit, towards its pull limit
from beyond it, else, under an external source, along the profile of an acquisition while the error by the shorter way exceeds one
cycle and towards what the loop asks for within it, and towards 0 without one; the phase error within one cycle
ends an acquisition, and steering 0 a holdover; a read of the low half latches the high half for its reader. What the loop asks
for is an operand of the edge: the model's own choice (assumption 23). -/
def Obligations.TickSources : Prop :=
  (∀ s : State, s.power.up = true →
    (∃ t, exec .wordClockReady s = .next t ∧ srcF t Fd.tckSrcRdyWc = 1 ∧ SameCtl [.tckSrc] s t ∧ t.mem = s.mem ∧ t.cores = s.cores) ∧
    (∀ o, 16 ≤ s.eth.good → regF s .ethPtpstat Fd.ethPtpstatState = 1 →
      ∃ t, exec (.ptpLock o) s = .next t ∧ srcF t Fd.tckSrcRdyPtp = 1 ∧ t.tick.ptpOfs = o ∧
        regF t .ethPtpstat Fd.ethPtpstatLocked = 1 ∧ SameCtl [.tckSrc, .ethPtpstat] s t)) ∧
  (∀ s : State, regF s .ethPtpstat Fd.ethPtpstatLocked = 1 → ∃ t, exec .ptpLockLoss s = .next t ∧ srcF t Fd.tckSrcRdyPtp = 0 ∧
    regF t .ethPtpstat Fd.ethPtpstatLocked = 0 ∧ (srcF s Fd.tckSrcActive ≠ 2 → SameCtl [.tckSrc, .ethPtpstat] s t) ∧
    (srcF s Fd.tckSrcActive = 2 → srcF t Fd.tckSrcActive = 0 ∧ srcF t Fd.tckSrcHold = 1 ∧ srcF t Fd.tckSrcFailPtp = 1)) ∧
  (∀ (s : State) (v : Word), reaches s (.cur .prg) (Creg.addr .tckSrc) = true → Fd.tckSrcSel.get v ≠ srcF s Fd.tckSrcSel →
    Fd.tckSrcSel.get v < 3 →
    let sel := Fd.tckSrcSel.get v
    let bad : Prop := sourceReady s sel = false ∨ (sel = 2 ∧ rate s % 2 = 0)
    ∃ t, exec (.selWrite .prg v) s = .next t ∧ SameCtl [.tckSrc] s t ∧
      (bad → srcF t Fd.tckSrcSel = srcF s Fd.tckSrcSel ∧ srcF t Fd.tckSrcActive = srcF s Fd.tckSrcActive ∧
        (sourceReady s sel = false → srcF t Fd.tckSrcErrNotready = 1) ∧ (sel = 2 ∧ rate s % 2 = 0 → srcF t Fd.tckSrcErrRate = 1)) ∧
      (¬bad → srcF t Fd.tckSrcSel = sel ∧ srcF t Fd.tckSrcActive = sel ∧ srcF t Fd.tckSrcHold = 0)) ∧
  (∀ s : State, srcF s Fd.tckSrcActive = 1 →
    ∃ t, exec .tickSourceFail s = .next t ∧ srcF t Fd.tckSrcSel = 0 ∧ srcF t Fd.tckSrcActive = 0 ∧ srcF t Fd.tckSrcHold = 1 ∧
      srcF t Fd.tckSrcFailWc = 1 ∧ srcF t Fd.tckSrcRdyWc = 0 ∧ reg t .tckSteer = reg s .tckSteer ∧
      (∀ w : World, regF t (.curNme w.num) Fd.curNmeEvent % 2 = 1) ∧ t.mem = s.mem) ∧
  (∀ (s : State) (pherr : Word) (wish : BitVec 16),
    let lim : Int := 100 * regEffF s .tckLimit Fd.tckLimitPull
    let old : Int := (BitVec.ofNat 16 (regF s .tckSteer Fd.tckSteerSteer)).toInt
    let new : Int := (BitVec.ofNat 16 (regF (steerEdge pherr wish s) .tckSteer Fd.tckSteerSteer)).toInt
    let d : Int := ((s.tick.slew + s.tick.period * 100 * regEffF s .tckLimit Fd.tckLimitSlew) / 2000000000 : Nat)
    let e : Int := shortError (sourceSpan s) pherr.toInt
    let ask : Int := if 16 < e.natAbs then acquireAim old lim e (regEffF s .tckLimit Fd.tckLimitSlew) else wish.toInt
    let aim : Int := if lim < old then lim else if old < -lim then -lim
      else if srcF s Fd.tckSrcActive = 0 then 0 else max (-lim) (min lim ask)
    new = max (old - d) (min (old + d) aim) ∧
    (srcF s Fd.tckSrcActive ≠ 0 → reg (steerEdge pherr wish s) .tckPherr = pherr ∧
      srcF (steerEdge pherr wish s) Fd.tckSrcSlewing = (if 16 < e.natAbs then 1 else 0)) ∧
    (srcF s Fd.tckSrcActive = 0 → reg (steerEdge pherr wish s) .tckPherr = reg s .tckPherr)) ∧
  (∀ (s : State) (p : Word), srcF s Fd.tckSrcSlewing = 1 → p.toInt.natAbs ≤ 16 →
    ∃ t, exec (.acquisitionEnd p) s = .next t ∧ srcF t Fd.tckSrcSlewing = 0 ∧ reg t .tckPherr = p ∧
      SameCtl [.tckSrc, .tckPherr] s t) ∧
  (∀ s : State, srcF s Fd.tckSrcHold = 1 → running s = false ∨ steerOf s = 0 →
    ∃ t, exec .holdEnd s = .next t ∧ srcF t Fd.tckSrcHold = 0 ∧ reg t .tckSteer = 0 ∧ SameCtl [.tckSrc, .tckSteer] s t) ∧
  (∀ s : State, running s = false → s.power.up = true →
    exec (.tckCountLoRead .prg) s = .next { s with tick := { s.tick with shPrg := (s.tick.count >>> 32).setWidth 32 } } ∧
    exec (.tckCountLoRead .grd) s = .next { s with tick := { s.tick with shGrd := (s.tick.count >>> 32).setWidth 32 } } ∧
    exec (.tckMediaLoRead .prg) s = .next { s with tick := { s.tick with mediaShPrg := (s.tick.media >>> 32).setWidth 32 } } ∧
    exec (.tckMediaLoRead .grd) s = .next { s with tick := { s.tick with mediaShGrd := (s.tick.media >>> 32).setWidth 32 } })

/-- The ingress deadline, the stitch and the egress start (R57, R59, R88, R96–R101, R115, R116, R316): at the deadline,
after the tick's egress start and every quire start, the concealment engine publishes a candidate for every ingress slot that no frame has published; at the stitch every seed aborts,
and every tile whose consumed-from vector holds a seed; every owned slot takes its sealed or committed value or its candidate,
the record shows the abort set, and a tile's next TSTAT its cause; then the frames of the live ports leave. Where the spec is
open it follows the model's own readings (assumptions 24, 25 and 28). -/
def Obligations.DeadlineAndStitch : Prop :=
  (∀ s : State, running s = true → s.tick.deadline = false → s.tick.deckle = false → s.stage.frameDue = false →
    startsDue (fun _ => true) s = false →
    ∃ t, exec .ingressDeadline s = .next t ∧ t.tick.deadline = true ∧ t.mem = s.mem ∧ t.cores = s.cores ∧
      ∀ n ∈ ingressMissing s, ∃ p, t.spine.ingress.find? (fun e => e.1 == n) = some (n, p) ∧ p.value = candidate s n) ∧
  (∀ fs : List Frozen,
    let v := verdictOf fs
    (∀ f ∈ fs, isSeed f = true → f.idx ∈ v.seeds ∧ f.idx ∈ v.aborts) ∧
    (∀ f ∈ fs, ∀ g ∈ fs, isSeed g = true → g.idx ∈ f.core.tx.cons → f.idx ∈ v.aborts) ∧
    (∀ f ∈ v.fs, commits v f = true → f.core.tx.st = .stitched ∧ f.causes = [])) ∧
  (∀ (s : State) (missing late : List (Fin 1088)), running s = true → s.tick.deckle = true → s.tick.frozen = false →
    let v := verdictOf (frozenTiles (missing.map (·.val)) s)
    ∃ t, exec (.stitchFreeze missing late) s = .next t ∧ t.tick.frozen = true ∧ t.tick.last = stopBits s ∧ t.tick.count = s.tick.count ∧
      (∀ k, k < 34 → reg t (.spnStseed k) = indexWord v.seeds k ∧ reg t (.spnStabt k) = indexWord v.aborts k) ∧
      (((ownedSlots s).map (·.1)).Nodup → ∀ e ∈ ownedSlots s,
        SMap.get t.conceal.out e.1 ⟨0, true⟩ = resolve s v e.1 e.2) ∧
      ((∀ f ∈ withLate (late.map (·.val)) v.fs, fails f = false) → (∀ q, q < 64 → (getQuire s q).armed = none) →
        (v.fs.map (fun f => 17 * f.q + f.j)).Nodup →
        ∀ f ∈ v.fs, (getCore t (tileId f.q f.j)).tx.verdict = tstatWord s (reported f.causes) f.core.tx)) ∧
  (∀ s : State, s.stage.frameDue = true → s.tick.frozen = false →
    ∃ t, exec .egressFrameStart s = .next t ∧ t.stage.frameDue = false ∧ t.ctl = s.ctl ∧ t.mem = s.mem ∧
      ∀ p f, p < 32 → (getMdx s p).frame = some f → (getMdx s p).live = true →
        (getMdx t p).sent = frameBytes f (identityOf s p) (frameFlags s p f) ∧ (getMdx t p).frame = none)

/-! ### The spine's tables, messages and links -/

/-- Writes of the slot table and the maps (R103, R104, R109): one by the owner, or of a free entry, to a tile of its world (TYPE 1),
an ingress channel that no other entry names (TYPE 2) or none is stored with the writer's world; at once outside a running tick, and
inside it with PEND 1, the copy in force standing as it was. A foreign owner, an owner out of range or of the other world and a
channel taken are refused, and the entry keeps its word. Messages, links and the bulk plane (R105–R110, R119–R122): the next message
of an injector, good on one link in service and with the tick's parity, reaches the entry that follows its slot, and a sealed value
is also the entry's last; a bad copy is counted; one that no link delivers marks the entry lost; a link that loses lock, or fails 16
checks in a tick, is retired and its curator told, and returns at the edge after REEN where it has lock; a far load's packet waits
for write-through, and one that fails, and fails in its replay, gives 0 and dooms its tile. Where the spec is open it follows the
model's own readings (assumptions 26 and 27). -/
def Obligations.SpineState : Prop :=
  ((∀ (w : World) (slot : Fin 65536) (v : Word) (s : State), reaches s (.cur w) (Creg.addr (.spnSlotcfg slot.val)) = true →
     let old := reg s (.spnSlotcfg slot.val)
     let free : Prop := Fd.spnSlotcfgType.get old = 0
     let mine : Prop := free ∨ World.ofNum (Fd.spnSlotcfgWorld.get old) = w
     let ty := Fd.spnSlotcfgType.get v
     let kept (f : Fld) : Prop := ∃ t, exec (.slotcfgWrite (.cur w) slot v) s = .next t ∧ reg t (.spnSlotcfg slot.val) = old ∧
       regF t (.spnErr w.num) f = 1 ∧ regF t (.spnErr w.num) Fd.spnErrSlot = slot.val
     let stored (p : Word → Prop) : Prop := ∃ t, exec (.slotcfgWrite (.cur w) slot v) s = .next t ∧
       let n := reg t (.spnSlotcfg slot.val)
       Fd.spnSlotcfgType.get n = ty ∧ p n ∧ Fd.spnSlotcfgXw.get n = Fd.spnSlotcfgXw.get v ∧
       Fd.spnSlotcfgWorld.get n = (if ty = 0 then 0 else w.num) ∧ Fd.spnSlotcfgPend.get n = (if running s then 1 else 0) ∧
       slotCfg t slot.val = (if running s then slotCfg s slot.val else n) ∧
       (∀ k : Nat, k ≠ slot.val → k < 65536 → reg t (.spnSlotcfg k) = reg s (.spnSlotcfg k) ∧ slotCfg t k = slotCfg s k) ∧
       t.mem = s.mem ∧ t.cores = s.cores
     (mine → ty = 3 → kept Fd.spnErrRange) ∧
     (mine → ty = 1 → 1087 < ownerTile v → kept Fd.spnErrRange) ∧
     (mine → ty = 2 → portBad (ownerPort v) (ownerChan v) = true ∨ oddMember s (ownerPort v) = true → kept Fd.spnErrRange) ∧
     (mine → ty = 1 → ownerTile v ≤ 1087 → indexWorld s (ownerTile v) ≠ w → kept Fd.spnErrWorld) ∧
     (mine → ty = 2 → portBad (ownerPort v) (ownerChan v) = false → oddMember s (ownerPort v) = false →
       channelTaken s slot.val (ownerPort v) (ownerChan v) = true → kept Fd.spnErrClaimed) ∧
     (¬mine → kept Fd.spnErrClaimed) ∧
     (mine → ty = 1 → ownerTile v ≤ 1087 → indexWorld s (ownerTile v) = w → stored (fun n => ownerTile n = ownerTile v)) ∧
     (mine → ty = 2 → portBad (ownerPort v) (ownerChan v) = false → oddMember s (ownerPort v) = false →
       channelTaken s slot.val (ownerPort v) (ownerChan v) = false →
       stored (fun n => ownerPort n = ownerPort v ∧ ownerChan n = ownerChan v)) ∧
     (mine → ty = 0 → stored (fun _ => True))) ∧
   (∀ (q : Fin 64) (e : Fin 4096) (v : Word) (s : State),
     let w := quireWorld s q.val
     let lo := Creg.qrcSubLo q.val e.val
     let hi := Creg.qrcSubHi q.val e.val
     reaches s (.cur w) lo.addr = true → reaches s (.cur w) hi.addr = true →
     ∃ t u, exec (.subscriptionMapWrite (.cur w) q e false v) s = .next t ∧ exec (.subscriptionMapWrite (.cur w) q e true v) s = .next u ∧
       Fd.qrcSubLoSlot.get (reg t lo) = Fd.qrcSubLoSlot.get v ∧ Fd.qrcSubLoValid.get (reg t lo) = Fd.qrcSubLoValid.get v ∧
       Fd.qrcSubLoFirm.get (reg t lo) = Fd.qrcSubLoFirm.get v ∧ Fd.qrcSubHiMask.get (reg u hi) = Fd.qrcSubHiMask.get v ∧
       regLat t lo = (if running s then regLat s lo else reg t lo) ∧ regLat u hi = (if running s then regLat s hi else reg u hi) ∧
       (running s = true → t.spine = s.spine ∧ u.spine = s.spine) ∧ t.cores = s.cores ∧ t.mem = s.mem ∧ u.cores = s.cores ∧ u.mem = s.mem)) ∧
  ((∀ (q : Fin 64) (i : Fin 65) (s : State) (m : Msg), (injLog s i.val)[cursor s q.val i.val]? = some m → m.isSeal = false →
     (linkUp s q.val 0 = true ∨ linkUp s q.val 1 = true → m.tpar = s.tick.count.getLsbD 0 → ∀ e, entryOf s q.val m.slot = some e →
       ∃ t, exec (.slotMessage q i 0 0) s = .next t ∧ cursor t q.val i.val = cursor s q.val i.val + 1 ∧
         (let p := getPlace t q.val e
          p.has = true ∧ p.value = m.value ∧ p.conc = m.conc ∧ p.prov = m.prov ∧ p.depth = m.depth ∧ p.src = m.src ∧
          (m.prov = false → p.hasLast = true ∧ p.last = m.value ∧ p.lastConc = m.conc)) ∧
         (∀ d, d ≠ e → d < 4096 → e < 4096 → getPlace t q.val d = getPlace s q.val d) ∧ t.ctl = s.ctl ∧ t.cores = s.cores ∧ t.mem = s.mem) ∧
     (∀ err, linkUp s q.val 0 = true → linkUp s q.val 1 = true → copyOn q.val 0 m err = none → m.tpar = s.tick.count.getLsbD 0 →
       ∀ e, entryOf s q.val m.slot = some e → ∃ t, exec (.slotMessage q i err 0) s = .next t ∧ (getPlace t q.val e).value = m.value ∧
         regF t (.spnLink q.val) Fd.spnLinkErrcnt = min 255 (regF s (.spnLink q.val) Fd.spnLinkErrcnt + 1)) ∧
     (∀ err err1, linkUp s q.val 0 = true → linkUp s q.val 1 = false → copyOn q.val 0 m err = none →
       ∀ e, entryOf s q.val m.slot = some e → ∃ t, exec (.slotMessage q i err err1) s = .next t ∧ (getPlace t q.val e).lost = true ∧
         cursor t q.val i.val = cursor s q.val i.val + 1 ∧ t.cores = s.cores)) ∧
   (∀ (q : Fin 64) (l : Fin 2) (locked : Bool) (s : State), linkUp s q.val l.val = true →
     (locked = true → s.spine.fails.get (2 * q.val + l.val) 0 < 16 → exec (.linkRetire q l locked) s = .next s) ∧
     (locked = false ∨ 16 ≤ s.spine.fails.get (2 * q.val + l.val) 0 →
       ∃ t, exec (.linkRetire q l locked) s = .next t ∧ linkUp t q.val l.val = false ∧
         linkUp t q.val (1 - l.val) = linkUp s q.val (1 - l.val) ∧ 2 * q.val + l.val ∈ t.spine.retired ∧
         regF t (.spnLink q.val) (if l.val = 0 then Fd.spnLinkL0Fail else Fd.spnLinkL1Fail) = 1 ∧
         regF t (.curNme (quireWorld s q.val).num) Fd.curNmeEvent / 4 % 2 = 1 ∧ t.mem = s.mem ∧ t.cores = s.cores)) ∧
   (∀ (q : Fin 64) (v : Word) (lock : BitVec 2) (s : State),
     let w := quireWorld s q.val
     reaches s (.cur w) (Creg.addr (.spnLink q.val)) = true →
     ∃ t, exec (.linkReen w q v lock) s = .next t ∧ t.mem = s.mem ∧ t.cores = s.cores ∧ SameCtl [.spnLink q.val] s t ∧
       (∀ k, k ∈ t.spine.reen ↔ k ∈ s.spine.reen ∨
         (k = 2 * q.val ∧ Fd.spnLinkL0Reen.get v = 1 ∧ lock.getLsbD 0 = true) ∨
         (k = 2 * q.val + 1 ∧ Fd.spnLinkL1Reen.get v = 1 ∧ lock.getLsbD 1 = true)) ∧
       (Fd.spnLinkL0Fail.get v = 1 → regF t (.spnLink q.val) Fd.spnLinkL0Fail = 0) ∧
       (Fd.spnLinkL1Fail.get v = 1 → regF t (.spnLink q.val) Fd.spnLinkL1Fail = 0) ∧
       ∀ l, l < 2 → 2 * q.val + l ∈ t.spine.reen → linkUp (linkEdge t) q.val l = true) ∧
   (∀ (q : Fin 64) (j : Fin 17) (i : Fin 6) (s : State) (id : Nat) (a : Nat) (ea : Word),
     let c : CoreId := .tile q j
     (getCore s c).loads[i.val]? = some ⟨id, .far a ea⟩ → (getCore s c).tx.st = .open_ →
     (getCore s c).entry = none → linkUp s q.val 0 = true ∨ linkUp s q.val 1 = true →
     ∀ err err2,
     (portWaits s q.val 2 = true → exec (.bulkPacket (.farLoad c i) err err2) s = .next s) ∧
     (portWaits s q.val 2 = false → packetFlips err ≠ none ∨ packetFlips err2 ≠ none →
       ∃ t, exec (.bulkPacket (.farLoad c i) err err2) s = .next t ∧ t.cores = s.cores ∧ t.mem = s.mem ∧
         (err = [] → t.ctl = s.ctl)) ∧
     (portWaits s q.val 2 = false → packetFlips err = none → packetFlips err2 = none →
       ∃ t, exec (.bulkPacket (.farLoad c i) err err2) s = .next t ∧ t.mem = s.mem ∧ (∀ d, d ≠ c → getCore t d = getCore s d) ∧
         (getCore t c).tx.st = .aborting ∧
         6 ∈ (getCore t c).tx.causes ∧ (getCore t c).loads = (getCore s c).loads.eraseIdx i.val ∧
         ∀ n : Nat, (getCore s c).user.cells[n]? = some (.pend id) → (getCore t c).user.cells[n]? = some (.val 0))))

/-! ### Quire controllers -/

/-- The loads of a quire controller (R126, R131, R134, R139), from memory that reads good: a release load copies the logical tile's image into its position
and both ledger copies from the image, and starts the core at entry 0; a takeover load brings the image and the committed
ledger, and starts the reserve at the takeover entry with the failed tick's TSTAT, after which the far accesses that waited for it go
on (R15); a LOADRES load brings the image slot and the ledger pair that its write named and starts the reserve at entry 0; the archive acknowledges the oldest granule of a write-through. Where the spec is open it follows the model's own reading
(assumption 45). -/
def Obligations.QuireLoads : Prop :=
  (∀ (q : Fin 64) (j : Fin 17) (s : State),
    let c : CoreId := .tile q j
    let r := role s q.val j.val
    let img := imgBase q.val (imgMap s q.val r)
    let led := ledBase q.val (ledMap s q.val r)
    Memory.wf s.mem = true → (∀ x, clean s x = true) → r < 16 → relBit s q.val r = true → inService s q.val j.val = false →
    regF s (.qrcStat q.val) Fd.qrcStatImg = 1 → regF s (.qrcStat q.val) Fd.qrcStatPwr = 1 → takingOver s q.val j.val = false →
    imgMap s q.val r ≤ 16 → ledMap s q.val r ≤ 16 →
    ∃ t, exec (.releaseLoadEnd q j) s = .next t ∧ inService t q.val j.val = true ∧ (getCore t c).on = true ∧
      (getCore t c).pc = 0 ∧ isSup (getCore t c) = true ∧ (getCore t c).tx.verdict = 0 ∧ (∀ d, d ≠ c → getCore t d = getCore s d) ∧
      (∀ a, a < 0x28000 → memByte t (tileBase q.val j.val + a) = memByte s (img + a)) ∧
      (∀ a, a < 0x4000 → memByte t (led + a) = memByte s (img + 0x1C000 + a) ∧
        memByte t (led + 0x4000 + a) = memByte s (img + 0x1C000 + a))) ∧
  (∀ (q : Fin 64) (j : Fin 17) (k : Fin 16) (s : State),
    let c : CoreId := .tile q j
    let img := imgBase q.val (imgMap s q.val k.val)
    Memory.wf s.mem = true → (∀ x, clean s x = true) → (getQuire s q.val).load = some (.takeover j.val k.val) → (getQuire s q.val).loadOn = true →
    (getQuire s q.val).heldMsg = [] → imgMap s q.val k.val ≤ 16 → ledMap s q.val k.val ≤ 16 → (running s = false ∨ s.tick.deckle = false) →
    ∃ t, exec (.takeoverLoadEnd q) s = .next t ∧ (getCore t c).on = true ∧ (getCore t c).pc = 0x10 ∧
      ccr (getCore t c) .tstat = (getCore s c).tx.verdict ∧ (running s = true → (getCore t c).tx.st = .open_) ∧
      (∀ d, d ≠ c → getCore t d = (let k0 := getCore s d
        if k0.tx.farHeld = some (16 * q.val + k.val) then { k0 with tx := { k0.tx with farHeld := none } } else k0)) ∧
      (getQuire t q.val).load = none ∧
      regF t (.qrcStat q.val) Fd.qrcStatLoading = 0 ∧ regF t (.qrcStat q.val) Fd.qrcStatRun / 2 ^ k.val % 2 = 1 ∧
      (∀ a, a < 0x28000 → a < 0x1C000 ∨ 0x20000 ≤ a → memByte t (tileBase q.val j.val + a) = memByte s (img + a)) ∧
      (∀ g i, g < 512 → i < 32 → memByte t (tileBase q.val j.val + 0x1C000 + 32 * g + i) =
        memByte s (committedAt s q.val (ledMap s q.val k.val) g + i))) ∧
  (∀ (q : Fin 64) (j : Fin 17) (slot pair : Nat) (s : State), let c : CoreId := .tile q j
    Memory.wf s.mem = true → (∀ x, clean s x = true) → (getQuire s q.val).load = some (.loadres slot pair) → reserveOf s q.val = some j.val →
    (getQuire s q.val).loadOn = true → (running s = false ∨ s.tick.deckle = false) → slot ≤ 16 → pair ≤ 16 →
    ∃ t, exec (.loadresLoadEnd q) s = .next t ∧ (getCore t c).on = true ∧ (getCore t c).pc = 0 ∧ (getQuire t q.val).load = none ∧
      (∀ a, a < 0x28000 → a < 0x1C000 ∨ 0x20000 ≤ a → memByte t (tileBase q.val j.val + a) = memByte s (imgBase q.val slot + a)) ∧
      (∀ g i, g < 512 → i < 32 → memByte t (tileBase q.val j.val + 0x1C000 + 32 * g + i) = memByte s (committedAt s q.val pair g + i)) ∧
      regF t (.qrcStat q.val) Fd.qrcStatLoading = 0 ∧ (running s = true → (getQuire t q.val).rsvNext = true) ∧
      (running s = false → regF t (.qrcStat q.val) Fd.qrcStatRsvRun = 1)) ∧
  (∀ (q : Fin 64) (j : Fin 17) (s : State) (g : Fin 512) (rest : List Nat),
    let c : CoreId := .tile q j
    let k := getCore s c
    let dst := inflightAt s q.val (ledMap s q.val (maskBit s q.val j.val)) g.val
    Memory.wf s.mem = true → (∀ x, clean s x = true) → k.tx.wtq = g.val :: rest → s.tick.frozen = false → ledMap s q.val (maskBit s q.val j.val) ≤ 16 →
    (arcSpent s q.val j.val k = true → exec (.writeThroughAck q j) s =
      .next (setCore s c { k with tx := { k.tx with heldArc := true } })) ∧
    (arcSpent s q.val j.val k = false → ∃ t, exec (.writeThroughAck q j) s = .next t ∧ t.ctl = s.ctl ∧
      (getCore t c).tx = { k.tx with wtq := rest, arc := k.tx.arc + 1 } ∧ (∀ d, d ≠ c → getCore t d = getCore s d) ∧
      (∀ i, i < 32 → memByte t (dst + i) = memByte s (tileBase q.val j.val + 0x1C000 + 32 * g.val + i)) ∧ SameMemBut dst 32 s t))

/-- The commands of a quire (R133–R136, R139, R141, R236) while the tick does not run: a release write sets QRC_REL; LOADRES
and GO are accepted, or refused with ERR; READMIT puts a failed position under test at the next tick edge, and the end of the test makes
it the reserve, a spare position or a failed one at an edge (R130); a curator message reaches a tile in service with no message pending, and is refused with BUSY otherwise. Where
the spec is open it follows the model's own reading (assumption 45). -/
def Obligations.QuireCommands : Prop :=
  (∀ (q : Fin 64) (v : Word) (s : State), running s = false → blockStopped s (2 + q.val) = false →
    let w := quireWorld s q.val
    reaches s (.cur w) (Creg.addr (.qrcRel q.val)) = true →
    ∃ t, exec (.tileRelease w q v) s = .next t ∧ exec (.relClear w q v) s = .next t ∧
      SameCtl [.qrcRel q.val, .kprPwrQgate (q.val / 32)] s t ∧ t.mem = s.mem ∧ t.cores = s.cores ∧ regF t (.qrcRel q.val) Fd.qrcRelRel = Fd.qrcRelRel.get v ∧
      (Fd.qrcRelRel.get v ≠ 0 → quireGated t q.val = false)) ∧
  (∀ (q : Fin 64) (j : Fin 17) (v : Word) (s : State), running s = false → Fd.qrcHovrLoadres.get v = 1 → Fd.qrcHovrGo.get v = 0 →
    reserveOf s q.val = some j.val → (∀ a b, (getQuire s q.val).load ≠ some (.takeover a b)) → blockStopped s (2 + q.val) = false →
    let w := quireWorld s q.val
    reaches s (.cur w) (Creg.addr (.qrcHovr q.val)) = true →
    ∃ t, exec (.loadres w q v) s = .next t ∧ t.mem = s.mem ∧
      (imgMap s q.val 16 ∈ (getQuire s q.val).verified →
        (getQuire t q.val).load = some (.loadres (imgMap s q.val 16) (ledMap s q.val 16)) ∧
        (getQuire t q.val).loadOn = true ∧ regF t (.qrcStat q.val) Fd.qrcStatLoading = 1 ∧
        regF t (.qrcStat q.val) Fd.qrcStatRsvRun = 0 ∧ (getCore t (.tile q j)).on = false) ∧
      (imgMap s q.val 16 ∉ (getQuire s q.val).verified → regF t (.qrcHovr q.val) Fd.qrcHovrErr = 1 ∧
        OnlyCtl [.qrcHovr q.val] s t)) ∧
  (∀ (q : Fin 64) (v : Word) (s : State), running s = false → Fd.qrcHovrLoadres.get v = 0 → Fd.qrcHovrGo.get v = 1 →
    blockStopped s (2 + q.val) = false →
    let w := quireWorld s q.val
    reaches s (.cur w) (Creg.addr (.qrcHovr q.val)) = true →
    ∃ t, exec (.handoverGo w q v) s = .next t ∧ t.mem = s.mem ∧ t.cores = s.cores ∧ SameCtl [.qrcHovr q.val] s t ∧
      ((getQuire s q.val).armed = none → failedNow s q.val = false → (getQuire t q.val).armed = some (Fd.qrcHovrK.get v) ∧
        regF t (.qrcHovr q.val) Fd.qrcHovrArmed = 1) ∧
      ((getQuire s q.val).armed ≠ none ∨ failedNow s q.val = true → t.quires = s.quires ∧ regF t (.qrcHovr q.val) Fd.qrcHovrErr = 1)) ∧
  (∀ (q : Fin 64) (j : Fin 17) (v : Word) (s : State), running s = false → Fd.qrcPosReadmit.get v = 1 → role s q.val j.val = 17 →
    reaches s (.cur (quireWorld s q.val)) (Creg.addr (.qrcPos q.val j.val)) = true →
    ∃ t, exec (.readmit (quireWorld s q.val) q j v) s = .next t ∧ SameCtl [.qrcPos q.val j.val] s t ∧ t.mem = s.mem ∧
      t.cores = s.cores ∧ role t q.val j.val = 17 ∧ j.val ∈ (getQuire t q.val).readmit ∧
      ((s.quires.map (·.1)).Nodup → (∀ e ∈ s.quires, e.1 < 64 ∧ e.2.readmit = [] ∧ e.2.tested = []) →
        role (roleEdge t) q.val j.val = 19)) ∧
  (∀ (q : Fin 64) (j : Fin 17) (s : State), role s q.val j.val = 19 → running s = true → (s.quires.map (·.1)).Nodup →
    (∀ e ∈ s.quires, e.1 < 64 ∧ e.2.readmit = [] ∧ e.2.tested = []) →
    ∃ t u, exec (.readmitTestEnd q j false) s = .next t ∧ exec (.readmitTestEnd q j true) s = .next u ∧
      role t q.val j.val = 19 ∧ role u q.val j.val = 19 ∧ role (roleEdge t) q.val j.val = 17 ∧
      regF t (.qrcPos q.val j.val) Fd.qrcPosTestFail = 1 ∧ t.mem = s.mem ∧ t.cores = s.cores ∧
      regF u (.qrcPos q.val j.val) Fd.qrcPosTestFail = 0 ∧ u.mem = s.mem ∧ u.cores = s.cores ∧
      (reserveOf s q.val = none → role (roleEdge u) q.val j.val = 16 ∧ regF (roleEdge u) (.qrcStat q.val) Fd.qrcStatNoReserve = 0) ∧
      (reserveOf s q.val ≠ none → role (roleEdge u) q.val j.val = 18)) ∧
  (∀ (w : World) (v : Word) (s : State), reaches s (.cur w) (Creg.addr (.curMsg w.num)) = true → running s = false → Fd.curMsgSend.get v = 1 →
    let n := Fd.curMsgTile.get v
    let q := n / 16
    quireWorld s q = w → (getQuire s q).load = none →
    ∃ t, exec (.send w v) s = .next t ∧ t.mem = s.mem ∧ SameCtl [.curMsg w.num] s t ∧
      (∀ j, holder s q (n % 16) = some j → inService s q j = true → ccrF (getCore s (tileId q j)) .irq Fd.cIrqCmp = 0 →
        ccr (getCore t (tileId q j)) .cmsg = reg s (.curMsgd w.num) ∧ ccrF (getCore t (tileId q j)) .irq Fd.cIrqCmp = 1 ∧
        ∀ d, d ≠ tileId q j → getCore t d = getCore s d) ∧
      (∀ j, holder s q (n % 16) = some j → inService s q j = false ∨ ccrF (getCore s (tileId q j)) .irq Fd.cIrqCmp = 1 →
        regF t (.curMsg w.num) Fd.curMsgBusy = 1 ∧ t.cores = s.cores))

/-! ### Memory -/

/-- Regions and poison (R104, R284, R289, R290): a free entry takes BASE and LIM, and a claim takes its
type and the claimer's world, with PEND while the tick runs, whose copy in force stands, unless it overlaps a claimed range or breaks a range rule, each with its own error bit; a release starts the zeroing of its
range, whose end leaves it zero and free of poison; MEM_PCLR zeroes every poisoned granule of a gathering in the world's
regions. Where the spec is open it follows the model's own reading (assumption 34). -/
def Obligations.Regions : Prop :=
  (∀ (w : World) (r : Fin 64) (v : Word) (s : State), reaches s (.cur w) (Creg.addr (.memRgnAttr r.val)) = true →
    let attr := Creg.memRgnAttr r.val
    let c := (ctlCharge (.cur w) s).2
    let (lo, hi) := regionRange s r.val
    regF s attr Fd.memRgnAttrType = 0 →
    (∃ t u, exec (.regionWrite (.cur w) r .base v) s = .next t ∧ exec (.regionWrite (.cur w) r .lim v) s = .next u ∧
      regF t (.memRgnBase r.val) Fd.memRgnBaseAddr = Fd.memRgnBaseAddr.get v ∧ OnlyCtl [.memRgnBase r.val] c t ∧
      regF u (.memRgnLim r.val) Fd.memRgnLimAddr = Fd.memRgnLimAddr.get v ∧ OnlyCtl [.memRgnLim r.val] c u) ∧
    (Fd.memRgnAttrType.get v = 1 → ∃ t, exec (.regionWrite (.cur w) r .attr v) s = .next t ∧
      (regionOverlaps s r.val lo hi = true → OnlyCtl [.memErr w.num] c t ∧ regF t (.memErr w.num) Fd.memErrOverlap = 1 ∧
        regF t (.memErr w.num) Fd.memErrEntry = r.val) ∧
      (regionRangeBad s lo hi = true → OnlyCtl [.memErr w.num] c t ∧
        regF t (.memErr w.num) Fd.memErrRange = 1 ∧ regF t (.memErr w.num) Fd.memErrEntry = r.val) ∧
      (regionOverlaps s r.val lo hi = false → regionRangeBad s lo hi = false → OnlyCtl [attr] c t ∧
        regF t attr Fd.memRgnAttrPend = (if running s then 1 else 0) ∧ regLat t attr = (if running s then regLat s attr else reg t attr) ∧
        regF t attr Fd.memRgnAttrType = 1 ∧ regF t attr Fd.memRgnAttrWorld = w.num ∧
        regF t attr Fd.memRgnAttrDuplex = (if lo < dupTop s then 1 else 0)))) ∧
  (∀ (w : World) (r : Fin 64) (v : Word) (s : State), reaches s (.cur w) (Creg.addr (.memRgnAttr r.val)) = true →
    let attr := Creg.memRgnAttr r.val
    regF s attr Fd.memRgnAttrType ≠ 0 → regF s attr Fd.memRgnAttrWorld = w.num → Fd.memRgnAttrType.get v = 0 →
    ∃ t, exec (.regionWrite (.cur w) r .attr v) s = .next t ∧ SameCtl [attr] s t ∧ t.mem = s.mem ∧ t.cores = s.cores ∧
      regF t attr Fd.memRgnAttrType = 0 ∧ regF t attr Fd.memRgnAttrZeroing = 1 ∧
      t.memSys.zeroing = s.memSys.zeroing ++ [(r.val, regionRange s r.val)]) ∧
  (∀ (r : Fin 64) (s : State) (lo hi : Nat), s.memSys.zeroing.find? (fun z => z.1 == r.val) = some (r.val, (lo, hi)) →
    regF s (.memRgnAttr r.val) Fd.memRgnAttrPend = 0 →
    ∃ t, exec (.zeroingEnd r) s = .next t ∧ SameCtl [.memRgnAttr r.val] s t ∧
      t.memSys.zeroing = s.memSys.zeroing.erase (r.val, (lo, hi)) ∧
      ((∀ z ∈ t.memSys.zeroing, z.1 ≠ r.val) → regF t (.memRgnAttr r.val) Fd.memRgnAttrZeroing = 0) ∧
      t.cores = s.cores ∧ (∀ a, lo ≤ a → a < hi → memByte t a = memDefault a) ∧ SameMemBut lo (hi - lo) s t ∧
      ∀ g, g ∈ t.poison ↔ g ∈ s.poison ∧ ¬(lo ≤ g ∧ g < hi)) ∧
  (∀ (w : World) (v : Word) (s : State), reaches s (.cur w) (Creg.addr (.memPclr w.num)) = true → running s = false →
    let base := v.toNat * 256
    let hit (a : Nat) : Prop := base ≤ a ∧ a < base + 256 ∧ granule a ∈ s.poison ∧
      ∃ r, regionOf s (granule a) = some r ∧ regionWorld s r = w
    ∃ t, exec (.poisonClear w v) s = .next t ∧ t.cores = s.cores ∧
      ∀ a, (hit a → memByte t a = memDefault a ∧ granule a ∉ t.poison) ∧ (¬hit a → memByte t a = memByte s a))

/-- Memory channels (R296–R301): what retires a channel does so at once, or at the next edge while the tick runs, with its cause;
RETRAIN sends a retired channel to retraining, whose failure retires it again and whose end zeroes its simplex gatherings and
starts resilvering, which ends with the channel active only where its partner is; the patrol reads one gathering and goes on; a
recalibration slice, due for the channel in turn every 256 ticks, goes on to the next setting and the next channel, and one that
fails makes a retirement due; an idle channel enters power-down. That a failure is reported by a command, and its operands, are
the model's own choices (assumption 34). -/
def Obligations.MemoryChannels : Prop :=
  (∀ (c : Fin 8) (cause : Fin 6) (s : State),
    let st := chanState s c.val
    let due := (getChan s c.val).due
    (cause.val = 1 ∧ (st = 1 ∨ st = 4)) ∨ cause.val = 3 ∨ (cause.val ≠ 0 ∧ due = cause.val) → (st = 1 ∨ st = 2 ∨ st = 4 ∨ st = 5) →
    ∃ t, exec (.channelRetire c cause) s = .next t ∧ t.mem = s.mem ∧ t.cores = s.cores ∧
      (running s = false → chanState t c.val = 3 ∧ regF t (.memCh c.val) Fd.memChCause = cause.val ∧
        regF t (.memCh c.val) Fd.memChPd = 0 ∧ (getChan t c.val).due = 0) ∧
      (running s = true → t.ctl = s.ctl ∧ (getChan t c.val).due = (if due = 0 then cause.val else due) ∧
        (c.val < memChans s → chanState (retireEdge t) c.val = 3 ∧
          regF (retireEdge t) (.memCh c.val) Fd.memChCause = (if due = 0 then cause.val else due) % 8))) ∧
  (∀ (w : World) (c : Fin 8) (s : State), running s = false → reaches s (.cur w) (Creg.addr (.memCh c.val)) = true → chanState s c.val = 3 →
    ∃ t, exec (.retrain w c) s = .next t ∧ chanState t c.val = 4 ∧ OnlyCtl [.memCh c.val] s t) ∧
  (∀ (c : Fin 8) (s : State), chanState s c.val = 4 →
    let mine (a : Nat) : Prop := dupTop s ≤ a ∧ a < memTop s ∧ (gddrDecode s a).1 = c.val
    ∃ t u, exec (.retrainEnd c false) s = .next t ∧ exec (.retrainEnd c true) s = .next u ∧ t.mem = s.mem ∧ t.cores = s.cores ∧
      (running s = false → chanState t c.val = 3 ∧ regF t (.memCh c.val) Fd.memChCause = 1) ∧
      (running s = true → t.ctl = s.ctl ∧ ((getChan s c.val).due = 0 → (getChan t c.val).due = 1)) ∧
      chanState u c.val = (if gDup s = 0 then 2 else 5) ∧ regF u (.memChRslv c.val) Fd.memChRslvNext = 0 ∧ u.cores = s.cores ∧
      ∀ a, (mine a → memByte u a = memDefault a) ∧ (¬mine a → memByte u a = memByte s a)) ∧
  (∀ (c : Fin 8) (s : State), chanState s c.val = 5 →
    (chanState s (pairChan s c.val) = 2 → ∃ t, exec (.resilverEnd c) s = .next t ∧ chanState t c.val = 2 ∧
      regF t (.memChRslv c.val) Fd.memChRslvNext = gDup s ∧ OnlyCtl [.memCh c.val, .memChRslv c.val] s t) ∧
    (chanState s (pairChan s c.val) ≠ 2 → regF s (.memChRslv c.val) Fd.memChRslvNext ≠ gDup s → exec (.resilverEnd c) s = .next s)) ∧
  (∀ (c g : Fin 8) (s : State), (∀ n, n < 8 → chanState s n = 2 ∧ (getChan s n).wrong = []) → memChans s ≤ 8 → gCh s ≠ 0 →
    let idx := (getChan s c.val).patrol
    (∀ i, i < 8 → clean s (gddrEncode s c.val idx i) = true) →
    ∃ t, exec (.patrolScrub (.chan c g) [] []) s = .next t ∧ t.mem = s.mem ∧ t.cores = s.cores ∧ t.poison = s.poison ∧
      SameCtl [.memScrub] s t ∧ (getChan t c.val).patrol = (if idx + 1 < gCh s then idx + 1 else 0) ∧
      (c.val = 0 → regF t .memScrub Fd.memScrubIndex = (if idx + 1 < gCh s then idx + 1 else 0))) ∧
  (∀ (c : Fin 8) (s : State), running s = true → s.tick.count.toNat % 256 = 0 → s.memSys.sliced = false →
    sliceChan s = some c.val →
    ∃ t u, exec (.recalibrationSlice c true) s = .next t ∧ exec (.recalibrationSlice c false) s = .next u ∧
      SameCtl [.memCh c.val] s t ∧ regF t (.memCh c.val) Fd.memChPd = 0 ∧ t.memSys.turn = (c.val + 1) % memChans s ∧
      t.memSys.sliced = true ∧ (getChan t c.val).setting = ((getChan s c.val).setting + 1) % 4 ∧ t.mem = s.mem ∧ t.cores = s.cores ∧
      ((getChan s c.val).due = 0 → (getChan u c.val).due = 2) ∧ regF u (.memCh c.val) Fd.memChPd = 0 ∧ u.mem = s.mem) ∧
  (∀ (c : Fin 8) (s : State), chanState s c.val = 2 → 64 ≤ (getChan s c.val).idle →
    ∃ t, exec (.channelPowerDown c) s = .next t ∧ OnlyCtl [.memCh c.val] s t ∧ regF t (.memCh c.val) Fd.memChPd = 1)

/-- The store scanners and the scan engines (R304–R310), while no load writes the stores of the quire: a press-store block that
cannot be read is reloaded from its image slot and dooms its tile; an engine is claimed and starts, or is refused with FAULT, and
unclaimed where it names an activity of the other world; a release frees it; a block that agrees
with its expected word goes on, one that does not raises MISMATCH, and a generating engine writes the word. Where the spec is
open it follows the model's own reading (assumption 35). -/
def Obligations.Scanners : Prop :=
  (∀ (q : Fin 64) (j : Fin 17) (s : State) (ps : List (Fin 17)), running s = true →
    let c : CoreId := .tile q j
    let n := s.scan.count.get q.val 0
    let r := role s q.val j.val
    let slot := imgMap s q.val (min r 16)
    let off := 0x20000 + 1024 * (n % 32)
    r < 16 → slot ≤ 16 → 17 * q.val + slot ∈ s.scan.holds → regF s (.qrcStat q.val) Fd.qrcStatPwr = 1 → j ∈ ps →
    (∀ i, storeLoading s q.val i = false) →
    ∃ t, exec (.storeScan q ps []) s = .next t ∧ getCore t c = doomScanned (getCore s c) ∧
      (∀ i, i < 1024 → memByte t (tileBase q.val j.val + off + i) = memByte t (imgBase q.val slot + off + i)) ∧
      t.scan.count.get q.val 0 = (n + 1) % 160) ∧
  (∀ (w : World) (e : Fin 8) (v : Word) (s : State), running s = false → reaches s (.cur w) (Creg.addr (.cvsCtl e.val)) = true →
    blockStopped s 124 = false → engF s e.val Fd.cvsCtlClaimed = 0 →
    engBusy s e.val = false → Fd.cvsCtlRelease.get v = 0 →
    ∃ t, exec (.engineStart (.cur w) e v) s = .next t ∧ t.mem = s.mem ∧ t.cores = s.cores ∧
      (actWorld (Fd.cvsCtlAct.get v) ≠ w → engF t e.val Fd.cvsCtlClaimed = 0 ∧ engBusy t e.val = false ∧
        regF t (.cvsStat e.val) Fd.cvsStatFault = 1 ∧ regF t (.bdgErr w.num) Fd.bdgErrWorld = 1) ∧
      (actWorld (Fd.cvsCtlAct.get v) = w → engF t e.val Fd.cvsCtlClaimed = 1 ∧ engWorld t e.val = w ∧
        engF t e.val Fd.cvsCtlMode = Fd.cvsCtlMode.get v ∧
        (engOk t e.val = true → engBusy t e.val = true ∧ (getEngine t e.val).block = 0 ∧ SameCtl [.cvsCtl e.val] s t) ∧
        (engOk t e.val = false → engBusy t e.val = false ∧ regF t (.cvsStat e.val) Fd.cvsStatFault = 1))) ∧
  (∀ (e : Fin 8) (s : State), running s = false → reaches s (.cur (engWorld s e.val)) (Creg.addr (.cvsCtl e.val)) = true →
    blockStopped s 124 = false → engF s e.val Fd.cvsCtlClaimed = 1 →
    ∃ t, exec (.engineRelease (engWorld s e.val) e) s = .next t ∧ engF t e.val Fd.cvsCtlClaimed = 0 ∧ engBusy t e.val = false ∧
      engF t e.val Fd.cvsCtlEn = 0 ∧ SameCtl [.cvsCtl e.val] s t ∧ t.mem = s.mem ∧ t.cores = s.cores) ∧
  (∀ (e : Fin 8) (b : Nat) (s : State), running s = false → engBusy s e.val = true → sound s →
    s.budget.held.any (heldEngine e.val) = false →
    getEngine s e.val = { block := b, rgns := engRgns s e.val } →
    let n := engBytes s e.val
    let base := engStart s e.val + n * b
    let ex := engExp s e.val + 4 * b
    base + n ≤ gddrBase → gddrBase ≤ ex →
    let value := BitVec.ofNat 32 (blockCheck (engF s e.val Fd.cvsCtlPoly) base (reg s (.cvsSeq e.val)) (memBytes s base n))
    let on (t : State) : Prop := t.cores = s.cores ∧
      (b + 1 < engLen s e.val → (getEngine t e.val).block = b + 1 ∧ (getEngine t e.val).moved = 0 ∧ engBusy t e.val = true) ∧
      (b + 1 = engLen s e.val → regF t (.cvsStat e.val) Fd.cvsStatDone = 1 ∧
        engF t e.val Fd.cvsCtlBusy = engF s e.val Fd.cvsCtlRepeat)
    (engF s e.val Fd.cvsCtlMode = 0 → ∃ t, exec (.engineBlock e 0 [] []) s = .next t ∧ on t ∧ t.mem = s.mem ∧
      (memWord s ex = value → regF t (.cvsStat e.val) Fd.cvsStatMismatch = regF s (.cvsStat e.val) Fd.cvsStatMismatch) ∧
      (memWord s ex ≠ value → regF t (.cvsStat e.val) Fd.cvsStatMismatch = 1 ∧
        (regF s (.cvsStat e.val) Fd.cvsStatMismatch = 0 → regF t (.cvsFirst e.val) Fd.cvsFirstBlock = b % 2 ^ 24))) ∧
    (engF s e.val Fd.cvsCtlMode = 1 → ∃ t, exec (.engineBlock e 0 [] []) s = .next t ∧ on t ∧ memWord t ex = value ∧
      SameMemBut ex 4 s t))

/-- Folios and evidence (R244, R253, R272–R274): an activity's folio within its world's share is stored
and SUM follows, with the folio in force standing while the tick runs, one beyond it is refused with OVERCOMMIT, and a register that names an activity of the other world is refused
with WORLD; a record is staged with its CRC fields, coalesced with an equal newest one, and counted by class; FLUSH takes what
is staged. Where the spec is open it follows the model's own readings (assumptions 19 and 44). -/
def Obligations.BudgetsAndEvidence : Prop :=
  (∀ (a : Fin 64) (v : Word) (s : State),
    let w := actWorld a.val
    reaches s (.cur w) (Creg.addr (.bdgAct a.val)) = true →
    let c := (ctlCharge (.cur w) s).2
    let sum := regF s (.bdgSum w.num) Fd.bdgSumSum + Fd.bdgActGran.get v - regF s (.bdgAct a.val) Fd.bdgActGran
    ∃ t, exec (.actWrite (.cur w) (.act a) v) s = .next t ∧
      (sum ≤ regF s (.bdgShare w.num) Fd.bdgShareShare → regF t (.bdgAct a.val) Fd.bdgActGran = Fd.bdgActGran.get v ∧
        regF t (.bdgSum w.num) Fd.bdgSumSum = sum ∧ OnlyCtl [.bdgAct a.val, .bdgSum w.num] c t ∧
        regLat t (.bdgAct a.val) = (if running s then regLat s (.bdgAct a.val) else reg t (.bdgAct a.val))) ∧
      (regF s (.bdgShare w.num) Fd.bdgShareShare < sum → OnlyCtl [.bdgErr w.num] c t ∧
        regF t (.bdgErr w.num) Fd.bdgErrOvercommit = 1 ∧
        regF t (.bdgErr w.num) Fd.bdgErrOffset = (Creg.bdgAct a.val).addr % 65536)) ∧
  (∀ (i : Fin 1088) (v : Word) (s : State),
    let w := indexWorld s i.val
    reaches s (.cur w) (Creg.addr (.bdgTfolC i.val)) = true →
    let c := (ctlCharge (.cur w) s).2
    ∃ t, exec (.actWrite (.cur w) (.tfol i) v) s = .next t ∧
      (actWorld (Fd.bdgTfolCAct.get v) = w → regF t (.bdgTfolC i.val) Fd.bdgTfolCAct = Fd.bdgTfolCAct.get v ∧
        OnlyCtl [.bdgTfolC i.val] c t) ∧
      (actWorld (Fd.bdgTfolCAct.get v) ≠ w → OnlyCtl [.bdgErr w.num] c t ∧ regF t (.bdgErr w.num) Fd.bdgErrWorld = 1)) ∧
  (∀ (h : Fin 4) (w : World) (v : Word) (s : State), reaches s (.cur w) (Creg.addr (.bdgGal h.val)) = true → hostWorld s h.val = some w →
    let c := (ctlCharge (.cur w) s).2
    ∃ t, exec (.actWrite (.cur w) (.gal h) v) s = .next t ∧
      (actWorld (Fd.bdgGalAct.get v) = w → regF t (.bdgGal h.val) Fd.bdgGalAct = Fd.bdgGalAct.get v ∧
        OnlyCtl [.bdgGal h.val] c t) ∧
      (actWorld (Fd.bdgGalAct.get v) ≠ w → OnlyCtl [.bdgErr w.num] c t ∧ regF t (.bdgErr w.num) Fd.bdgErrWorld = 1)) ∧
  (∀ (cls : Fin 32) (w : World) (unit detail : BitVec 16) (s : State), 0 < cls.val → cls.val ≤ 28 → s.evidence.held = [] →
    let r : EvRec := ⟨BitVec.ofNat 32 s.tick.count.toNat, cls.val, w.num, unit.toNat, detail.toNat, 1⟩
    ∃ t, exec (.evidenceRecord cls (some w) unit detail) s = .next t ∧ t.mem = s.mem ∧ t.cores = s.cores ∧
      regF t (.curFcnt w.num cls.val) Fd.curFcntCount = min 65535 (regF s (.curFcnt w.num cls.val) Fd.curFcntCount + 1) ∧
      (s.evidence.staged = [] → t.evidence.staged = [r]) ∧
      (∀ (l : List EvRec) (n : EvRec), s.evidence.staged = l ++ [n] → n.cls = r.cls → n.unit = r.unit → n.detail = r.detail →
        n.flags % 4 = r.flags →
        t.evidence.staged = l ++ [⟨n.tick, n.cls, r.flags + 4, n.unit, n.detail, min 65535 (n.count + 1)⟩])) ∧
  (∀ (w : World) (s : State), reaches s (.cur w) (Creg.addr (.curFlush w.num)) = true → s.flash.lower = 0 →
    s.evidence.held = [] → s.evidence.staged ≠ [] →
    ∃ t, exec (.flush w) s = .next t ∧ t.evidence.held = s.evidence.staged.take 256 ∧
      t.evidence.staged = s.evidence.staged.drop 256 ∧ t.mem = s.mem ∧ t.cores = s.cores)

/-! ### Ports -/

/-- Maldex ports (R313, R314, R316–R319, R321). Losing the signal puts a port DOWN and counts; its return brings an enabled
port from DOWN to LOCK; block lock takes LOCK to ALIGN, its loss takes ALIGN or UP to LOCK and counts; an enable group brings
up its ports that wait, once no earlier group waits. A read of the event queue takes its head. Before the deadline, at an UP
port: a frame of the running tick in good blocks, the first of its port and of its pair, publishes every channel on the slot
that owns it and queues a single control event; a frame that names another tick counts in WTICK, one whose blocks, form or
check fail counts in BAD, and neither publishes. Where the spec is open it follows the model's own reading (assumption 29:
events are injected with their frame; DOWN becomes LOCK at once). -/
def Obligations.MaldexPorts : Prop :=
  (∀ (p : Fin 32) (s : State), regF s (.mdxStat p.val) Fd.mdxStatLos = 0 → regF s (.mdxCfg p.val) Fd.mdxCfgLoop = 0 →
    ∃ t, exec (.lossOfSignal p) s = .next t ∧ mdxState t p.val = 0 ∧ regF t (.mdxStat p.val) Fd.mdxStatLos = 1 ∧
      regF t (.mdxErr p.val) Fd.mdxErrLoscnt = min 255 (regF s (.mdxErr p.val) Fd.mdxErrLoscnt + 1) ∧ t.mem = s.mem ∧ t.cores = s.cores) ∧
  (∀ (p : Fin 32) (s : State), ∃ t, exec (.maldexSignalPresent p) s = .next t ∧ regF t (.mdxStat p.val) Fd.mdxStatLos = 0 ∧
    t.mem = s.mem ∧ t.cores = s.cores ∧
    (mdxState s p.val = 0 → (getMdx s p.val).live = true → mdxState t p.val = 1) ∧
    (mdxState s p.val ≠ 0 ∨ (getMdx s p.val).live = false → mdxState t p.val = mdxState s p.val)) ∧
  (∀ (p : Fin 32) (s : State), mdxState s p.val = 1 → regF s .kprClkStat Fd.kprClkStatSdsMdx = 1 →
    ∃ t, exec (.blockLock p) s = .next t ∧ mdxState t p.val = 2 ∧ (getMdx t p.val).good = 0 ∧ t.mem = s.mem ∧ t.cores = s.cores) ∧
  (∀ (p : Fin 32) (s : State), mdxState s p.val = 2 ∨ mdxState s p.val = 3 →
    ∃ t, exec (.blockLockLoss p) s = .next t ∧ mdxState t p.val = 1 ∧ t.mem = s.mem ∧ t.cores = s.cores ∧
      regF t (.mdxErr2 p.val) Fd.mdxErr2Blkloss = min 255 (regF s (.mdxErr2 p.val) Fd.mdxErr2Blkloss + 1)) ∧
  (∀ (g : Fin 8) (s : State), (∀ p, p < 4 * g.val → mdxPending s p = false) →
    ∃ t, exec (.portEnableGroup g) s = .next t ∧ t.mem = s.mem ∧ t.cores = s.cores ∧
      ∀ p, p / 4 = g.val → mdxPending s p = true → (getMdx t p).live = true ∧
        (mdxState s p = 0 → mdxSignal s p = true → mdxState t p = 1)) ∧
  (∀ (w : World) (p : Fin 32) (s : State), running s = false → s.power.up = true →
    ∃ t, exec (.evqRead w p) s = .next t ∧ (getMdx t p.val).evq = (getMdx s p.val).evq.tail ∧
      SameCtl [.mdxEvstat p.val] s t ∧ t.mem = s.mem ∧ t.cores = s.cores) ∧
  (∀ (p : Fin 32) (blocks : List LineBlock) (s : State), running s = true → mdxState s p.val = 3 →
    blockStopped s (66 + p.val) = false → regF s (.mdxCfg p.val) Fd.mdxCfgLoop = 0 → s.tick.deadline = false →
    let bs := blocks.flatMap LineBlock.bytes
    2 ≤ bs.length →
    let e := identityOf s p.val
    let m := s.tick.count.toNat
    (leNat (bs.take 2) = m % 65536 → (getMdx s p.val).got = false → blocksGood blocks = true → ∀ f, frameContent bs m = some f →
      (getMdx s e).took = false → ((ownedSlots s).map (·.1)).Nodup →
      ∃ t, exec (.maldexFrame p blocks) s = .next t ∧ (getMdx t p.val).got = true ∧
        regF t (.mdxStat p.val) Fd.mdxStatLasttick = m % 65536 ∧ t.mem = s.mem ∧ t.cores = s.cores ∧
        (∀ (c : Nat) (w : Word), f.chans[c]? = some w → ∀ slot, ingressSlot s e c = some slot →
          SMap.get t.spine.ingress slot ⟨0, false, false⟩ = ⟨w, f.cmap.contains c, true⟩) ∧
        (∀ b0 b1 b2 b3 : Byte, f.ctl = [b0, b1, b2, b3] → 1 ≤ b0.toNat ∧ b0.toNat < 8 ∨ 128 ≤ b0.toNat → (getMdx s e).evq.length < 64 →
          (getMdx t e).evq = (getMdx s e).evq ++ [BitVec.ofNat 32 (leNat [b0, b1, b2, b3])])) ∧
    (leNat (bs.take 2) ≠ m % 65536 → ∃ t, exec (.maldexFrame p blocks) s = .next t ∧ t.spine = s.spine ∧ t.stage = s.stage ∧
      regF t (.mdxErr p.val) Fd.mdxErrWtick = min 255 (regF s (.mdxErr p.val) Fd.mdxErrWtick + 1)) ∧
    (leNat (bs.take 2) = m % 65536 → (getMdx s p.val).got = false → frameContent bs m = none ∨ blocksGood blocks = false →
      ∃ t, exec (.maldexFrame p blocks) s = .next t ∧ t.spine = s.spine ∧ t.stage = s.stage ∧
        regF t (.mdxErr p.val) Fd.mdxErrBad = min 255 (regF s (.mdxErr p.val) Fd.mdxErrBad + 1)))

/-- Jack links and TDM ports (R325, R326, R330): a link to a panel pin in jack-detect mode starts at gain 0 with the pin's
state, a pin in another mode is refused with CLAIMED, and no source gives the full gain; the settling timer sets SETTLED; a
TDM frame publishes its slots in the running tick, or is held after the deadline; an egress frame carries the words latched
last; a slave's clock is lost and returns. Where the spec is open it follows the model's own readings (assumptions 28 and 30). -/
def Obligations.JacksAndTdm : Prop :=
  (∀ (g : Fin 8) (s : State), regEffF s (.egrJack g.val) Fd.egrJackSrc ≠ 0 → ∃ t, exec (.jackSettlingExpiry g) s = .next t ∧
    regF t (.egrJack g.val) Fd.egrJackSettled = 1 ∧ OnlyCtl [.egrJack g.val] s t) ∧
  (∀ (g : Fin 8) (v : Word) (s : State), running s = false → reaches s (.cur .grd) (Creg.addr (.egrJack g.val)) = true → jackSource v ≠ jackSource (regEff s (.egrJack g.val)) →
    let pin := Fd.egrJackPin.get v
    (Fd.egrJackSrc.get v = 0 → ∃ t, exec (.jackLinkWrite (.cur .grd) g v) s = .next t ∧
      OnlyCtl [.egrJack g.val, .egrJgain g.val] s t ∧ regF t (.egrJgain g.val) Fd.egrJgainGain = 2 ^ 24 ∧
      regF t (.egrJack g.val) Fd.egrJackPlugged = 0 ∧ regF t (.egrJack g.val) Fd.egrJackSettled = 0) ∧
    (Fd.egrJackSrc.get v = 1 → regF s (.pnlCfg pin) Fd.pnlCfgMode ≠ 6 →
      ∃ t, exec (.jackLinkWrite (.cur .grd) g v) s = .next t ∧ OnlyCtl [.egrErr] s t ∧ regF t .egrErr Fd.egrErrClaimed = 1) ∧
    (Fd.egrJackSrc.get v = 1 → regF s (.pnlCfg pin) Fd.pnlCfgMode = 6 → jackOfPin s pin = none →
      ∃ t, exec (.jackLinkWrite (.cur .grd) g v) s = .next t ∧ OnlyCtl [.egrJack g.val, .egrJgain g.val] s t ∧
        regF t (.egrJgain g.val) Fd.egrJgainGain = 0 ∧ regF t (.egrJack g.val) Fd.egrJackSettled = 0 ∧
        regF t (.egrJack g.val) Fd.egrJackPlugged = (if (s.panel.pin.get pin {}).active then 1 else 0))) ∧
  (∀ (n : Fin 16) (slots : List Word) (s : State), running s = true → tdmOn s n.val = true → tdmClocked s n.val = true →
    blockStopped s (98 + n.val) = false →
    let ws := (slots.take (tdmSlots s n.val)).map (tdmData s n.val)
    ∃ t, exec (.tdmFrame n slots) s = .next t ∧ t.mem = s.mem ∧ t.cores = s.cores ∧
      (s.tick.deadline = false → ((ownedSlots s).map (·.1)).Nodup → (getTdm t n.val).got = true ∧
        ∀ (c : Nat) (w : Word), ws[c]? = some w → ∀ slot, ingressSlot s (32 + n.val) c = some slot →
          SMap.get t.spine.ingress slot ⟨0, false, false⟩ = ⟨w, false, true⟩) ∧
      (s.tick.deadline = true → (getTdm t n.val).gotNext = true ∧ (getTdm t n.val).heldNext = ws ∧ t.spine = s.spine)) ∧
  (∀ (n : Fin 16) (ws : List Word) (s : State), tdmOn s n.val = true → tdmClocked s n.val = true →
    (getTdm s n.val).latch = some ws →
    ∃ t, exec (.tdmEgressFrame n) s = .next t ∧ (getTdm t n.val).sent = ws ∧ (getTdm t n.val).latch = some ws ∧
      (getTdm t n.val).sends = (getTdm s n.val).sends + 1 ∧ t.mem = s.mem ∧ t.cores = s.cores ∧
      regF t (.tdmStat n.val) Fd.tdmStatSlip = (if tdmMaster s n.val = false ∧ 1 ≤ (getTdm s n.val).sends
        then min 255 (regF s (.tdmStat n.val) Fd.tdmStatSlip + 1) else regF s (.tdmStat n.val) Fd.tdmStatSlip)) ∧
  (∀ (n : Fin 16) (s : State), tdmMaster s n.val = false →
    ∃ t u, exec (.tdmClockLoss n) s = .next t ∧ exec (.tdmBclkReturn n) s = .next u ∧
      tdmClocked t n.val = false ∧ OnlyCtl [.tdmStat n.val] s t ∧ tdmClocked u n.val = true ∧ OnlyCtl [.tdmStat n.val] s u)

/-- The network ports (R333–R340). An enable is stored, or refused with its reasons and the stream's number. A media packet
that fits a frame places its samples; a sample is published at once where its tick runs and the deadline has not come, is held
under its media count where that lies 1 to 511 ticks ahead, and counts in LATE beyond that. A transmit packet due leaves, with
its tag, once no lower stream of its port is due. A PTP message leaves its timestamp, STATE (a slave-only port is never
master), offset and the counts of good and bad offsets; an event message sent leaves its timestamp and, one-step, its residence
time as the correction. A control frame with a bad check, or PAUSE, is counted; one to the port or to all is queued; a read
POPs the queue, SEND queues the window. A link change is shown. Where the spec is open it follows the model's own reading
(assumption 31). -/
def Obligations.Network : Prop :=
  (∀ (tx : Bool) (n : Fin 64) (v : Word) (s : State), running s = false → reaches s (.cur .prg) (Creg.addr (sCfg tx n.val)) = true → Fd.ethRxsCfgEn.get v = 1 →
    let bad := streamRefusals s tx n.val v
    ∃ t, exec (.streamEnable (.cur .prg) tx n v) s = .next t ∧
      (bad = 0 → OnlyCtl [sCfg tx n.val] s t ∧ regF t (sCfg tx n.val) Fd.ethRxsCfgEn = 1 ∧
        regF t (sCfg tx n.val) Fd.ethRxsCfgUdp = Fd.ethRxsCfgUdp.get v ∧ regF t (sCfg tx n.val) Fd.ethRxsCfgPort = Fd.ethRxsCfgPort.get v) ∧
      (bad ≠ 0 → OnlyCtl [.ethErr] s t ∧ regF t .ethErr Fd.ethErrStream = n.val + (if tx then 64 else 0) ∧
        BitVec.ofNat 32 bad &&& reg t .ethErr = BitVec.ofNat 32 bad)) ∧
  (∀ (e : Fin 2) (dest : Word) (udp : BitVec 16) (pt : BitVec 7) (stamp : Word) (payload : List Byte) (s : State),
    running s = true → ethUp s e.val = true → blockStopped s 114 = false → frameFits (54 + payload.length) = true →
    ∀ n, matchStream s e.val dest udp.toNat pt.toNat = some n →
    let nch := nchOf (regLat s (.ethRxsMap n))
    let bps := sampleBytes (Fd.ethRxsCfgFmt.get (regLat s (.ethRxsCfg n)))
    ∃ t, exec (.mediaPacket e dest udp pt stamp payload) s = .next t ∧ t.mem = s.mem ∧ t.cores = s.cores ∧
      t = noteHeld (64 + n) ((stamp.toNat + Fd.ethRxsMapOffset.get (regLat s (.ethRxsMap n))) % 2 ^ 32) (payload.length / (nch * bps))
        (placePayload n nch bps stamp (payload.length / (nch * bps) * nch) 0 payload s)) ∧
  (∀ (n i c : Nat) (stamp v : Word) (s : State), n < 64 → c < 64 → running s = true →
    let m := stamp.toNat + i + Fd.ethRxsMapOffset.get (regLat s (.ethRxsMap n))
    let d := (m + 2 ^ 32 - (mediaCount s).toNat % 2 ^ 32) % 2 ^ 32
    let key := 64 * (m % 2 ^ 32) + c
    let t := placeSample n stamp i c v s
    (511 < d → OnlyCtl [.ethRxsCnt n] s t ∧
      regF t (.ethRxsCnt n) Fd.ethRxsCntLate = min 65535 (regF s (.ethRxsCnt n) Fd.ethRxsCntLate + 1)) ∧
    (d = 0 → s.tick.deadline = false → 64 * n + c ∉ s.eth.now → ∀ slot,
      ingressSlot s (48 + Fd.ethRxsCfgPort.get (regLat s (.ethRxsCfg n))) (Fd.ethRxsMapBase.get (regLat s (.ethRxsMap n)) + c) = some slot →
      SMap.get t.spine.ingress slot ⟨0, false, false⟩ = ⟨v, false, true⟩ ∧ t.ctl = s.ctl) ∧
    (0 < d → d ≤ 511 → (∀ x ∈ rxOf s n, x.1 ≠ key) →
      SMap.get (rxOf t n) key 0 = v ∧ t.ctl = s.ctl ∧ t.spine = s.spine)) ∧
  (∀ (n : Fin 64) (s : State) (p : Word × List Byte), (getTxs s n.val).ready = some p →
    let port (i : Nat) : Nat := Fd.ethRxsCfgPort.get (regLat s (.ethTxsCfg i))
    streamOn s true n.val = true → s.tick.cycle ≤ 4000 →
    (∀ i, i < n.val → (getTxs s i).ready = none ∨ port i ≠ port n.val) →
    ∃ t, exec (.streamPacketTx n) s = .next t ∧ (getTxs t n.val).ready = none ∧ SameCtl [.ethCtx (port n.val)] s t ∧ t.mem = s.mem ∧
      (ethUp s (port n.val) = true → (getTxs t n.val).sent = some (vlanTag s, p))) ∧
  (∀ (e : Fin 2) (stamp : BitVec 64) (o : Word) (st : Fin 3) (s : State), ethUp s e.val = true → blockStopped s 114 = false →
    regF s .ethPtpcfg Fd.ethPtpcfgPort = e.val →
    let one := regF s .ethPtpcfg Fd.ethPtpcfgOnestep = 1
    let role := if st.val = 2 ∧ regF s .ethPtpcfg Fd.ethPtpcfgSlaveonly = 1 then 0 else st.val
    (∀ origin : BitVec 64, ∃ u, exec (.ptpEventTransmit stamp origin) s = .next u ∧ { u with eth := s.eth } = s ∧
      u.eth.stampTx = stamp ∧ (one → u.eth.corrTx = (stamp - origin) * 2 ^ 15) ∧ (¬one → u.eth.corrTx = 0)) ∧
    (∃ t, exec (.ptpMessage e stamp none st) s = .next t ∧ t.eth = { s.eth with stampRx := stamp } ∧
      regF t .ethPtpstat Fd.ethPtpstatState = role ∧ SameCtl [.ethPtpstat] s t) ∧
    ((1000 < o.toInt.natAbs → s.eth.bad < 3) →
      ∃ t, exec (.ptpMessage e stamp (some o) st) s = .next t ∧
        t.eth.stampRx = stamp ∧ regF t .ethPtpstat Fd.ethPtpstatState = role ∧ reg t .ethPtpofs = o ∧
        t.eth.good = (if o.toInt.natAbs ≤ 250 then s.eth.good + 1 else 0) ∧
        t.eth.bad = (if 1000 < o.toInt.natAbs then s.eth.bad + 1 else 0) ∧
        SameCtl [.ethPtpstat, .ethPtpofs] s t)) ∧
  (∀ (e : Fin 2) (bs : List Byte) (s : State), ethUp s e.val = true → blockStopped s 114 = false →
    (∃ t, exec (.controlFrame e bs false) s = .next t ∧ OnlyCtl [.ethPortstat e.val] s t ∧
      regF t (.ethPortstat e.val) Fd.ethPortstatFcserr = min 255 (regF s (.ethPortstat e.val) Fd.ethPortstatFcserr + 1)) ∧
    (etherType bs = 0x8808 → ∃ t, exec (.controlFrame e bs true) s = .next t ∧ OnlyCtl [.ethPortstat e.val] s t ∧
      regF t (.ethPortstat e.val) Fd.ethPortstatPause = min 255 (regF s (.ethPortstat e.val) Fd.ethPortstatPause + 1)) ∧
    (etherType bs ≠ 0x8808 → frameTaken s e.val bs = false →
      beNat (bs.take 6) = macOf s e.val ∨ beNat (bs.take 6) = 0xFFFFFFFFFFFF → frameFits bs.length = true → (getEth s e.val).crx.length < 32 →
      ∃ t, exec (.controlFrame e bs true) s = .next t ∧ (getEth t e.val).crx = (getEth s e.val).crx ++ [bs] ∧
        regF t (.ethCrx e.val) Fd.ethCrxLevel = (getEth s e.val).crx.length + 1 ∧ SameCtl [.ethCrx e.val] s t ∧ t.mem = s.mem)) ∧
  (∀ (e : Fin 2) (v : Word) (s : State), running s = false → reaches s (.cur .prg) (Creg.addr (.ethCrx e.val)) = true →
    reaches s (.cur .prg) (Creg.addr (.ethCtx e.val)) = true → Fd.ethCtxSend.get v = 1 →
    ∃ t u, exec (.pop .prg e) s = .next t ∧ exec (.ctxSend .prg e v) s = .next u ∧
      (getEth t e.val).crx = (getEth s e.val).crx.tail ∧ SameCtl [.ethCrx e.val] s t ∧ t.mem = s.mem ∧
      SameCtl [.ethCtx e.val] s u ∧ u.mem = s.mem ∧
      ((getEth s e.val).ctx.length < 8 → (getEth u e.val).ctx = (getEth s e.val).ctx ++
        [((List.range 384).flatMap (fun i => wordBytes ((getEth s e.val).win.get (4 * i) 0))).take (Fd.ethCtxLen.get v)]) ∧
      (8 ≤ (getEth s e.val).ctx.length → (getEth u e.val).ctx = (getEth s e.val).ctx)) ∧
  (∀ (e : Fin 2) (s : State), ∃ t u, exec (.ethLinkChange e false) s = .next t ∧ exec (.ethLinkChange e true) s = .next u ∧
    OnlyCtl [.ethPortstat e.val] s t ∧ regF t (.ethPortstat e.val) Fd.ethPortstatLink = 0 ∧
    (regF s .kprClkStat Fd.kprClkStatSdsEth = 1 → regF s (.ethPortstat e.val) Fd.ethPortstatMode ≠ 0 →
      regF s .ethCfg Fd.ethCfgEn / 2 ^ e.val % 2 = 1 → OnlyCtl [.ethPortstat e.val] s u ∧
      regF u (.ethPortstat e.val) Fd.ethPortstatLink = 1))

/-- Panel pins (R343–R347, R349), with the main die powered. A sample shows on IN the level of a pin that drives none, and a
button or jack pin takes the new state once 8 × (DEB + 1) samples in a row show it; other pins keep their state. A held button
queues its held event, once. A touch burst leaves its COUNT and OVR, and one 2^HYST or more from the last event's level queues
the touch event where the queue has room. A write to a pin of the other world is refused with CLAIMED, jack-detect by the
programme world with WORLD; another mode than touch, on a free unlinked pin, claims it for the writer's world. A read of a queue
removes its oldest event. Where the spec is open it follows the model's own reading (assumption 32). -/
def Obligations.PanelPins : Prop :=
  (∀ (levels : Word) (s : State), s.power.up = true →
    ∃ t, exec (.panelSample levels) s = .next t ∧ t.mem = s.mem ∧ t.cores = s.cores ∧ ∀ k, k < 32 →
    let p := getPin s k
    let active := levels.getLsbD k == (regF s (.pnlCfg k) Fd.pnlCfgPol == 1)
    let full := 8 * (regF s (.pnlCfg k) Fd.pnlCfgDeb + 1)
    (pinDriven s k = none → regF t (.pnlCfg k) Fd.pnlCfgIn = (if levels.getLsbD k then 1 else 0)) ∧
    (pinMode s k ≠ 4 → pinMode s k ≠ 6 → getPin t k = { p with ext := levels.getLsbD k }) ∧
    (pinMode s k = 4 ∨ pinMode s k = 6 →
      (active = p.active → (getPin t k).active = p.active ∧ (getPin t k).run = 0) ∧
      (active ≠ p.active → p.run + 1 < full → (getPin t k).active = p.active ∧ (getPin t k).run = p.run + 1) ∧
      (active ≠ p.active → full ≤ p.run + 1 → (getPin t k).active = active ∧ (getPin t k).run = 0))) ∧
  (∀ (k : Fin 32) (s : State), s.power.up = true → pinMode s k.val = 4 → (getPin s k.val).active = true → (getPin s k.val).holding = true →
    let w := pinWorld s k.val
    ∃ t, exec (.buttonHeld k) s = .next t ∧ (getPin t k.val).holding = false ∧ t.mem = s.mem ∧ t.cores = s.cores ∧
      SameCtl [.pnlEvstat w.num] s t ∧ ((panelQueue s w).length < 32 →
        panelQueue t w = panelQueue s w ++ [BitVec.ofNat 32 (2 + 256 * k.val)])) ∧
  (∀ (j : Fin 16) (count : Fin 4096) (s : State), s.power.up = true → pinMode s (2 * j.val) = 5 →
    let w := pinWorld s (2 * j.val)
    let level := regF s (.pnlTch j.val) Fd.pnlTchBase - count.val
    let last := (getPin s (2 * j.val)).level
    let far : Prop := 2 ^ regF s (.pnlTch j.val) Fd.pnlTchHyst ≤ max level last - min level last
    ∃ t, exec (.touchBurst j count) s = .next t ∧ regF t (.pnlTch j.val) Fd.pnlTchCount = count.val ∧
      regF t (.pnlTch j.val) Fd.pnlTchOvr = (if count.val = 4095 then 1 else 0) ∧ t.mem = s.mem ∧ t.cores = s.cores ∧
      (far → (panelQueue s w).length < 32 → (getPin t (2 * j.val)).level = level ∧
        panelQueue t w = panelQueue s w ++ [BitVec.ofNat 32 (5 + 256 * (2 * j.val) + 65536 * level)]) ∧
      (¬far → t.panel = s.panel)) ∧
  (∀ (w : World) (k : Fin 32) (v : Word) (s : State), running s = false → reaches s (.cur w) (Creg.addr (.pnlCfg k.val)) = true →
    let mode := Fd.pnlCfgMode.get v
    let refused (f : Fld) : Prop := ∃ t, exec (.pnlCfgWrite (.cur w) k v) s = .next t ∧ reg t (.pnlCfg k.val) = reg s (.pnlCfg k.val) ∧
      regF t (.pnlErr w.num) f = 1 ∧ regF t (.pnlErr w.num) Fd.pnlErrPin = k.val ∧ t.panel = s.panel
    (regF s (.pnlCfg k.val) Fd.pnlCfgClaimed = 1 → pinWorld s k.val ≠ w → refused Fd.pnlErrClaimed) ∧
    (regF s (.pnlCfg k.val) Fd.pnlCfgClaimed = 0 → mode = 6 → w = .prg → refused Fd.pnlErrWorld) ∧
    (regF s (.pnlCfg k.val) Fd.pnlCfgClaimed = 0 → pinMode s k.val = 0 → (k.val % 2 = 1 → pinMode s (k.val - 1) ≠ 5) →
      mode ≠ 0 → mode ≠ 5 → (mode = 6 → w = .grd) → jackOfPin s k.val = none →
      ∃ t, exec (.pnlCfgWrite (.cur w) k v) s = .next t ∧ pinMode t k.val = mode ∧ pinWorld t k.val = w ∧
        regF t (.pnlCfg k.val) Fd.pnlCfgClaimed = 1 ∧ regF t (.pnlCfg k.val) Fd.pnlCfgDeb = Fd.pnlCfgDeb.get v ∧
        SameCtl [.pnlCfg k.val] s t ∧ t.mem = s.mem ∧ t.cores = s.cores)) ∧
  (∀ (w q : World) (s : State), running s = false → s.power.up = true →
    ∃ t, exec (.pnlEvqRead w q) s = .next t ∧ panelQueue t q = (panelQueue s q).tail ∧ SameCtl [.pnlEvstat q.num] s t ∧
      t.mem = s.mem ∧ t.cores = s.cores)

/-- Serial ports (R350–R358), with the serial clock. A received character joins the receive queue with its error bits, a break
(all low) as a break item with BRKIRQ, and with 16 items queued it is lost and counts in OVR; the character that wakes is
marked. A character sent leaves, and the next goes on the line: a start bit, the data bits least significant first, the parity
bit where one is sent, the stop bits. A write queues a character or sends it at once, or is lost and counts in TXOVF; a read
takes the oldest item; the idle timer sets TOIRQ; a held line shows HELD, and its release clears it; a divisor of 256 or more
takes effect; a low CTS starts a waiting character. Where the spec is open it follows the model's own reading (assumption 32). -/
def Obligations.SerialPorts : Prop :=
  let onLine (s : State) (n : Nat) (b : Byte) : List Bool :=
    let len := if serBit s n Fd.serCfgDbits then 7 else 8
    let par := (List.range len).foldl (fun p i => p != b.getLsbD i) false
    [false] ++ (List.range len).map (fun i => b.getLsbD i) ++
      (if regEffF s (.serCfg n) Fd.serCfgPar = 0 then [] else [par != (regEffF s (.serCfg n) Fd.serCfgPar == 2)]) ++
      (if serBit s n Fd.serCfgStop2 then [true, true] else [true])
  (∀ (n : Fin 4) (ch : RxChar) (s : State), serClock s = true → blockStopped s (120 + n.val) = false → ch.back = 0 → ch.read = false →
    ((getUart s n.val).broke = true → ch.gap = true) →
    ((getUart s n.val).wake = true → 3200 ≤ regEffF s (.serBaud n.val) Fd.serBaudDiv) →
    serBit s n.val Fd.serCfgEn = true → regF s (.serStat n.val) Fd.serStatHeld = 0 → serBit s n.val Fd.serCfgRs485 = false →
    let u := getUart s n.val
    let data := if serBit s n.val Fd.serCfgDbits then ch.data &&& 0x7F#8 else ch.data
    let stop := ch.stop && (!serBit s n.val Fd.serCfgStop2 || ch.stop2)
    let low := !ch.stop && (!serBit s n.val Fd.serCfgStop2 || !ch.stop2)
    let mode := regEffF s (.serCfg n.val) Fd.serCfgPar
    let brk : Prop := data = 0 ∧ low = true ∧ (mode = 0 ∨ ch.par = false)
    let pe := decide (mode ≠ 0) && (ch.par != (parityOf data != decide (mode = 2)))
    let woke := if u.wake then 2048 else 0
    ∃ t, exec (.receiveCharacter n ch) s = .next t ∧ t.mem = s.mem ∧ t.cores = s.cores ∧ (getUart t n.val).idle = true ∧
      (16 ≤ u.rx.length → (getUart t n.val).rx = u.rx ∧
        regF t (.serStat n.val) Fd.serStatOvr = min 255 (regF s (.serStat n.val) Fd.serStatOvr + 1)) ∧
      (u.rx.length < 16 → brk → (getUart t n.val).rx = u.rx ++ [BitVec.ofNat 32 (1024 + woke)] ∧
        regF t (.serStat n.val) Fd.serStatBrkirq = 1) ∧
      (u.rx.length < 16 → ¬brk → (getUart t n.val).rx = u.rx ++
          [BitVec.ofNat 32 (data.toNat + (if pe then 256 else 0) + (if stop then 0 else 512) + woke)] ∧
        (pe = true ∨ stop = false →
          regF t (.serStat n.val) Fd.serStatErrs = min 255 (regF s (.serStat n.val) Fd.serStatErrs + 1)))) ∧
  (∀ (n : Fin 4) (s : State) (b : List Bool), serClock s = true → (getUart s n.val).shift = some b →
    let u := getUart s n.val
    let may : Prop := serBit s n.val Fd.serCfgEn = true ∧ serBit s n.val Fd.serCfgBrk = false ∧ serBit s n.val Fd.serCfgFlow = false
    ∃ t, exec (.transmitCharacter n) s = .next t ∧ (getUart t n.val).sent = some b ∧ t.mem = s.mem ∧ t.cores = s.cores ∧
      (u.tx = [] → (getUart t n.val).shift = none) ∧
      (∀ x r, u.tx = x :: r → may → (getUart t n.val).shift = some (onLine s n.val x) ∧ (getUart t n.val).tx = r)) ∧
  (∀ (n : Fin 4) (v : Word) (s : State), blockStopped s (120 + n.val) = false →
    let w : World := if n.val = 1 then .grd else .prg
    reaches s (.cur w) (Creg.addr (.serData n.val)) = true →
    let u := getUart s n.val
    let b := BitVec.ofNat 8 v.toNat
    ∃ t, exec (.serDataWrite (.cur w) n v) s = .next t ∧ (getUart t n.val).rx = u.rx ∧ t.mem = s.mem ∧ t.cores = s.cores ∧
      (16 ≤ u.tx.length → (getUart t n.val).tx = u.tx ∧
        regF t (.serStat n.val) Fd.serStatTxovf = min 255 (regF s (.serStat n.val) Fd.serStatTxovf + 1)) ∧
      (u.tx.length < 16 → u.shift ≠ none ∨ serBit s n.val Fd.serCfgEn = false → (getUart t n.val).tx = u.tx ++ [b]) ∧
      (u.tx = [] → u.shift = none → serBit s n.val Fd.serCfgEn = true → serBit s n.val Fd.serCfgBrk = false →
        serBit s n.val Fd.serCfgFlow = false → serClock s = true →
        (getUart t n.val).shift = some (onLine s n.val b) ∧ (getUart t n.val).tx = [])) ∧
  (∀ (w : World) (n : Fin 4) (s : State), running s = false → s.power.up = true →
    ∃ t, exec (.serDataRead w n) s = .next t ∧ (getUart t n.val).rx = (getUart s n.val).rx.tail ∧
      (getUart t n.val).tx = (getUart s n.val).tx ∧ t.mem = s.mem ∧ t.cores = s.cores) ∧
  (∀ (n : Fin 4) (s : State), serClock s = true → (getUart s n.val).idle = true → (getUart s n.val).rx ≠ [] →
    regF s (.serFlow n.val) Fd.serFlowTout ≠ 0 → regF s (.serStat n.val) Fd.serStatHeld = 0 →
    ∃ t, exec (.receiveTimeout n) s = .next t ∧ regF t (.serStat n.val) Fd.serStatToirq = 1 ∧ (getUart t n.val).idle = false ∧
      SameCtl [.serStat n.val] s t ∧ t.mem = s.mem) ∧
  (∀ (n : Fin 4) (s : State), serClock s = true → ∃ t, exec (.heldClear n) s = .next t ∧ SameCtl [.serStat n.val] s t ∧
    t.mem = s.mem ∧ t.cores = s.cores ∧ (getUart t n.val).broke = false ∧
    regF t (.serStat n.val) Fd.serStatHeld = 0 ∧ (serBit s n.val Fd.serCfgEn = true → ∃ u, exec (.lineHeld n) s = .next u ∧
      OnlyCtl [.serStat n.val] s u ∧ regF u (.serStat n.val) Fd.serStatHeld = 1)) ∧
  (∀ (n : Fin 4) (v : Word) (s : State),
    let w : World := if n.val = 1 then .grd else .prg
    reaches s (.cur w) (Creg.addr (.serBaud n.val)) = true →
    let d := Fd.serBaudDiv.get v
    ∃ t, exec (.serBaudWrite (.cur w) n v) s = .next t ∧ SameCtl [.serBaud n.val] s t ∧ t.mem = s.mem ∧ t.cores = s.cores ∧
      (getUart t n.val).shift = (getUart s n.val).shift ∧ regF t (.serBaud n.val) Fd.serBaudDiv = d ∧
      regEffF t (.serBaud n.val) Fd.serBaudDiv = (if 256 ≤ d then d else regEffF s (.serBaud n.val) Fd.serBaudDiv)) ∧
  (∀ (n : Fin 4) (low : Bool) (s : State), ∃ t, exec (.ctsChange n low) s = .next t ∧ t.mem = s.mem ∧ t.cores = s.cores ∧
    regF t (.serFlow n.val) Fd.serFlowCts = (if low then 1 else 0) ∧
    (low = true → serClock s = true → (getUart s n.val).shift = none → serBit s n.val Fd.serCfgEn = true → serBit s n.val Fd.serCfgBrk = false →
      ∀ b r, (getUart s n.val).tx = b :: r → (getUart t n.val).shift = some (onLine s n.val b) ∧ (getUart t n.val).tx = r))

/-- Host ports (R360, R364–R372). Where the binder code reads clean, an access through BAR0 of the lead port moves bytes of the
archives before a release, once quire 7 is ready, and its writes count in STGDROP while it is not or a release is under way; in
stage 3 it moves bytes of the open staging region, within its limit. With no tick running, an access through BAR2 to the gallery's
own regions moves bytes of the window, and the last five words of a ring's header read 0; a write inside the 512 bytes of headers
is dropped and counts in HDRDROP; a doorbell moves its index within the bounds of the ring, and counts in DERR beyond. A
device-side index write is applied within its bounds, or counts in PERR, or loses the oldest entries of an output ring. A
notice is sent, pends where its vector is masked, and is lost where MSI-X or bus mastering is off or the function is in D3hot.
Links come up with the host's configuration and go down with their count; the staging window opens only over a programme
region of 32 MiB; a window is placed only inside the gallery's regions; a ring with a valid layout is stored. Where the spec is
open it follows the model's own reading (assumption 33). -/
def Obligations.HostPorts : Prop :=
  (∀ (h : Fin 4) (off : Nat) (bs : List Byte) (n g : Nat) (s : State), hostOpen s h.val = true → isLead s h.val = true →
    blockStopped s (115 + h.val) = false → (∀ x, clean s x = true) → bootStage s ≠ 3 →
    let released : Prop := bootStage s = 1 ∨ bootStage s = 2
    ((getQuire s 7).raised = true → ¬released →
      ∃ t u, exec (.bar0Access h off (.write bs) g [] []) s = .next t ∧ exec (.bar0Access h off (.read n) g [] []) s = .next u ∧
        memBytes t (archBase 0 + off) bs.length = bs ∧ SameMemBut (archBase 0 + off) bs.length s t ∧ t.ctl = s.ctl ∧ t.cores = s.cores ∧
        (getHost u h.val).rd = memBytes s (archBase 0 + off) n ∧ (getHost u h.val).ep = false ∧ u.mem = s.mem) ∧
    ((getQuire s 7).raised = false ∨ (released ∧ regF s .truBoot Fd.truBootSource = 0 ∧ regF s .truBoot Fd.truBootFastwake = 0) →
      ∃ t, exec (.bar0Access h off (.write bs) g [] []) s = .next t ∧ OnlyCtl [.hstErr h.val] s t ∧
        regF t (.hstErr h.val) Fd.hstErrStgdrop = min 255 (regF s (.hstErr h.val) Fd.hstErrStgdrop + 1))) ∧
  (∀ (h : Fin 4) (off : Nat) (bs : List Byte) (g lo hi : Nat) (s : State), hostOpen s h.val = true → running s = false → isLead s h.val = true →
    blockStopped s (115 + h.val) = false → bootStage s = 3 → stagingRange s h.val = some (lo, hi) → sound s → s.live.world = none →
    (lo + off + bs.length ≤ hi → (∀ p ∈ pieces (bs.length + 1) (lo + off) bs.length, galleryAddr s h.val p.1 true = true) →
      ∃ t, exec (.bar0Access h off (.write bs) g [] []) s = .next t ∧ memBytes t (lo + off) bs.length = bs ∧
        SameMemBut (lo + off) bs.length s t ∧ SameCtl chanRegs s t ∧ t.cores = s.cores) ∧
    (hi < lo + off + bs.length → ∃ t, exec (.bar0Access h off (.write bs) g [] []) s = .next t ∧ OnlyCtl [.hstErr h.val] s t ∧
      regF t (.hstErr h.val) Fd.hstErrStgdrop = min 255 (regF s (.hstErr h.val) Fd.hstErrStgdrop + 1))) ∧
  (∀ (h : Fin 4) (off : Nat) (bs : List Byte) (n g b : Nat) (s : State), hostOpen s h.val = true → running s = false →
    blockStopped s (115 + h.val) = false →
    windowBase s h.val = some b → sound s → s.live.world = none →
    (512 ≤ off → (∀ p ∈ pieces (bs.length + 1) (b + off) bs.length, galleryAddr s h.val p.1 true = true) →
      ∃ t, exec (.bar2Access h off (.write bs) g [] []) s = .next t ∧ memBytes t (b + off) bs.length = bs ∧
        SameMemBut (b + off) bs.length s t ∧ SameCtl chanRegs s t ∧ t.cores = s.cores) ∧
    ((∀ p ∈ pieces (n + 1) (b + off) n, galleryAddr s h.val p.1 false = true) →
      ∃ t, exec (.bar2Access h off (.read n) g [] []) s = .next t ∧ (getHost t h.val).rd = hideHeader s (b + off) (memBytes s (b + off) n) ∧
        (getHost t h.val).ep = false ∧ t.mem = s.mem ∧ SameCtl chanRegs s t ∧ t.cores = s.cores) ∧
    (off + bs.length ≤ 512 → off < 512 → (∀ p ∈ pieces (bs.length + 1) (b + off) bs.length, galleryAddr s h.val p.1 true = true) → ∃ t, exec (.bar2Access h off (.write bs) g [] []) s = .next t ∧ t.mem = s.mem ∧
      t.cores = s.cores ∧ SameCtl [.hstErr h.val] s t ∧ regF t (.hstErr h.val) Fd.hstErrHdrdrop = min 255 (regF s (.hstErr h.val) Fd.hstErrHdrdrop + 1))) ∧
  (∀ (h : Fin 4) (r : Fin 16) (v : Word) (a : Nat) (s : State), hostOpen s h.val = true → running s = false →
    blockStopped s (115 + h.val) = false → ringHeader s h.val r.val = some a → sound s →
    let prod := memWord s a
    let cons := memWord s (a + 4)
    let taken (w : Nat) (t : State) : Prop := memWord t (a + w) = v ∧ SameMemBut (a + w) 4 s t ∧ SameCtl chanRegs s t ∧
      (getHost t h.val).db.get r.val 0 = v
    ∃ t, exec (.doorbell h (.bell r) v) s = .next t ∧ t.cores = s.cores ∧
      (ringIn s h.val r.val = true → (ahead prod v < 2 ^ 31 ∧ ahead cons prod + ahead prod v ≤ ringN s h.val r.val →
          taken 0 t) ∧
        (2 ^ 31 ≤ ahead prod v ∨ ringN s h.val r.val < ahead cons prod + ahead prod v → t.mem = s.mem ∧
          SameCtl (.hstRstat h.val r.val :: chanRegs) s t ∧
          regF t (.hstRstat h.val r.val) Fd.hstRstatDerr = min 255 (regF s (.hstRstat h.val r.val) Fd.hstRstatDerr + 1))) ∧
      (ringIn s h.val r.val = false → (ahead cons v ≤ ahead cons prod → taken 4 t) ∧
        (ahead cons prod < ahead cons v → 2 ^ 31 ≤ ahead cons v → t.mem = s.mem ∧ SameCtl chanRegs s t) ∧
        (ahead cons prod < ahead cons v → ahead cons v < 2 ^ 31 → t.mem = s.mem ∧ SameCtl (.hstRstat h.val r.val :: chanRegs) s t ∧
          regF t (.hstRstat h.val r.val) Fd.hstRstatDerr = min 255 (regF s (.hstRstat h.val r.val) Fd.hstRstatDerr + 1)))) ∧
  (∀ (h : Fin 4) (r : Fin 16) (core : Nat) (v : Word) (a : Nat) (s : State),
    (getHost s h.val).idx.find? (fun x => x.1 == r.val) = some (r.val, core, v) → entryPending s core h.val r.val = false →
    ringHeader s h.val r.val = some a → sound s →
    let prod := memWord s a
    let cons := memWord s (a + 4)
    let keep := if galleryUp s h.val then ringN s h.val r.val else 0
    ∃ t, exec (.ringProdApply h r) s = .next t ∧ t.cores = s.cores ∧
      (getHost t h.val).idx = (getHost s h.val).idx.eraseP (fun x => x.1 == r.val) ∧
      (ringIn s h.val r.val = true →
        (0 < ahead prod v → ahead prod v < 2 ^ 31 → t.mem = s.mem ∧
          regF t (.hstRstat h.val r.val) Fd.hstRstatPerr = min 255 (regF s (.hstRstat h.val r.val) Fd.hstRstatPerr + 1)) ∧
        (ahead prod v = 0 ∨ 2 ^ 31 ≤ ahead prod v → memWord t (a + 4) = v ∧ SameMemBut (a + 4) 4 s t ∧
          SameCtl chanRegs s t)) ∧
      (ringIn s h.val r.val = false →
        (2 ^ 31 < ahead prod v → t.mem = s.mem ∧
          regF t (.hstRstat h.val r.val) Fd.hstRstatPerr = min 255 (regF s (.hstRstat h.val r.val) Fd.hstRstatPerr + 1)) ∧
        (ahead prod v ≤ 2 ^ 31 → ahead cons v ≤ keep → memWord t a = v ∧ SameMemBut a 4 s t ∧
          SameCtl chanRegs s t) ∧
        (ahead prod v ≤ 2 ^ 31 → keep < ahead cons v → memWord t a = v ∧ memWord t (a + 4) = v - BitVec.ofNat 32 keep ∧
          memWord t (a + 8) = memWord s (a + 8) + BitVec.ofNat 32 (ahead cons v - keep) ∧ SameMemBut a 12 s t ∧
          regF t (.hstRstat h.val r.val) Fd.hstRstatLost =
            min 65535 (regF s (.hstRstat h.val r.val) Fd.hstRstatLost + (ahead cons v - keep))))) ∧
  (∀ (w : World) (h : Fin 4) (v : Word) (s : State), reaches s (.cur w) (Creg.addr (.hstNote h.val)) = true → hostWorld s h.val = some w → galleryUp s h.val = true →
    let p := getHost s h.val
    let vec := Fd.hstNoteVec.get v
    ∃ t, exec (.note (.cur w) h v) s = .next t ∧ SameCtl [.hstNote h.val] s t ∧ t.mem = s.mem ∧ t.cores = s.cores ∧
      let on : Prop := p.msix = true ∧ p.bme = true ∧ p.d3 = false
      (on → vec ∉ p.mask → (getHost t h.val).sent = p.sent ++ [vec]) ∧
      (on → vec ∈ p.mask → vec ∈ (getHost t h.val).pba ∧ (getHost t h.val).sent = p.sent) ∧
      (¬on → getHost t h.val = p)) ∧
  (∀ (h : Fin 4) (s : State), galleryUp s h.val = true →
    ∃ t, exec (.hostLinkDown h) s = .next t ∧ galleryUp t h.val = false ∧ regF t (.hstStat h.val) Fd.hstStatLink = 0 ∧
      regF t (.hstStat h.val) Fd.hstStatLinkdowns = min 255 (regF s (.hstStat h.val) Fd.hstStatLinkdowns + 1) ∧ t.mem = s.mem ∧
      t.cores = s.cores) ∧
  (∀ (h : Fin 4) (sp : Fin 5) (wd : Fin 3) (cfg : HostCfg) (s : State), (hostWorld s h.val).isSome = true →
    galleryUp s h.val = false → s.power.up = true → regF s .kprClkStat Fd.kprClkStatSdsHst = 1 →
    ∃ t, exec (.hostLinkUp h sp wd cfg) s = .next t ∧ galleryUp t h.val = true ∧ regF t (.hstStat h.val) Fd.hstStatLink = 1 ∧
      regF t (.hstStat h.val) Fd.hstStatSpeed = sp.val + 1 ∧ regF t (.hstStat h.val) Fd.hstStatWidth = 2 ^ wd.val ∧
      (getHost t h.val).msix = cfg.msix ∧ (getHost t h.val).bme = cfg.bme ∧ (getHost t h.val).d3 = cfg.d3 ∧ SameCtl [.hstStat h.val] s t ∧
      (∀ v, v ∈ (getHost t h.val).mask ↔ v < 16 ∧ cfg.mask.getLsbD v = true) ∧ t.mem = s.mem ∧ t.cores = s.cores) ∧
  (∀ (h : Fin 4) (v : Word) (s : State), running s = false → reaches s (.cur .prg) (Creg.addr (.hstStg h.val)) = true →
    isLead s h.val = true →
    let r := Fd.hstStgRgn.get v
    let ok : Prop := regF s (.memRgnAttr r) Fd.memRgnAttrType = 1 ∧ World.ofNum (regF s (.memRgnAttr r) Fd.memRgnAttrWorld) = .prg ∧
      (regionRange s r).1 + 0x2000000 ≤ (regionRange s r).2
    ∃ t, exec (.stgWrite (.cur .prg) h v) s = .next t ∧
      (Fd.hstStgOpen.get v = 1 → ¬ok → OnlyCtl [.hstErr2 h.val] s t ∧ regF t (.hstErr2 h.val) Fd.hstErr2Stgref = 1) ∧
      (Fd.hstStgOpen.get v = 0 ∨ ok → OnlyCtl [.hstStg h.val] s t ∧ regF t (.hstStg h.val) Fd.hstStgRgn = r ∧
        regF t (.hstStg h.val) Fd.hstStgOpen = Fd.hstStgOpen.get v)) ∧
  (∀ (w : World) (h : Fin 4) (v : Word) (s : State), running s = false → reaches s (.cur w) (Creg.addr (.hstWin h.val)) = true → hostWorld s h.val = some w →
    let b := 2 ^ 26 * Fd.hstWinBase.get v
    (Fd.hstWinPlaced.get v = 0 ∨ rangeInWorld s h.val b (b + 2 ^ 26) = true →
      ∃ t, exec (.ringConfigWrite (.cur w) h none v) s = .next t ∧ OnlyCtl [.hstWin h.val] s t ∧
        regF t (.hstWin h.val) Fd.hstWinPlaced = Fd.hstWinPlaced.get v ∧ regF t (.hstWin h.val) Fd.hstWinBase = Fd.hstWinBase.get v) ∧
    (Fd.hstWinPlaced.get v = 1 → rangeInWorld s h.val b (b + 2 ^ 26) = false →
      ∃ t, exec (.ringConfigWrite (.cur w) h none v) s = .next t ∧ OnlyCtl [.hstErr2 h.val] s t ∧
        regF t (.hstErr2 h.val) Fd.hstErr2Winref = 1) ∧
    (∀ r : Fin 16, reaches s (.cur w) (Creg.addr (.hstRing h.val r.val)) = true → regF s (.hstRing h.val r.val) Fd.hstRingEn = 0 → Fd.hstRingEn.get v = 0 → 1 ≤ Fd.hstRingLogn.get v →
      Fd.hstRingLogn.get v ≤ 16 → Fd.hstRingLogs.get v ≤ 6 → Fd.hstRingNmode.get v ≤ 1 →
      4096 * Fd.hstRingBase.get v + 2 ^ (Fd.hstRingLogn.get v + Fd.hstRingLogs.get v + 6) ≤ 2 ^ 26 →
      ∃ t, exec (.ringConfigWrite (.cur w) h (some r) v) s = .next t ∧ OnlyCtl [.hstRing h.val r.val] s t ∧
        regF t (.hstRing h.val r.val) Fd.hstRingBase = Fd.hstRingBase.get v ∧
        regF t (.hstRing h.val r.val) Fd.hstRingLogn = Fd.hstRingLogn.get v ∧
        regF t (.hstRing h.val r.val) Fd.hstRingDir = Fd.hstRingDir.get v)) ∧
  (∀ (h : Fin 4) (cfg : HostCfg) (s : State), galleryUp s h.val = true →
    let p := getHost s h.val
    ∃ t, exec (.doorbell h (.config cfg) 0) s = .next t ∧ t.mem = s.mem ∧ t.ctl = s.ctl ∧ t.cores = s.cores ∧
      (getHost t h.val).msix = cfg.msix ∧ (getHost t h.val).bme = cfg.bme ∧ (getHost t h.val).d3 = cfg.d3 ∧
      (cfg.msix = true → cfg.bme = true → cfg.d3 = false →
        (getHost t h.val).sent = p.sent ++ p.pba.filter (fun v => decide (16 ≤ v) || !cfg.mask.getLsbD v)))

/-! ### The keeper's watchdogs -/

/-- Watchdogs (R465–R471). A check-in after CLOSE, or one with a new required bit before OPEN, expires a running watchdog; in
the window one that completes the required bits begins a new period with the registers' limits, any other leaves its bits in
DONE. CLOSE expires the watchdog with the non-maskable event; the end of the hard timer drives the reset line and counts. The
two key words in order arm a disable, which stops the watchdog unless it is locked or expired, and then sets KEYERR; LOCK locks;
an enable starts a period. Where the spec is open it follows the model's own reading (assumption 43: time comes with the
commands). -/
def Obligations.Watchdogs : Prop :=
  (∀ (x : Writer) (w : Fin 3) (v n : Word) (s : State), running s = false → reaches s x (Creg.addr (.kprWdgChk w.val)) = true → owns x (regOwner s (.kprWdgChk w.val)) = true →
    wdgState s w.val = 1 →
    let p := getWatch s w.val
    let done := regF s (.kprWdgStat w.val) Fd.kprWdgStatDone
    let new := (bitsIn (v.toNat % 65536)).filter (fun k => p.reqNow.getLsbD k && done / 2 ^ k % 2 == 0)
    let all : Prop := ∀ k ∈ bitsIn (p.reqNow.toNat % 65536), done / 2 ^ k % 2 = 1 ∨ k ∈ new
    ∃ t, exec (.checkIn x w v n) s = .next t ∧ t.mem = s.mem ∧
      (p.closeNow.toNat < n.toNat → wdgState t w.val = 2 ∧ regF t (.kprWdgStat w.val) Fd.kprWdgStatCause = 2) ∧
      (n.toNat ≤ p.closeNow.toNat → new ≠ [] → n.toNat < p.openNow.toNat →
        wdgState t w.val = 2 ∧ regF t (.kprWdgStat w.val) Fd.kprWdgStatCause = 1) ∧
      (n.toNat ≤ p.closeNow.toNat → p.openNow.toNat ≤ n.toNat → wdgState t w.val = 1 ∧ t.cores = s.cores ∧
        (all → regF t (.kprWdgStat w.val) Fd.kprWdgStatDone = 0 ∧ reg t (.kprWdgT w.val) = 0 ∧
          (getWatch t w.val).openNow = reg s (.kprWdgOpen w.val) ∧ (getWatch t w.val).closeNow = reg s (.kprWdgClose w.val)) ∧
        (¬all → reg t (.kprWdgT w.val) = n ∧ ∀ k, k < 16 →
          (regF t (.kprWdgStat w.val) Fd.kprWdgStatDone / 2 ^ k % 2 = 1 ↔ done / 2 ^ k % 2 = 1 ∨ k ∈ new)))) ∧
  (∀ (w : Fin 3) (s : State), wdgState s w.val = 1 → ∃ t, exec (.windowClose w) s = .next t ∧ wdgState t w.val = 2 ∧
    regF t (.kprWdgStat w.val) Fd.kprWdgStatCause = 2 ∧ regF t (.kprWdgStat w.val) Fd.kprWdgStatExpired = 1 ∧ t.mem = s.mem ∧
    (w.val < 2 → regF t (.curNme w.val) Fd.curNmeEvent / 8 % 2 = 1 ∧ t.cores = s.cores) ∧
    (w.val = 2 → (getCore t .keeper).nmePend = true)) ∧
  (∀ (w : Fin 3) (s : State), wdgState s w.val = 2 → s.power.off = false → s.power.inReset = false →
    ∃ t, exec (.hardTimerEnd w) s = .next t ∧ t.power.inReset = true ∧ t.power.drive = some (2 + w.val) ∧
      memNat t (wdgCount w.val) 2 = min 65535 (memNat s (wdgCount w.val) 2 + 1)) ∧
  (∀ (x : Writer) (w : Fin 3) (v : Word) (s : State), running s = false → reaches s x (Creg.addr (.kprWdgKey w.val)) = true → owns x (regOwner s (.kprWdgKey w.val)) = true →
    ∃ t, exec (.wdgKey x w v) s = .next t ∧ t.mem = s.mem ∧ t.cores = s.cores ∧ SameCtl [.kprWdgKey w.val] s t ∧
      (getWatch t w.val).key = (if v.toNat % 65536 = 0x5A17 then 1 else
        if v.toNat % 65536 = 0xC3E8 ∧ (getWatch s w.val).key = 1 then 2 else 0)) ∧
  (∀ (x : Writer) (w : Fin 3) (s : State), running s = false → reaches s x (Creg.addr (.kprWdgCtl w.val)) = true → owns x (regOwner s (.kprWdgCtl w.val)) = true →
    let locked : Prop := regF s (.kprWdgCtl w.val) Fd.kprWdgCtlLock = 1
    ∃ t u, exec (.wdgDisable x w) s = .next t ∧ exec (.wdgLock x w) s = .next u ∧ (getWatch t w.val).key = 0 ∧ t.cores = s.cores ∧
      regF u (.kprWdgCtl w.val) Fd.kprWdgCtlLock = 1 ∧ wdgState u w.val = wdgState s w.val ∧ SameCtl [.kprWdgCtl w.val] s u ∧
      ((getWatch s w.val).key ≠ 2 → t.ctl = s.ctl) ∧
      ((getWatch s w.val).key = 2 → ¬locked → wdgState s w.val ≠ 2 → wdgState t w.val = 0 ∧ SameCtl [.kprWdgCtl w.val] s t ∧
        regF t (.kprWdgCtl w.val) Fd.kprWdgCtlEn = 0) ∧
      ((getWatch s w.val).key = 2 → locked ∨ wdgState s w.val = 2 → SameCtl [.kprWdgStat w.val] s t ∧
        regF t (.kprWdgStat w.val) Fd.kprWdgStatKeyerr = 1)) ∧
  (∀ (x : Writer) (w : Fin 3) (lock : Bool) (s : State), running s = false → reaches s x (Creg.addr (.kprWdgCtl w.val)) = true → owns x (regOwner s (.kprWdgCtl w.val)) = true →
    regF s (.kprWdgCtl w.val) Fd.kprWdgCtlEn = 0 →
    ∃ t, exec (.wdgEnable x w lock) s = .next t ∧ wdgState t w.val = 1 ∧ regF t (.kprWdgCtl w.val) Fd.kprWdgCtlEn = 1 ∧
      (lock = true → regF t (.kprWdgCtl w.val) Fd.kprWdgCtlLock = 1) ∧ reg t (.kprWdgT w.val) = 0 ∧ t.mem = s.mem ∧ t.cores = s.cores)

/-- The configuration of a watchdog (R468): a write to OPEN, CLOSE or REQ that would make OPEN greater than CLOSE, REQ zero or CLOSE
zero is refused with CFGERR and changes no other register; any other write is taken, and takes effect at the next period
start: the values in force stay, and a check-in that serves the period takes the registers' values. -/
def Obligations.WatchdogConfiguration : Prop :=
  (∀ (x : Writer) (w : Fin 3) (v : Word) (s : State), running s = false → reaches s x (Creg.addr (.kprWdgClose w.val)) = true → owns x (regOwner s (.kprWdgClose w.val)) = true →
    let o := reg s (.kprWdgOpen w.val)
    let c := reg s (.kprWdgClose w.val)
    let inForce (t : State) : Prop := (getWatch t w.val).openNow = (getWatch s w.val).openNow ∧
      (getWatch t w.val).closeNow = (getWatch s w.val).closeNow ∧ (getWatch t w.val).reqNow = (getWatch s w.val).reqNow ∧
      t.mem = s.mem ∧ t.cores = s.cores
    let refused (t : State) : Prop := SameCtl [.kprWdgStat w.val] s t ∧ regF t (.kprWdgStat w.val) Fd.kprWdgStatCfgerr = 1
    ∃ t u q, exec (.wdgConfigWrite x w .openR v) s = .next t ∧ exec (.wdgConfigWrite x w .closeR v) s = .next u ∧
      exec (.wdgConfigWrite x w .req v) s = .next q ∧ inForce t ∧ inForce u ∧ inForce q ∧
      (c.toNat < v.toNat → refused t) ∧
      (v.toNat ≤ c.toNat → c ≠ 0 → SameCtl [.kprWdgOpen w.val] s t ∧ reg t (.kprWdgOpen w.val) = v) ∧
      (v.toNat < o.toNat ∨ v = 0 → refused u) ∧
      (o.toNat ≤ v.toNat → v ≠ 0 → SameCtl [.kprWdgClose w.val] s u ∧ reg u (.kprWdgClose w.val) = v) ∧
      (v.toNat % 65536 = 0 → refused q) ∧
      (v.toNat % 65536 ≠ 0 → o.toNat ≤ c.toNat → c ≠ 0 → SameCtl [.kprWdgReq w.val] s q ∧
        regF q (.kprWdgReq w.val) Fd.kprWdgReqReq = v.toNat % 65536)) ∧
  (∀ (x : Writer) (w : Fin 3) (v n : Word) (s : State), running s = false → reaches s x (Creg.addr (.kprWdgChk w.val)) = true → owns x (regOwner s (.kprWdgChk w.val)) = true →
    wdgState s w.val = 1 → (getWatch s w.val).openNow.toNat ≤ n.toNat → n.toNat ≤ (getWatch s w.val).closeNow.toNat →
    (∀ k, k < 16 → (getWatch s w.val).reqNow.getLsbD k = true →
      regF s (.kprWdgStat w.val) Fd.kprWdgStatDone / 2 ^ k % 2 = 1 ∨ v.getLsbD k = true) →
    ∃ t, exec (.checkIn x w v n) s = .next t ∧ (getWatch t w.val).openNow = reg s (.kprWdgOpen w.val) ∧
      (getWatch t w.val).closeNow = reg s (.kprWdgClose w.val) ∧ (getWatch t w.val).reqNow = reg s (.kprWdgReq w.val))

/-! ### Boot and trust -/

/-- Boot and the fuses (R47, R365, R378, R380, R383, R384). A staged flash image is copied to the archives and its verification
starts; a RELEASE is refused with its reason from a port that is not the lead or with a length out of range, and else starts
verification before boot. Verification of a bundle that is not well formed goes back to wait for another source, or halts; a
well-formed host bundle goes on to the load and shows whether it verified. The load, once training is over, releases both
curators at supervisor level. A fuse programming is refused while the fuses are locked, but for the lock byte; its end sets the
bits of its byte and no other. Where the spec is open it follows the model's own readings (assumptions 14 and 36). -/
def Obligations.BootAndFuses : Prop :=
  (∀ s : State, s.trust.staging = 1 ∨ s.trust.staging = 2 → s.power.up = true → bootStage s = 0 →
    (getQuire s 7).raised = true → s.flash.undef = [] →
    let src := slotBaseAddr s.trust.staging
    ∃ t, exec .imageStaged s = .next t ∧ bootStage t = 1 ∧ regF t .truBoot Fd.truBootSource = s.trust.staging ∧
      t.trust.staging = 0 ∧ t.trust.snap = fuseSnap s ∧ t.cores = s.cores ∧
      ∀ i, i < min bundleMax (bundleTotal s src) → memByte t (archBase 0 + i) = memByte s (src + i)) ∧
  (∀ (h : Fin 4) (len : Word) (s : State), hostOpen s h.val = true → withheld s h.val = false → blockStopped s (115 + h.val) = false →
    ∃ t, exec (.release h len) s = .next t ∧
      (isLead s h.val = false → (getHost t h.val).relErr = 1 ∧ t.ctl = s.ctl ∧ t.mem = s.mem) ∧
      (isLead s h.val = true → len = 0 ∨ 29360128 < len.toNat → (getHost t h.val).relErr = 2 ∧ t.ctl = s.ctl ∧ t.mem = s.mem) ∧
      (isLead s h.val = true → len ≠ 0 → len.toNat ≤ 29360128 → bootStage s = 1 ∨ bootStage s = 2 →
        (getHost t h.val).relErr = 3 ∧ t.ctl = s.ctl ∧ t.mem = s.mem) ∧
      (isLead s h.val = true → len ≠ 0 → len.toNat ≤ 29360128 → bootStage s = 0 → s.trust.staging = 0 → s.power.up = true →
        (getQuire s 7).raised = true → s.live.offer = none → bootStage t = 1 ∧ regF t .truBoot Fd.truBootSource = 0 ∧ t.trust.total = len.toNat ∧ t.trust.snap = fuseSnap s ∧
        t.mem = s.mem ∧ t.cores = s.cores)) ∧
  (∀ s : State, bootStage s = 1 → s.live.offer = none → (∀ a, clean s a = true) →
    let b := archBase 0
    let src := regF s .truBoot Fd.truBootSource
    let ok := (verifyBundle s s.trust.snap b).1
    ∃ t, exec .verificationEnd s = .next t ∧ t.mem = s.mem ∧ t.cores = s.cores ∧
      (wellFormed s b s.trust.total = false → src ≠ 0 → t.trust.staging = 0 ∧ regF t .truBoot Fd.truBootSource = 0 ∧
        bootStage t = (if bootHost s && (leadPort s).isSome then 0 else 4)) ∧
      (wellFormed s b s.trust.total = false → src = 0 → ∀ h, leadPort s = some h → bootStage t = 0 ∧ (getHost t h).relErr = 5) ∧
      (wellFormed s b s.trust.total = true → src = 0 → bootStage t = 2 ∧
        regF t .truBoot Fd.truBootVerified = (if ok = 0 then 1 else 0) ∧
        regF t .truBoot Fd.truBootUnverified = (if ok = 0 then 0 else 1) ∧
        (ok ≠ 0 → t.trust.vitrine = false) ∧ (ok = 0 → t.trust.vitrine = true) ∧
        ∀ k, k < 3 → reg t (.truAcc k) = bundleAcc s b k)) ∧
  (∀ s : State, bootStage s = 2 → training s = false →
    ∃ t, exec .imageLoad s = .next t ∧ bootStage t = 3 ∧ (∀ w : World, (getCore t (.curator w)).on = true ∧
      isSup (getCore t (.curator w)) = true ∧ regF t (.curStat w.num) Fd.curStatHalted = 0) ∧
      (∀ h, h < 4 → regF t (.hstStg h) Fd.hstStgArch = 0) ∧
      (sections s gddrBase = [] → regF s .truBoot Fd.truBootFastwake = 1 → t.mem = s.mem ∧
        ∀ w : World, (getCore t (.curator w)).pc = bundleVec s gddrBase w)) ∧
  (∀ (addr : BitVec 9) (data : Byte) (s : State), reaches s .kpr (Creg.addr .truFusectl) = true → regF s .truFusectl Fd.truFusectlBusy = 0 →
    ∃ t, exec (.fuseProgram .kpr addr data) s = .next t ∧ OnlyCtl [.truFusectl] s t ∧
      ((fuse s 0x100).getLsbD 7 = false → regF t .truFusectl Fd.truFusectlBusy = 1 ∧
        regF t .truFusectl Fd.truFusectlAddr = addr.toNat ∧ regF t .truFusectl Fd.truFusectlData = data.toNat) ∧
      ((fuse s 0x100).getLsbD 7 = true → addr ≠ 0x100#9 → regF t .truFusectl Fd.truFusectlBusy = 0 ∧
        regF t .truFusectl Fd.truFusectlRefused = 1)) ∧
  (∀ s : State, regF s .truFusectl Fd.truFusectlBusy = 1 →
    let a := regF s .truFusectl Fd.truFusectlAddr
    ∃ t, exec .fuseProgramEnd s = .next t ∧ regF t .truFusectl Fd.truFusectlBusy = 0 ∧ SameCtl [.truFusectl] s t ∧
      fuse t a = fuse s a ||| BitVec.ofNat 8 (regF s .truFusectl Fd.truFusectlData) ∧ (∀ i, i ≠ a → fuse t i = fuse s i) ∧
      t.mem = s.mem ∧ t.cores = s.cores)

/-- The vitrine (R386–R393), while the tick does not run: a command while one of the world runs does nothing; a sealed vitrine refuses
every operation but QUOTE. DERIVE makes a handle of the first free entry, or is refused; a bad handle, a length, a header and a range
that does not fit refuse SEAL, OPEN and DESTROY with their status. DESTROY frees the entry and advances its generation; SEAL writes a
blob with its header, OPEN writes the plain text only where the tag agrees, QUOTE, CERT and IDPUB write their bytes, all in data
regions of the world whose memory is sound and holds no ring headers. Where the spec is open it follows the model's own readings
(assumptions 14 and 36). -/
def Obligations.Vitrine : Prop :=
  (∀ (w : World) (purpose : Byte) (s : State), running s = false → reaches s (.cur w) (Creg.addr (.truCmd w.num)) = true →
    let a := reg s (.truArg w.num)
    let acc := reg s (.truAcc (1 + w.num))
    let st (t : State) : Nat := regF t (.truCmd w.num) Fd.truCmdStatus
    let all : List Instr := [.derive w purpose, .destroy w, .vitrineSeal w, .vitrineOpen w, .cert w, .idpub w]
    (regF s (.truCmd w.num) Fd.truCmdBusy = 1 → ∀ i ∈ .quote w :: all,
      ∃ t, exec i s = .next t ∧ t.mem = s.mem ∧ t.cores = s.cores ∧ t.trust = s.trust ∧ SameCtl [.truCmd w.num] s t) ∧
    (regF s (.truCmd w.num) Fd.truCmdBusy = 0 → s.trust.vitrine = false → ∀ i ∈ all,
      ∃ t, exec i s = .next t ∧ st t = 1 ∧ t.mem = s.mem ∧ t.cores = s.cores ∧ t.trust = s.trust ∧ SameCtl [.truCmd w.num] s t) ∧
    (regF s (.truCmd w.num) Fd.truCmdBusy = 0 → s.trust.vitrine = true →
      ∃ t, exec (.derive w purpose) s = .next t ∧ t.mem = s.mem ∧ t.cores = s.cores ∧
      (acc.toNat < a.toNat → st t = 3 ∧ t.trust = s.trust) ∧
      (a.toNat ≤ acc.toNat → (∀ e, e < 64 → (getHandle s w e).used = true) → st t = 6 ∧ t.trust = s.trust) ∧
      (a.toNat ≤ acc.toNat → ∀ e, e < 64 → (getHandle s w e).used = false → (getHandle s w e).gen < 1024 →
        (∀ i, i < e → (getHandle s w i).used = true) → st t = 0 ∧
        regF t (.truHdl w.num) Fd.truHdlHandle = 64 * (getHandle s w e).gen + e ∧
        getHandle t w e = ⟨true, (getHandle s w e).gen, purpose.toNat, a⟩ ∧ handleOf t w = some (e, getHandle t w e)))) ∧
  (∀ (w : World) (s : State), running s = false → reaches s (.cur w) (Creg.addr (.truCmd w.num)) = true → regF s (.truCmd w.num) Fd.truCmdBusy = 0 → s.trust.vitrine = true →
    let st (t : State) : Nat := regF t (.truCmd w.num) Fd.truCmdStatus
    (handleOf s w = none → ∀ i ∈ [Instr.destroy w, .vitrineSeal w, .vitrineOpen w],
      ∃ t, exec i s = .next t ∧ st t = 2 ∧ t.mem = s.mem ∧ t.cores = s.cores ∧ t.trust = s.trust) ∧
    ∀ e x, handleOf s w = some (e, x) →
      let n := regF s (.truLen w.num) Fd.truLenLen
      let src := truSrc s w
      let dst := truDst s w
      let plainMem (a k : Nat) : Prop := dataRange s w a k = true ∧ ∀ y, a ≤ y → y < a + k → headerWord s (granule y) = none
      let ends (i : Instr) (code : Nat) : Prop := ∃ t, exec i s = .next t ∧ st t = code ∧ t.mem = s.mem ∧ t.cores = s.cores
      (∃ t, exec (.destroy w) s = .next t ∧ st t = 0 ∧ t.mem = s.mem ∧ t.cores = s.cores ∧
        getHandle t w e = { used := false, gen := (x.gen + 1) % 1024, purpose := 0, acc := 0 }) ∧
      (n = 0 ∨ 16777216 < n → ends (.vitrineSeal w) 8) ∧
      (0 < n → n ≤ 16777216 → dataRange s w src n = false ∨ dataRange s w dst (n + 0x30) = false → ends (.vitrineSeal w) 4) ∧
      (0 < n → n ≤ 16777216 → sound s → plainMem src n → plainMem dst (n + 0x30) →
        ∃ t, exec (.vitrineSeal w) s = .next t ∧ st t = 0 ∧ SameMemBut dst (n + 0x30) s t ∧ memWord t dst = 0x4C534E5A#32 ∧
          memNat t (dst + 5) 1 = w.num ∧ memNat t (dst + 6) 1 = x.purpose % 256 ∧ memWord t (dst + 8) = x.acc ∧
          memNat t (dst + 0x18) 4 = n ∧ t.cores = s.cores) ∧
      (let m := memNat s (src + 0x18) 4
       let iv := memBytes s (src + 0x0C) 12
       let key := sealKey s w x.purpose x.acc
       let plain := fixLen m (Config.gcmPlain key iv (memBytes s src 0x20) (memBytes s (src + 0x20) m))
       let tag := fixLen 16 (Config.gcmTag key iv (memBytes s src 0x20) plain)
       let fits : Prop := memNat s src 4 = 0x4C534E5A ∧ memNat s (src + 5) 1 = w.num ∧ memNat s (src + 6) 1 = x.purpose ∧
         memWord s (src + 8) = x.acc
       (dataRange s w src 0x20 = false → ends (.vitrineOpen w) 4) ∧
       (sound s → plainMem src 0x20 → (¬fits → ends (.vitrineOpen w) 7) ∧
         (fits → m = 0 ∨ 16777216 < m → ends (.vitrineOpen w) 8) ∧
         (fits → 0 < m → m ≤ 16777216 → dataRange s w src (m + 0x30) = false ∨ dataRange s w dst m = false →
           ends (.vitrineOpen w) 4) ∧
         (fits → 0 < m → m ≤ 16777216 → plainMem src (m + 0x30) → plainMem dst m →
           ∃ t, exec (.vitrineOpen w) s = .next t ∧ t.cores = s.cores ∧
             (tag = memBytes s (src + 0x20 + m) 16 → st t = 0 ∧ memBytes t dst m = plain ∧ SameMemBut dst m s t ∧
               regF t (.truLen w.num) Fd.truLenLen = m) ∧
             (tag ≠ memBytes s (src + 0x20 + m) 16 → st t = 5 ∧ t.mem = s.mem))))) ∧
  (∀ (w : World) (s : State), running s = false → reaches s (.cur w) (Creg.addr (.truCmd w.num)) = true → regF s (.truCmd w.num) Fd.truCmdBusy = 0 →
    let st (t : State) : Nat := regF t (.truCmd w.num) Fd.truCmdStatus
    let dst := truDst s w
    let plainMem (a k : Nat) : Prop := dataRange s w a k = true ∧ ∀ y, a ≤ y → y < a + k → headerWord s (granule y) = none
    let ends (i : Instr) (code : Nat) : Prop := ∃ t, exec i s = .next t ∧ st t = code ∧ t.mem = s.mem ∧ t.cores = s.cores
    (dataRange s w (truSrc s w) 32 = false ∨ dataRange s w dst 17248 = false → ends (.quote w) 4) ∧
    (sound s → plainMem (truSrc s w) 32 → plainMem dst 17248 →
      ∃ t, exec (.quote w) s = .next t ∧ st t = 0 ∧ memBytes t dst 160 = quoteBody s w (memBytes s (truSrc s w) 32) ∧
        SameMemBut dst 17248 s t ∧ t.cores = s.cores) ∧
    (s.trust.vitrine = true → s.trust.ident = false → ends (.cert w) 9 ∧ ends (.idpub w) 9) ∧
    (s.trust.vitrine = true → s.trust.ident = true → sound s → plainMem dst s.trust.cert.length → plainMem dst 32 →
      ∃ t u, exec (.cert w) s = .next t ∧ exec (.idpub w) s = .next u ∧ st t = 0 ∧ st u = 0 ∧
        memBytes t dst s.trust.cert.length = s.trust.cert ∧ SameMemBut dst s.trust.cert.length s t ∧
        memBytes u dst 32 = identPublic s ∧ SameMemBut dst 32 s u ∧ t.cores = s.cores ∧ u.cores = s.cores))

/-! ### The flash array -/

/-- Channels of the flash array (R401–R405, R408–R411, R413–R416), while the tick does not run and where what they read is sound: CLAIM
and UNCLAIM end with the status that the rules give; PROGRAM, ERASE, BLANK, ACTIVATE and OPTION are refused with theirs, or hand their
operations to the idle bank: a page with the bytes of the source; a block, whose erase counts; for ACTIVATE the record of the slot
and its seal on the two pages after the active pair, with an erase of the next block at a block's start and of that block before,
if it is not blank; for OPTION the record with the next SEQ on the first blank page, with an erase of the other option block at
a block's end. No byte of memory changes before an operation ends. Lowering (R412): the key words in their order, then GO; any other
write breaks the sequence; at level 2 it is refused; otherwise waiting commands are refused with LEVEL, and so is every command
while it runs, and every block but the option blocks is to be erased. Where the spec is open it follows the model's own readings
(assumptions 38 and 39). -/
def Obligations.FlashCommands : Prop :=
  (∀ (x : Writer) (c : Fin 3) (s : State), running s = false → reaches s x (Creg.addr (.flsCmd c.val)) = true →
     owns x (regOwner s (.flsCmd c.val)) = true → regF s (.flsCmd c.val) Fd.flsCmdBusy = 0 →
     let st (t : State) : Nat := regF t (.flsCmd c.val) Fd.flsCmdStatus
     let n := regEffF s (.flsAddr c.val) Fd.flsAddrSlot
     let off := regF s (.flsAddr c.val) Fd.flsAddrOffset / 4096 * 4096
     let b := regF s (.flsAddr c.val) Fd.flsAddrOffset / 0x40000
     let a := 256 * (reg s (.flsSrc c.val)).toNat
     let read (m : Nat) : List Byte := hideHeader s a (memBytes s a m)
     let idle : Prop := s.flash.jobs = [] ∧ s.flash.undef = [] ∧ flashAlive s = true
     let job (ops : List FlashPrim) (left act : Nat) : FlashJob := { ch := c.val, reg := true, ops := ops, left := left, started := true, act := act }
     ∃ t u v w p q r, exec (.claim x c) s = .next t ∧ exec (.unclaim x c) s = .next u ∧ exec (.program x c) s = .next v ∧
       exec (.erase x c) s = .next w ∧ exec (.blank x c) s = .next p ∧ exec (.activate x c) s = .next q ∧
       exec (.option x c) s = .next r ∧
       t.mem = s.mem ∧ u.mem = s.mem ∧ w.mem = s.mem ∧ p.mem = s.mem ∧ q.mem = s.mem ∧ (sound s → v.mem = s.mem ∧ r.mem = s.mem) ∧
       (s.flash.lower ≠ 0 → st t = 6 ∧ st u = 6 ∧ st v = 6 ∧ st w = 6 ∧ st p = 6 ∧ st q = 6 ∧ st r = 6) ∧
       (s.flash.lower = 0 →
       (c.val = 0 ∨ n ≠ inactiveSlot s → st t = 4 ∧ st u = 4 ∧ claimCh t = claimCh s ∧ claimCh u = claimCh s) ∧
       (c.val ≠ 0 → n = inactiveSlot s →
         (claimCh s ≠ 0 → claimCh s ≠ c.val → st t = 5 ∧ claimCh t = claimCh s ∧ st u = 4 ∧ claimCh u = claimCh s) ∧
         (claimCh s = 0 ∨ claimCh s = c.val → st t = 0 ∧ claimCh t = c.val) ∧
         (claimCh s = c.val → st u = 0 ∧ claimCh u = 0)) ∧
       (flashRights s c.val b false ≠ 0 → st v = flashRights s c.val b false ∧ regF v (.flsCmd c.val) Fd.flsCmdDone = 1) ∧
       (flashRights s c.val b false = 0 → sourceOk s c.val a 4096 = false → st v = 9) ∧
       (flashRights s c.val b false = 0 → sourceOk s c.val a 4096 = true → b ≠ 126 → b ≠ 127 → idle → sound s →
         (s.flash.prog.contains (off / 4096) = true → st v = 1 ∧ v.flash.jobs = []) ∧
         (s.flash.prog.contains (off / 4096) = false →
           (off / 4096 % 64 = 0 ∨ s.flash.prog.contains (off / 4096 - 1) = true) →
           (off / 4096 % 64 = 63 ∨ s.flash.prog.contains (off / 4096 + 1) = false) →
           v.flash.jobs = [job [.program off (read 4096)] 1 0] ∧ regF v (.flsCmd c.val) Fd.flsCmdBusy = 1)) ∧
       (flashRights s c.val b true ≠ 0 → st w = flashRights s c.val b true ∧ regF w (.flsCmd c.val) Fd.flsCmdDone = 1) ∧
       (flashRights s c.val b true = 0 → idle → w.flash.jobs = [job [.erase b] 1 0] ∧
         regF w (.flsEcnt b) Fd.flsEcntCount = min 65535 (regF s (.flsEcnt b) Fd.flsEcntCount + 1)) ∧
       (idle → p.flash.jobs = [] ∧ st p = (if s.flash.prog.contains (off / 4096) then 1 else 0)) ∧
       (c.val = 0 ∨ n ≠ inactiveSlot s ∨ claimCh s ≠ c.val → st q = 4) ∧
       (regF q .flsStat Fd.flsStatActive = regF s .flsStat Fd.flsStatActive) ∧
       (c.val ≠ 0 → n = inactiveSlot s → claimCh s = c.val → idle →
         (wellFormed s (slotBaseAddr n) bundleMax = false ∨ (verifyBundle s (fuseSnap s) (slotBaseAddr n)).1 ≠ 0 → st q = 8) ∧
         (wellFormed s (slotBaseAddr n) bundleMax = true → (verifyBundle s (fuseSnap s) (slotBaseAddr n)).1 = 0 →
           let seq := (match activePair s with | some (_, m, _) => m | none => 0) + 1
           let g := match activePair s with
             | some (g, _, _) => if g % 64 = 62 then 64 * logNext (g / 64) else g + 2
             | none => 7168
           let pair : List FlashPrim := [.program (4096 * g) (actRecord s n seq), .program (4096 * (g + 1)) (actSeal (actRecord s n seq) seq)]
           let next : List FlashPrim := [.erase (logNext (g / 64))]
           (g % 64 ≠ 0 → s.flash.prog.contains g = false → s.flash.prog.contains (g - 1) = true → s.flash.prog.contains (g + 1) = false →
             q.flash.jobs = [job pair 2 n]) ∧
           (g % 64 = 0 → blockBlank s (g / 64) = true → q.flash.jobs = [job (pair ++ next) 2 n]) ∧
           (g % 64 = 0 → blockBlank s (g / 64) = false → q.flash.jobs = [job (.erase (g / 64) :: pair ++ next) 3 n]))) ∧
       (c.val = 0 → st r = 4) ∧ (c.val ≠ 0 → sourceOk s c.val a 64 = false → st r = 9) ∧
       (c.val ≠ 0 → sourceOk s c.val a 64 = true → sound s →
         let f := optionInForce s
         let new := read 64
         let foreign : Prop := optWdg new (2 - c.val) ≠ optWdg f (2 - c.val) ∨ optWdg new 2 ≠ optWdg f 2 ∨
           (c.val = 2 ∧ optBoot new ≠ optBoot f)
         (foreign → st r = 10) ∧ (¬foreign → protOf (new.getD 8 0) < protLevel s → st r = 6) ∧
         (¬foreign → protLevel s ≤ protOf (new.getD 8 0) → idle → (optionPage s = none → st r = 6) ∧
           ∀ g, optionPage s = some g → regF r (.flsCmd c.val) Fd.flsCmdBusy = 1 ∧
             r.flash.jobs = [job (.program (4096 * g) (sealOption new (recSeq f + 1)) ::
               (if g % 64 = 63 ∧ protLevel s ≠ 2 then [.erase (if g / 64 = 126 then 127 else 126)] else [])) 1 0])))) ∧
  (∀ (key : BitVec 16) (s : State), (getCore s .keeper).on = true →
     exec (.flsLowerKey .kpr key) s = .next { s with flash := { s.flash with
       key := if key = 0x6A21#16 then 1 else if key = 0x95DE#16 ∧ s.flash.key = 1 then 2 else 0 } } ∧
     (s.flash.key ≠ 2 ∨ s.flash.lower ≠ 0 → exec (.lowering .kpr) s = .next { s with flash := { s.flash with key := 0 } }) ∧
     (s.flash.key = 2 → s.flash.lower = 0 → ∃ t, exec (.lowering .kpr) s = .next t ∧ t.flash.key = 0 ∧ t.mem = s.mem ∧ t.cores = s.cores ∧
       (protLevel s = 2 → regF t (.flsCmd 0) Fd.flsCmdStatus = 6 ∧ t.flash.lower = 0 ∧ t.flash.jobs = s.flash.jobs) ∧
       (protLevel s ≠ 2 → t.flash.lower = 1 ∧ regF t .flsStat Fd.flsStatLowering = 1 ∧
         (∀ j ∈ s.flash.jobs, j.reg = true → j.started = false → 0 < j.left → j.ch < 3 → regF t (.flsCmd j.ch) Fd.flsCmdStatus = 6) ∧
         (s.flash.jobs = [] → flashAlive s = true →
           let own (ops : List FlashPrim) : FlashJob := { ch := 0, reg := false, log := true, ops := ops, left := 0, started := true }
           t.flash.jobs = [own ((List.range 126).map .erase), own ((List.range 128).map (fun i => .erase (128 + i)))]))))

/-- The end of an array operation (R398, R402, R405, R407, R416) while the array has power: a page that was blank holds its data, an
erased block is blank, nothing else of memory changes, and a command's last operation sets DONE with status 0, an activation with its
slot active and the claim gone; one that reaches its timeout ends with TIMEOUT and leaves its pages undefined. The lowering sequence
(R412) goes on by them: after the last block of its first part the option blocks are erased; after those every erase counter and
retained memory read 0 and the record of level 0 is programmed on the first option page; and with that it is over. Where the spec is
open it follows the model's own readings (assumptions 38 and 39). -/
def Obligations.FlashOperations : Prop :=
  (∀ (k : Fin 2) (j : FlashJob) (o : FlashPrim) (s : State), s.flash.jobs = [j] → j.started = true → jobBank j = k.val →
    j.ops = [o] → j.reg = true → j.log = false → j.left = 1 → j.ch < 3 → flashAlive s = true → s.flash.lower = 0 →
    ∃ t u, exec (.flashOperationEnd k) s = .next t ∧ exec (.flashTimeout k) s = .next u ∧
      t.flash.jobs = [] ∧ regF t (.flsCmd j.ch) Fd.flsCmdStatus = 0 ∧ regF t (.flsCmd j.ch) Fd.flsCmdDone = 1 ∧
      regF t (.flsCmd j.ch) Fd.flsCmdBusy = 0 ∧ t.cores = s.cores ∧
      (j.act = 1 ∨ j.act = 2 → regF t .flsStat Fd.flsStatActive = j.act ∧ claimCh t = 0) ∧
      (∀ off data, o = .program off data → s.flash.prog.contains (off / 4096) = false → memBytes t (flashBase + off) data.length = data ∧
        SameMemBut (flashBase + off) data.length s t ∧ t.flash.prog.contains (off / 4096) = true) ∧
      (∀ b, o = .erase b → b < 256 → blockBlank t b = true ∧ SameMemBut (flashBase + 0x40000 * b) 0x40000 s t ∧
        ∀ i, i < 0x40000 → memByte t (flashBase + 0x40000 * b + i) = 0xFF#8) ∧
      (∀ off, o = .blank off → t.mem = s.mem) ∧
      u.flash.jobs = [] ∧ regF u (.flsCmd j.ch) Fd.flsCmdStatus = 7 ∧ u.mem = s.mem ∧ u.cores = s.cores ∧
      (∀ i, i < (primPages o).2 → u.flash.undef.contains ((primPages o).1 + i) = true)) ∧
  (∀ (k : Fin 2) (b : Nat) (o : FlashPrim) (s : State),
    let own (ops : List FlashPrim) : FlashJob := { ch := 0, reg := false, log := true, ops := ops, left := 0, started := true }
    s.flash.jobs = [own [o]] → jobBank (own [o]) = k.val → flashAlive s = true → b < 256 →
    (∀ r, s.flash.opt = some r → r.length = 64) →
    ∃ t, exec (.flashOperationEnd k) s = .next t ∧ t.cores = s.cores ∧
      (o = .erase b → s.flash.lower = 1 → t.flash.lower = 2 ∧ t.flash.jobs = [own [.erase 126, .erase 127]] ∧ blockBlank t b = true) ∧
      (o = .erase b → s.flash.lower = 2 → t.flash.lower = 3 ∧ (∀ e, e < 256 → reg t (.flsEcnt e) = 0) ∧
        (∀ a, retBase ≤ a → a < retBase + 0x10000 → memByte t a = 0) ∧
        ∃ rec : List Byte, t.flash.jobs = [own [.program 0x1F80000 rec]] ∧ rec.getD 8 0 = (0xAA : Byte)) ∧
      (∀ off data, o = .program off data → s.flash.lower = 3 → t.flash.lower = 0 ∧ t.flash.jobs = [] ∧
        regF t .flsStat Fd.flsStatLowering = 0))

/-! ### Live service -/

/-- Live service (R475–R482), while the tick does not run: a command while one of the world's runs does nothing. ACCEPT is refused
beside another offer or replacement and without a source, and else shows phase VERIFYING; where its checks end, the first that fails
is its status, or the host's RELERR, with the code of a failed verification in TRU_BOOT, and a bundle that passes opens phase ACCEPTED
with its accession shown. STEP writes one image slot from the source; CURATOR asks for the block reset of the curator, which its
phase shows; FINISH closes the replacement once every quire and the curator carry it; ABANDON drops it in phase ACCEPTED; each in the
wrong phase answers 10. Where the spec is open it follows the model's own reading (assumption 37). -/
def Obligations.LiveService : Prop :=
  (∀ (w : World) (s : State), running s = false → reaches s (.cur w) (Creg.addr (.truLive w.num)) = true →
    let st (t : State) : Nat := regF t (.truLive w.num) Fd.truLiveStatus
    let busy := regF s (.truLive w.num) Fd.truLiveBusy
    (busy = 1 → ∀ i ∈ [Instr.accept w 0, .step w 0 0, .curator w, .finish w, .abandon w],
      ∃ t, exec i s = .next t ∧ t.live = s.live ∧ SameCtl [.truLive w.num] s t ∧ t.mem = s.mem ∧ t.cores = s.cores) ∧
    (busy = 0 → ∀ src : Fin 4, src.val < 3 → ∃ t, exec (.accept w src) s = .next t ∧ t.mem = s.mem ∧ t.cores = s.cores ∧
      SameCtl [.truLive w.num] s t ∧
      (s.live.world ≠ none ∨ s.live.offer ≠ none → st t = 1 ∧ t.live = s.live) ∧
      (s.live.world = none → s.live.offer = none → liveSource s src.val = none → st t = 2 ∧ t.live = s.live) ∧
      (s.live.world = none → s.live.offer = none → ∀ slot b, liveSource s src.val = some (slot, b) → livePhase t w = 1 ∧
        regF t (.truLive w.num) Fd.truLiveBusy = 1 ∧ t.live = { s.live with offer := some ⟨some w, 0, slot, b, bundleMax⟩ })) ∧
    (busy = 0 → ∀ (q : Fin 64) (k : Fin 32), k.val ≤ 16 →
      let idle := (reserveOf s q.val).isSome && regF s (.qrcStat q.val) Fd.qrcStatLoading == 0 &&
        regF s (.qrcStat q.val) Fd.qrcStatRsvRun == 0 && regF s (.qrcHovr q.val) Fd.qrcHovrArmed == 0
      let slot := imgMap s q.val 16
      ∃ t, exec (.step w q k) s = .next t ∧
        (liveOpen s w = false → st t = 10 ∧ t.live = s.live ∧ t.mem = s.mem) ∧
        (liveOpen s w = true → quireWorld s q.val ≠ w → st t = 5 ∧ t.live = s.live ∧ t.mem = s.mem) ∧
        (liveOpen s w = true → quireWorld s q.val = w → idle = false → st t = 8 ∧ t.live = s.live ∧ t.mem = s.mem) ∧
        (liveOpen s w = true → quireWorld s q.val = w → idle = true → st t = 0 ∧ livePhase t w = 3 ∧
          t.live.done.contains (17 * q.val + slot) = true ∧ t.cores = s.cores ∧
          ∀ x, imageSection s s.live.base q.val (if k.val = 16 then 0 else k.val) = some x → (∀ y ∈ sections s s.live.base, y.ty ≠ 5) →
            Memory.wf s.mem = true → sound s → gddrBase ≤ s.live.base → slot ≤ 16 →
            ∀ i, i < 0x28000 → memByte t (imgBase q.val slot + i) = memByte s (s.live.base + x.off + i))) ∧
    (busy = 0 → ∃ t, exec (.curator w) s = .next t ∧ t.mem = s.mem ∧ t.cores = s.cores ∧ (liveOpen s w = false → st t = 10 ∧ t.live = s.live) ∧
      (liveOpen s w = true → st t = 0 ∧ livePhase t w = 3 ∧ regF t (.truLive w.num) Fd.truLiveBusy = 1 ∧
        bitOf t .kprRstReq w.num = true ∧ t.live = { s.live with cur := some w } ∧ SameCtl [.truLive w.num, .kprRstReq 0] s t)) ∧
    (busy = 0 →
      let whole : Prop := liveQuires s w = (List.range 64).filter (fun q => quireWorld s q == w) ∧
        regF s (.truLive w.num) Fd.truLiveCurdone = 1
      ∃ t, exec (.finish w) s = .next t ∧ (liveOpen s w = false → st t = 10 ∧ t.live = s.live ∧ t.mem = s.mem) ∧
        (liveOpen s w = true → ¬whole → st t = 9 ∧ t.live = s.live ∧ t.mem = s.mem) ∧
        (liveOpen s w = true → whole → st t = 0 ∧ livePhase t w = 0 ∧ t.live.world = none ∧ reg t (.truLiveacc w.num) = 0 ∧
          (∀ e, e < 64 → (getHandle t w e).used = false) ∧ t.cores = s.cores)) ∧
    (busy = 0 → ∃ t, exec (.abandon w) s = .next t ∧
      (s.live.world ≠ some w ∨ livePhase s w ≠ 2 → st t = 10 ∧ t.live = s.live ∧ t.mem = s.mem) ∧
      (s.live.world = some w → livePhase s w = 2 → (∀ r ∈ s.live.rgns, r < 64) → st t = 0 ∧ livePhase t w = 0 ∧
        t.live.world = none ∧ reg t (.truLiveacc w.num) = 0 ∧ (∀ r ∈ s.live.rgns, regF t (.memRgnAttr r) Fd.memRgnAttrType = 0) ∧
        t.cores = s.cores))) ∧
  (∀ (o : LiveOffer) (s : State), s.live.offer = some o → s.live.world = none → running s = false → sound s → s.flash.undef = [] →
    isPatch s o.base = false → (o.world = none → o.port < 4) →
    let code := (verifyBundle s (fuseSnap s) o.base).1
    let formed : Prop := wellFormed s o.base o.staged = true
    ∃ t, exec .verificationEnd s = .next t ∧ t.cores = s.cores ∧ t.live.offer = none ∧
      let told (e : Nat) : Prop := (∀ w, o.world = some w → regF t (.truLive w.num) Fd.truLiveStatus = e ∧
        regF t (.truLive w.num) Fd.truLiveBusy = 0) ∧ (o.world = none → e ≠ 0 → (getHost t o.port).relErr = 16 + e)
      let refused (e : Nat) : Prop := told e ∧ t.live.world = none ∧ t.mem = s.mem ∧ ∀ w, o.world = some w → livePhase t w = 0
      (¬formed → refused 2) ∧
      (formed → code ≠ 0 → refused 3 ∧ regF t .truBoot Fd.truBootFailcode = code % 16) ∧
      (formed → code = 0 → changedWorld s o.base = none → refused 4) ∧
      (formed → code = 0 → ∀ v, changedWorld s o.base = some v →
        (o.world ≠ none → o.world ≠ some v → refused 5) ∧
        (o.world = none ∨ o.world = some v → othersMatch s o.base v = false → refused 6) ∧
        (o.world = none ∨ o.world = some v → othersMatch s o.base v = true → constsFit s o.base v = false → refused 7) ∧
        (o.world = none ∨ o.world = some v → othersMatch s o.base v = true → constsFit s o.base v = true → told 0 ∧
          t.live.world = some v ∧ t.live.base = o.base ∧ livePhase t v = 2 ∧ regF t (.truLive v.num) Fd.truLiveStatus = 0 ∧
          reg t (.truLiveacc v.num) = bundleAcc s o.base (1 + v.num))))

/-! ### Clocks -/

/-- Clock sources (R421–R429, R464): a ready source sets its flag; the failure of one clears the flag, tells both worlds, and
has the effect of its rule: REFCLK moves the core PLL to KRC and takes the SerDes PLLs with it, KXT expires the watchdogs that
run on it, KRC and the core PLL reset the device, an audio PLL stops the masters of its family; KPR_CLK_SEL is refused while
the source it names is not ready. Where the spec is open it follows the model's own reading (assumption 41). -/
def Obligations.ClockSources : Prop :=
  (∀ (k : ClkSource) (s : State), (sourceMay s k = false → exec (.sourceReady k) s = .next s) ∧
    (sourceMay s k = true → k ≠ .cpll → ∃ t, exec (.sourceReady k) s = .next t ∧ clkBit t (sourceBit k) = true ∧
      t.mem = s.mem ∧ t.cores = s.cores ∧ (k ≠ .apll0 → k ≠ .apll1 → OnlyCtl [.kprClkStat] s t))) ∧
  (∀ s : State, sourceMay s .cpll = true → ∃ t, exec (.sourceReady .cpll) s = .next t ∧ clkBit t Fd.kprClkStatCpllLock = true ∧
    (s.power.up = true ∨ s.power.good.length ≠ 7 → OnlyCtl [.kprClkStat] s t) ∧
    (s.power.up = false → s.power.good.length = 7 → t.power.up = true)) ∧
  (∀ s : State, clkBit s Fd.kprClkStatRefclkRdy = true → ∃ t, exec .refclkFail s = .next t ∧
    clkBit t Fd.kprClkStatRefclkRdy = false ∧ clkBit t Fd.kprClkStatRefActive = true ∧ regF t .kprClkSel Fd.kprClkSelRefsel = 1 ∧
    clkBit t Fd.kprClkStatSdsMdx = false ∧ clkBit t Fd.kprClkStatSdsEth = false ∧ clkBit t Fd.kprClkStatSdsHst = false ∧
    ∀ w : World, regF t (.kprClkFail w.num) Fd.kprClkFailRefclkFail = 1) ∧
  (∀ s : State, s.power.off = false → s.power.sleep ≠ 2 →
    let seen : Prop := (clkBit s Fd.kprClkStatRefclkRdy = true ∧ s.power.up = true) ∨ clkBit s Fd.kprClkStatKxtRdy = true
    ∃ t, exec .krcFail s = .next t ∧
      (s.power.inReset = true ∨ seen → t.power.inReset = true ∧ t.power.drive = some 5 ∧ clkBit t Fd.kprClkStatKrcRdy = false) ∧
      (s.power.inReset = false → ¬seen → exec .corePllLossOfLock s = .next t)) ∧
  (∀ s : State, s.power.off = false → s.power.inReset = false → s.power.sleep ≠ 2 → ∃ t, exec .kxtFail s = .next t ∧
    clkBit t Fd.kprClkStatKxtRdy = false ∧ t.mem = s.mem ∧ (∀ w : World, regF t (.kprClkFail w.num) Fd.kprClkFailKxtFail = 1) ∧
    ∀ w, w < 3 → regF s (.kprWdgCtl w) Fd.kprWdgCtlClk = 1 → wdgState s w = 1 →
      wdgState t w = 2 ∧ regF t (.kprWdgStat w) Fd.kprWdgStatCause = 3) ∧
  (∀ s : State, (clkBit s Fd.kprClkStatCpllLock = false → exec .corePllLossOfLock s = .next s) ∧
    (clkBit s Fd.kprClkStatCpllLock = true → s.power.off = false → s.power.inReset = false →
      ∃ t, exec .corePllLossOfLock s = .next t ∧ t.power.inReset = true ∧ t.power.drive = some 6)) ∧
  (∀ (i : Fin 2) (s : State), clkBit s (apllLock i.val) = true → ∃ t, exec (.audioPllLossOfLock i) s = .next t ∧
    clkBit t (apllLock i.val) = false ∧ (∀ w : World, regF t (.kprClkFail w.num) (apllFail i.val) = 1) ∧
    (∀ n, n < 16 → ratePll s = i.val → tdmMaster s n = true → regF t (.tdmStat n) Fd.tdmStatClkok = 0) ∧
    t.mem = s.mem ∧ t.cores = s.cores) ∧
  (∀ (i : Fin 2) (s : State), s.power.up = true → clkBit s (apllLock i.val) = false →
    ∃ t, exec (.audioPllRelock i) s = .next t ∧ clkBit t (apllLock i.val) = true ∧
      (∀ n, n < 16 → ratePll s = i.val → tdmMaster s n = true → regF t (.tdmStat n) Fd.tdmStatClkok = 1) ∧
      t.mem = s.mem ∧ t.cores = s.cores) ∧
  (∀ (i : Fin 3) (s : State),
    let f := match i.val with | 0 => Fd.kprClkStatSdsMdx | 1 => Fd.kprClkStatSdsEth | _ => Fd.kprClkStatSdsHst
    clkBit s f = true → ∃ t, exec (.serdesPllLossOfLock i) s = .next t ∧ clkBit t f = false ∧
      ∀ w : World, regF t (.kprClkFail w.num) Fd.kprClkFailSdsFail = 1) ∧
  (∀ (x : Writer) (v : Word) (s : State), running s = false → reaches s x (Creg.addr .kprClkSel) = true → owns x (.world .prg) = true →
    let n := Fd.kprClkSelRefsel.get v
    ∃ t, exec (.refselWrite x v) s = .next t ∧
      (clkBit s (if n = 0 then Fd.kprClkStatRefclkRdy else Fd.kprClkStatKrcRdy) = false → OnlyCtl [.kprClkSel] s t ∧
        regF t .kprClkSel Fd.kprClkSelErrNotready = 1 ∧ regF t .kprClkSel Fd.kprClkSelRefsel = regF s .kprClkSel Fd.kprClkSelRefsel) ∧
      (clkBit s (if n = 0 then Fd.kprClkStatRefclkRdy else Fd.kprClkStatKrcRdy) = true →
        SameCtl [.kprClkSel, .kprClkStat] s t ∧ t.mem = s.mem ∧ t.cores = s.cores ∧ regF t .kprClkSel Fd.kprClkSelRefsel = n ∧
        (n ≠ regF s .kprClkStat Fd.kprClkStatRefActive → clkBit t Fd.kprClkStatSwitching = true ∧ t.power.switchTo = n))) ∧
  (∀ s : State, clkBit s Fd.kprClkStatSwitching = true → s.power.switchTo < 2 → ∃ t, exec .referenceSwitchEnd s = .next t ∧
    OnlyCtl [.kprClkStat] s t ∧ clkBit t Fd.kprClkStatSwitching = false ∧
    regF t .kprClkStat Fd.kprClkStatRefActive = s.power.switchTo)

/-! ### Resets -/

/-- Resets of the device (R430–R433). Power-on starts the keeper core alone, leaves the cause POR, retained memory reads 0 and
the fuses stand. A pulse on nRESET below 500 ns does nothing; one of 2,000 ns or more, or the end of a driven reset once the
clock that drove it is back, starts the keeper core with its cause and keeps retained memory and fuses. RST_ASSERT after its key
drives the reset line, stops every core and keeps retained memory and fuses; without the key it does nothing. Without VDD_STBY
the device is off, its cores hold nothing, flash and fuses stand. Where the spec is open it follows the model's own readings
(assumptions 3 and 40). -/
def Obligations.DeviceResets : Prop :=
  (∀ (p1 p2 p3 : List (List Nat)) (s : State), ∃ t, exec (.powerOn p1 p2 p3) s = .next t ∧ memWord t causeAddr = 1#32 ∧
    (∀ a, retBase ≤ a → a < retBase + 0x10000 → a < causeAddr ∨ causeAddr + 4 ≤ a → memByte t a = 0) ∧
    t.trust.fuses = s.trust.fuses ∧ getCore t .keeper = { on := true } ∧ t.power.up = false ∧ t.power.en = [0] ∧
    clkBit t Fd.kprClkStatKrcRdy = true ∧
    ∀ w : World, (getCore t (.curator w)).on = false) ∧
  (∀ (p1 p2 p3 : List (List Nat)) (ns : Nat) (held : Bool) (s : State), s.power.off = false →
    (s.power.inReset = false → ns < 500 → exec (.nreset p1 p2 p3 ns held) s = .next s) ∧
    ∃ t, exec (.nreset p1 p2 p3 ns held) s = .next t ∧
      let taken (c : Word) : Prop := memWord t causeAddr = c ∧ getCore t .keeper = { on := true } ∧ t.power.en = [0] ∧
        t.power.inReset = false ∧ t.trust.fuses = s.trust.fuses ∧
        ∀ a, retBase ≤ a → a < retBase + 0x10000 → a < causeAddr ∨ causeAddr + 4 ≤ a → memByte t a = memByte s a
      (s.power.inReset = false → 2000 ≤ ns → taken (causeWord none true (memWord s causeAddr))) ∧
      (s.power.inReset = true → regF s .kprClkStat Fd.kprClkStatKrcRdy = 0 → t = s) ∧
      (s.power.inReset = true → regF s .kprClkStat Fd.kprClkStatKrcRdy ≠ 0 →
        taken (causeWord s.power.drive held (memWord s causeAddr)))) ∧
  (∀ (key : BitVec 16) (s : State), reaches s .kpr (Creg.addr .kprRstAssert) = true → exec (.rstAssertKey .kpr key) s =
    .next { s with power := { s.power with key := decide (key = 0x3C96#16) } }) ∧
  (∀ s : State, reaches s .kpr (Creg.addr .kprRstAssert) = true → (s.power.key = false → exec (.rstAssert .kpr) s = .next s) ∧
    (s.power.key = true → s.power.off = false → s.power.inReset = false →
      ∃ t, exec (.rstAssert .kpr) s = .next t ∧ t.power.inReset = true ∧ t.power.drive = some 7 ∧
        (∀ d, (getCore t d).on = false) ∧ t.trust.fuses = s.trust.fuses ∧
        ∀ a, retBase ≤ a → a < retBase + 0x10000 → memByte t a = memByte s a)) ∧
  (∀ s : State, ∃ t, exec .vddStbyLoss s = .next t ∧ t.power.off = true ∧ t.trust.fuses = s.trust.fuses ∧ t.cores = [] ∧
    ∀ a, flashBase ≤ a → memByte t a = memByte s a)

/-- Resets of one block (R434, R437–R439). An owner's request sets the block's bit, or is refused with the block's number. A
requested block that is idle counts what it drops and, while its clock runs, is reset and its bits clear: a curator runs from
its vector again, of the source of the replacement that asked for it, the tiles of a quire, the panel and the scan engines hold
their reset state. With its clock stopped it stays pending; the sequencer's retry clears the pending blocks whose clock runs and no other. Where the spec is open it follows the
model's own reading (assumption 41). -/
def Obligations.BlockResets : Prop :=
  (∀ (x : Writer) (k : Fin 4) (j : Nat) (s : State), running s = false → reaches s x (Creg.addr (.kprRstReq k.val)) = true → j < 32 → 32 * k.val + j < 125 →
    let b := 32 * k.val + j
    owns x (blockOwn s b) = true → bitOf s .kprRstReq b = false →
    ∃ t, exec (.rstReq x k (1#32 <<< j)) s = .next t ∧
      (blockRefused s b = false → OnlyCtl [.kprRstReq k.val] s t ∧ bitOf t .kprRstReq b = true) ∧
      (blockRefused s b = true → let w := (refusalWorld x (blockOwn s b)).num
        OnlyCtl [.kprRstErr w] s t ∧ regF t (.kprRstErr w) Fd.kprRstErrRefused = 1 ∧ regF t (.kprRstErr w) Fd.kprRstErrBlock = b)) ∧
  (∀ (b : Fin 125) (dropped : Nat) (clk : Bool) (s : State), bitOf s .kprRstReq b.val = true → bitOf s .kprRstPend b.val = false →
    ∃ t, exec (.blockIdle b dropped clk) s = .next t ∧ t.flash.prog = s.flash.prog ∧
      (dropped ≠ 0 → regF t .kprRstDrop Fd.kprRstDropBlock = b.val ∧
        regF t .kprRstDrop Fd.kprRstDropCount = min 65535 (regF s .kprRstDrop Fd.kprRstDropCount + dropped)) ∧
      bitOf t .kprRstReq b.val = !clk ∧ bitOf t .kprRstPend b.val = !clk ∧
      (clk = false → t.mem = s.mem ∧ (b.val < 2 → t.cores = s.cores)) ∧
      (∀ w : World, clk = true → b.val = w.num → (getCore t (.curator w)).on = true ∧
        (getCore t (.curator w)).pc = bundleVec s (if s.live.cur = some w then s.live.base else gddrBase) w ∧
        (s.live.cur = some w → t.live.cur = none ∧ regF t (.truLive w.num) Fd.truLiveCurdone = 1 ∧
          regF t (.truLive w.num) Fd.truLiveBusy = 0)) ∧
      (∀ (q : Fin 64) (j : Fin 17), b.val = q.val + 2 → getCore t (.tile q j) = {}) ∧
      (b.val = 119 → t.panel = {}) ∧ (b.val = 124 → t.scan.engine = [])) ∧
  (∀ (run : BitVec 125) (s : State), ∃ t, exec (.sequencerRetry run) s = .next t ∧
    ∀ b, b < 125 → bitOf s .kprRstPend b = true →
      (run.getLsbD b = true → bitOf t .kprRstPend b = false ∧ bitOf t .kprRstReq b = false) ∧
      (run.getLsbD b = false → bitOf t .kprRstPend b = true ∧ bitOf t .kprRstReq b = bitOf s .kprRstReq b))

/-! ### Power -/

/-- Rails and sleep (R443–R445, R453–R458). A good rail enables the next, and the last, with the core PLL in lock, powers the
main die; a rail that times out takes every rail down and is tried once more, and a lost one leaves the device dead. A sleep
request is refused while the tick runs, and else stored; once sleep is due, the main die loses power and the target state is
entered: Standby while a watchdog has expired or the downgrade applies. A serial edge, CTS or the timer, each where enabled,
wakes with its source; the wake raises the first rail again. Where the spec is open it follows the model's own reading
(assumption 42). -/
def Obligations.RailsAndSleep : Prop :=
  (∀ (r : Fin 7) (s : State), s.power.en.contains r.val = true → s.power.good.contains r.val = false →
    let g := NSet.add s.power.good r.val
    let whole := !s.power.up && g.length == 7 && clkBit s Fd.kprClkStatCpllLock
    ∃ t u, exec (.powerGood r) s = .next t ∧ exec (.pgTimeout r) s = .next u ∧ t.power.good = g ∧
      (∀ k, k < 7 → r.val < k → (∀ i, r.val < i → i < k → s.power.good.contains i = true) → t.power.en.contains k = true ∨
        s.power.good.contains k = true) ∧
      (whole = false → t.ctl = s.ctl ∧ t.mem = s.mem ∧ t.cores = s.cores ∧ t.power.up = s.power.up) ∧
      (whole = true → t.power.up = true) ∧
      regF u .kprPwrStat Fd.kprPwrStatPgfail = 1 ∧ regF u .kprPwrStat Fd.kprPwrStatRail = r.val ∧ u.power.up = false ∧
      u.power.good = [] ∧ (s.power.tries = 0 → u.power.en = [0] ∧ u.power.tries = 1 ∧ u.power.dead = s.power.dead) ∧
      (s.power.tries ≠ 0 → u.power.en = [] ∧ u.power.dead = true)) ∧
  (∀ (r : Fin 7) (s : State), s.power.good.contains r.val = true → ∃ t, exec (.pgLost r) s = .next t ∧
    regF t .kprPwrStat Fd.kprPwrStatPglost = 1 ∧ regF t .kprPwrStat Fd.kprPwrStatRail = r.val ∧ t.power.en = [] ∧
    t.power.good = [] ∧ t.power.up = false ∧ t.power.dead = true ∧ getCore t .keeper = getCore s .keeper) ∧
  (∀ (v : Word) (s : State), reaches s .kpr (Creg.addr .kprPwrReq) = true →
    let asks := Fd.kprPwrReqSleepPrg.get v == 1 || Fd.kprPwrReqSleepGrd.get v == 1
    ∃ t, exec (.sleepRequest .kpr v) s = .next t ∧ OnlyCtl [.kprPwrReq] s t ∧
      (running s = true → asks = true → regF t .kprPwrReq Fd.kprPwrReqRefused = 1 ∧
        regF t .kprPwrReq Fd.kprPwrReqSleepPrg = regF s .kprPwrReq Fd.kprPwrReqSleepPrg ∧
        regF t .kprPwrReq Fd.kprPwrReqSleepGrd = regF s .kprPwrReq Fd.kprPwrReqSleepGrd) ∧
      (running s = false ∨ asks = false → regF t .kprPwrReq Fd.kprPwrReqSleepPrg = Fd.kprPwrReqSleepPrg.get v ∧
        regF t .kprPwrReq Fd.kprPwrReqSleepGrd = Fd.kprPwrReqSleepGrd.get v)) ∧
  (∀ s : State, (sleepDue s = false → exec .sleepEntry s = .next s) ∧
    (sleepDue s = true →
      let deep := regEffF s .kprPwrReq Fd.kprPwrReqTgtPrg == 2 && regEffF s .kprPwrReq Fd.kprPwrReqTgtGrd == 2
      let two := deep && !downgrade s && [0, 1, 2].all (fun w => wdgState s w != 2)
      ∃ t, exec .sleepEntry s = .next t ∧ t.power.up = false ∧ t.power.sleep = (if two then 2 else 1) ∧
        regF t .kprPwrStat Fd.kprPwrStatLast = (if two then 2 else 1) ∧
        regF t .kprPwrStat Fd.kprPwrStatDowngraded = (if deep && downgrade s then 1 else 0) ∧
        (∀ w : World, getCore t (.curator w) = {}) ∧ t.power.en = t.power.good ∧
        (two = false → t.power.good = [4] ∧ getCore t .keeper = getCore s .keeper) ∧
        (two = true → (getCore t .keeper).on = false ∧ clkBit t Fd.kprClkStatKrcRdy = false ∧
          t.power.good = (if regF s .kprPwrReq Fd.kprPwrReqGhold = 1 then [4] else [])))) ∧
  (∀ (n : Fin 4) (s : State), s.power.sleep ≠ 0 → s.power.wake = false → s.power.dead = false →
    let woke (t : State) (src port : Nat) : Prop := t.power.wake = true ∧ regF t .kprPwrStat Fd.kprPwrStatWakesrc = src ∧
      regF t .kprPwrStat Fd.kprPwrStatWakeport = port ∧ t.mem = s.mem ∧ t.cores = s.cores
    ∃ t u v, exec (.serialWake n false) s = .next t ∧ exec (.ctsWake n) s = .next u ∧ exec .wakeTimer s = .next v ∧
      (serBit s n.val Fd.serCfgWake = true → regF s (.serStat n.val) Fd.serStatHeld = 0 →
        woke t 1 n.val) ∧
      (ctsEnabled s n.val = true → woke u 2 n.val) ∧ (ctsEnabled s n.val = false → u = s) ∧
      (timerEnabled s = true → woke v 3 0 ∧ regF v .kprPwrTmr Fd.kprPwrTmrExpired = 1) ∧ (timerEnabled s = false → v = s)) ∧
  (∀ (chk : BitVec 8) (s : State),
    (s.power.sleep = 0 ∨ s.power.wake = false ∨ s.power.dead = true → exec (.wake chk) s = .next s) ∧
    (s.power.sleep ≠ 0 → s.power.wake = true → s.power.dead = false → ∃ t, exec (.wake chk) s = .next t ∧ t.power.sleep = 0 ∧
      t.power.wake = false ∧ t.power.waking = true ∧ t.power.en.contains 0 = true ∧ t.mem = s.mem ∧
      (s.power.sleep = 2 → (getCore t .keeper).on = true ∧ clkBit t Fd.kprClkStatKrcRdy = true) ∧
      (s.power.sleep ≠ 2 → t.cores = s.cores ∧ (s.flash.jobs = [] → SameCtl [.flsStat] s t))))

/-- Temperature and gated quires (R449, R459), while the rail of the sensors is good. A reading stands in its register with its
maximum; above 105 °C OVERT sets, and clears once every reading is below 100 °C; 115 °C takes every rail down. A quire idle for
1,000 ticks loses its power, its tiles' memories and its cores; its power-up shows it powered, with the links that are not
retired. Where the spec is open it follows the model's own readings (assumptions 27 and 45). -/
def Obligations.HeatAndGating : Prop :=
  (∀ (temps : List (BitVec 12)) (s : State), temps.length = 16 → s.power.good.contains 1 = true →
    let wasHot := regF s .kprPwrStat Fd.kprPwrStatOvert == 1
    let hot := temps.any (fun v => decide (420 < tempOf v.toNat))
    let cool := temps.all (fun v => decide (tempOf v.toNat < 400))
    let trip := temps.any (fun v => decide (460 ≤ tempOf v.toNat))
    ∃ t, exec (.temperatureRead temps) s = .next t ∧
      (∀ k v, temps[k]? = some v → regF t (.kprPwrTemp k) Fd.kprPwrTempTemp = v.toNat ∧
        tempOf (regF t (.kprPwrTemp k) Fd.kprPwrTempMax) =
          max (tempOf (regF s (.kprPwrTemp k) Fd.kprPwrTempMax)) (tempOf v.toNat)) ∧
      (trip = false → t.mem = s.mem ∧ t.cores = s.cores ∧ t.power = s.power ∧
        regF t .kprPwrStat Fd.kprPwrStatOvert = (if wasHot then (if cool then 0 else 1) else if hot then 1 else 0)) ∧
      (trip = true → regF t .kprPwrStat Fd.kprPwrStatTripped = 1 ∧ t.power.dead = true ∧ t.power.en = [] ∧ t.power.good = [] ∧
        t.power.up = false)) ∧
  (∀ (q : Fin 64) (s : State), running s = true → regF s (.qrcStat q.val) Fd.qrcStatPwr = 1 → 1000 ≤ (getQuire s q.val).idle →
    quireIdle s q.val = true → ∃ t, exec (.quireGate q) s = .next t ∧ regF t (.qrcStat q.val) Fd.qrcStatPwr = 0 ∧
      quireGated t q.val = true ∧ (∀ j : Fin 17, getCore t (.tile q j) = {}) ∧
      (∀ i, i < 17 * 0x40000 → memByte t (tileBase q.val 0 + i) = 0) ∧ SameMemBut (tileBase q.val 0) (17 * 0x40000) s t) ∧
  (∀ (q : Fin 64) (s : State), s.power.up = true → regF s (.qrcStat q.val) Fd.qrcStatPwr = 0 → quireGated s q.val = false →
    (∀ k, k < q.val → (getQuire s k).raised = true) →
    ∃ t, exec (.quirePowerUpEnd q) s = .next t ∧ regF t (.qrcStat q.val) Fd.qrcStatPwr = 1 ∧ (getQuire t q.val).raised = true ∧ t.mem = s.mem ∧ t.cores = s.cores ∧
      SameCtl [.qrcStat q.val, .spnLink q.val] s t ∧
      (s.spine.retired.contains (2 * q.val) = false → regF t (.spnLink q.val) Fd.spnLinkL0Up = 1) ∧
      (s.spine.retired.contains (2 * q.val + 1) = false → regF t (.spnLink q.val) Fd.spnLinkL1Up = 1))

/-! ### The debug port and register writes -/

/-- The debug port and a register write (R5, R16, R225, R396). HALT, RESUME and STEP act on a core that the level in force opens
and on no other. Below the control space, at level 0 a word of memory is read and written, at level 2 nothing is. With no tick
running, a curator's write to a TRU argument register of its own world is stored; the other world's raises PRIV with code 1 and
stores nothing, and an address that no register decodes raises BUS with code 0, on a curator that runs with no entry waiting:
EADDR is the address that an aperture of its core gives it, a free value where none does (assumption 3). The debug port's reach
follows the model's reading (assumption 22). -/
def Obligations.DebugAndRegisters : Prop :=
  let trapped (s : State) (c : CoreId) : Prop :=
    (getCore s c).on = true ∧ (getCore s c).halted = false ∧ (getCore s c).entry = none
  let traps (s : State) (c : CoreId) (vec code a : Nat) : State := match popAddr (getCore s c) a with
    | some ea => enterException s c vec code ea (getCore s c).pc
    | none => enterException { s with free := s.free + 1 } c vec code (Config.freeWord s.free) (getCore s c).pc
  (∀ (c : CoreId) (s : State),
    (tapCore s c = false → exec (.tapAccess (.halt c)) s = .next s ∧ exec (.tapAccess (.resume c)) s = .next s ∧
      exec (.tapAccess (.step c)) s = .next s) ∧
    (tapCore s c = true → ∃ t u v, exec (.tapAccess (.halt c)) s = .next t ∧ exec (.tapAccess (.resume c)) s = .next u ∧
      exec (.tapAccess (.step c)) t = .next v ∧
      (s.trust.tapStep.contains (coreKey c) = false → canRun t c = false) ∧ t.trust.tapHalt.contains (coreKey c) = true ∧
      u.trust.tapHalt.contains (coreKey c) = false ∧ v.trust.tapStep.contains (coreKey c) = true ∧
      t.mem = s.mem ∧ t.cores = s.cores ∧ t.ctl = s.ctl ∧ u.mem = s.mem ∧ u.cores = s.cores ∧ u.ctl = s.ctl)) ∧
  (∀ (a : BitVec 40) (v : Word) (s : State), 0x8000 ≤ a.toNat → a.toNat < 0x0F00000000 →
    (debugLevel s = 0 → exec (.tapAccess (.writeWord a v)) s = .next (setWord s a.toNat v) ∧
      exec (.tapAccess (.readWord a)) s = .next { s with trust := { s.trust with tapData := memWord s a.toNat } }) ∧
    (debugLevel s = 2 → exec (.tapAccess (.writeWord a v)) s = .next s ∧ exec (.tapAccess (.readWord a)) s = .next s)) ∧
  (∀ (w o : World) (v : Word) (s : State), running s = false → reaches s (.cur w) (Creg.addr (.truArg o.num)) = true →
    let a := BitVec.ofNat 40 (Creg.addr (.truArg o.num))
    (w = o → ∃ t, exec (.registerWrite (.cur w) a v) s = .next t ∧ OnlyCtl [.truArg o.num] s t ∧ reg t (.truArg o.num) = v) ∧
    (w ≠ o → (trapped s (.curator w) → exec (.registerWrite (.cur w) a v) s =
        .next (traps s (.curator w) 4 1 a.toNat)) ∧
      reg (traps s (.curator w) 4 1 a.toNat) (.truArg o.num) = reg s (.truArg o.num) ∧
      (¬trapped s (.curator w) → exec (.registerWrite (.cur w) a v) s = .next s))) ∧
  (∀ (x : Writer) (a : BitVec 40) (v : Word) (s : State), running s = false → reaches s x a.toNat = true → ctlWrite x a.toNat v s = none →
    (trapped s (writerCore x) → exec (.registerWrite x a v) s = .next (traps s (writerCore x) 3 0 a.toNat)) ∧
      (¬trapped s (writerCore x) → exec (.registerWrite x a v) s = .next s))

/-! ### The state after reset, and headline statements -/

/-- After reset (R30, R407, R430, R433, R463): the tick is stopped, the keeper core runs and no other core does, its watchdog counts, every
register but that watchdog's holds its reset word, flash is blank, no byte of memory but the cause word reads other than its
default, and nothing waits. The board's pins, the fuses and the flash contents are the model's choice (assumptions 1, 2). -/
def Obligations.AfterReset : Prop :=
  Safe State.reset ∧ running State.reset = false ∧ getCore State.reset .keeper = { on := true } ∧
  (∀ c, c ≠ .keeper → getCore State.reset c = {}) ∧ wdgState State.reset 2 = 1 ∧
  (∀ r : Creg, r.addr ≠ Creg.addr (.kprWdgCtl 2) → reg State.reset r = r.resetWord) ∧
  memWord State.reset causeAddr = 1#32 ∧
  (∀ a, a < causeAddr ∨ causeAddr + 4 ≤ a → memByte State.reset a = memDefault a) ∧
  (∀ b, b < 256 → blockBlank State.reset b = true) ∧ State.reset.power.en = [0] ∧ State.reset.power.up = false ∧
  State.reset.pending = []

/-- A step that runs a Limdon instruction keeps the state safe: the memory in its canonical form, and only well-formed commands
waiting; in every state, and on every path: retirement, exception, wait and spill. STF is apart, since its store to a control
register is that register's command. -/
def Obligations.LimdonStepKeepsSafe : Prop :=
  ∀ (i : Instr) (r : List Instr) (s t : State), s.pending = i :: r → limdonBeside i ≠ none → (∀ c, i ≠ .stf c) → Safe s →
    step s = .next t → Safe t

/-- The Limdon encoding (R191, R192, R196, R200, R201, R203, R206, R217, R218): decoding the halfword of a well-formed instruction gives
it back with every operand, and every halfword is the encoding of the instruction that it decodes to. -/
def Obligations.LimdonCodec : Prop :=
  (∀ (i : Instr) (n : Nat) (b : Beside), i.wf = true → limdonEncode i = some n → limdonBeside i = some b →
    n < 65536 ∧ limdonDecode b n = i) ∧
  (∀ (b : Beside) (n : Nat), n < 65536 → limdonEncode (limdonDecode b n) = some n)
end

