-- ==== Sys2Proof/Laws/Maps.lean ====
section
/-! SUPPORT. Laws of sparse maps: what is read after a write, after an erasure and after two writes, and that the
canonical order is kept. -/

namespace Sys2Proof

theorem SMap.get_erase_self {α : Type} (m : SMap α) (a : Nat) (d : α) : SMap.get (SMap.erase m a) a d = d := by
  induction m with
  | nil => rfl
  | cons e m ih =>
    obtain ⟨k, v⟩ := e
    unfold SMap.erase at ih ⊢
    by_cases h : k = a
    · simp [h, ih]
    · have h' : a ≠ k := fun x => h x.symm
      simp [h, SMap.get, h', ih]

theorem SMap.get_erase_ne {α : Type} (m : SMap α) {a b : Nat} (d : α) (h : b ≠ a) :
    SMap.get (SMap.erase m a) b d = SMap.get m b d := by
  induction m with
  | nil => rfl
  | cons e m ih =>
    obtain ⟨k, v⟩ := e
    unfold SMap.erase at ih ⊢
    by_cases hk : k = a
    · subst hk; simp [SMap.get, h, ih]
    · simp [hk, SMap.get, ih]

theorem SMap.get_insert_self {α : Type} (m : SMap α) (a : Nat) (x d : α) : SMap.get (SMap.insert m a x) a d = x := by
  induction m with
  | nil => simp [SMap.insert, SMap.get]
  | cons e m ih =>
    obtain ⟨k, v⟩ := e
    unfold SMap.insert
    split
    · simp [SMap.get]
    · split
      · next h => simp [SMap.get, h]
      · next h => simp [SMap.get, h, ih]

theorem SMap.get_insert_ne {α : Type} (m : SMap α) {a b : Nat} (x d : α) (h : b ≠ a) :
    SMap.get (SMap.insert m a x) b d = SMap.get m b d := by
  induction m with
  | nil => simp [SMap.insert, SMap.get, h]
  | cons e m ih =>
    obtain ⟨k, v⟩ := e
    unfold SMap.insert
    split
    · simp [SMap.get, h]
    · split
      · next hk => subst hk; simp [SMap.get, h]
      · simp [SMap.get, ih]

@[simp] theorem SMap.get_set_self {α : Type} [DecidableEq α] (m : SMap α) (a : Nat) (x d : α) :
    SMap.get (SMap.set m a x d) a d = x := by
  unfold SMap.set
  split
  · next h => rw [SMap.get_erase_self, h]
  · exact SMap.get_insert_self m a x d

theorem SMap.get_set_ne {α : Type} [DecidableEq α] (m : SMap α) {a b : Nat} (x d d' : α) (h : b ≠ a) :
    SMap.get (SMap.set m a x d') b d = SMap.get m b d := by
  unfold SMap.set
  split
  · exact SMap.get_erase_ne m d h
  · exact SMap.get_insert_ne m x d h

/-- What a key reads after a write, in one equation. -/
theorem SMap.get_set {α : Type} [DecidableEq α] (m : SMap α) (a b : Nat) (x d : α) :
    SMap.get (SMap.set m a x d) b d = if b = a then x else SMap.get m b d := by
  split
  · next h => subst h; exact SMap.get_set_self m b x d
  · next h => exact SMap.get_set_ne m x d d h

theorem SMap.insert_insert {α : Type} (m : SMap α) (a : Nat) (x y : α) :
    SMap.insert (SMap.insert m a x) a y = SMap.insert m a y := by
  induction m with
  | nil => simp [SMap.insert]
  | cons e m ih =>
    obtain ⟨k, v⟩ := e
    by_cases h : a < k
    · simp [SMap.insert, h]
    · by_cases h2 : a = k
      · simp [SMap.insert, h2]
      · simp [SMap.insert, h, h2, ih]

/-- The second of two writes to a key stands alone, unless the first has erased it. -/
theorem SMap.set_set {α : Type} [DecidableEq α] (m : SMap α) (a : Nat) {x y d : α} (h : x ≠ d) :
    SMap.set (SMap.set m a x d) a y d = SMap.set m a y d := by
  unfold SMap.set
  rw [if_neg h]
  split
  · unfold SMap.erase
    induction m with
    | nil => simp [SMap.insert]
    | cons e m ih =>
      obtain ⟨k, v⟩ := e
      by_cases h1 : a < k
      · simp [SMap.insert, h1]
      · by_cases h2 : a = k
        · simp [SMap.insert, h2]
        · by_cases h3 : k = a
          · exact absurd h3.symm h2
          · simp [SMap.insert, h1, h2, h3, ih]
  · exact SMap.insert_insert m a x y

/-! ### The canonical order -/

theorem SMap.sorted_cons {α : Type} (e : Nat × α) (m : SMap α) :
    SMap.sorted (e :: m) = true ↔ (∀ x ∈ m, e.1 < x.1) ∧ SMap.sorted m = true := by
  obtain ⟨k, v⟩ := e
  simp [SMap.sorted]

theorem SMap.sorted_filter {α : Type} (p : Nat × α → Bool) {m : SMap α} (h : SMap.sorted m = true) :
    SMap.sorted (m.filter p) = true := by
  induction m with
  | nil => rfl
  | cons e m ih =>
    rw [SMap.sorted_cons] at h
    rw [List.filter_cons]
    split
    · rw [SMap.sorted_cons]
      exact ⟨fun x hx => h.1 x ((List.mem_filter.1 hx).1), ih h.2⟩
    · exact ih h.2

theorem SMap.mem_insert {α : Type} {m : SMap α} {a : Nat} {x : α} {e : Nat × α} (h : e ∈ SMap.insert m a x) :
    e = (a, x) ∨ e ∈ m := by
  induction m with
  | nil => simpa [SMap.insert] using h
  | cons f m ih =>
    obtain ⟨k, v⟩ := f
    unfold SMap.insert at h
    split at h
    · simpa using h
    · split at h
      · next hk =>
        subst hk
        rcases List.mem_cons.1 h with h | h
        · exact .inl h
        · exact .inr (List.mem_cons_of_mem _ h)
      · rcases List.mem_cons.1 h with h | h
        · exact .inr (by simp [h])
        · rcases ih h with h | h
          · exact .inl h
          · exact .inr (List.mem_cons_of_mem _ h)

theorem SMap.sorted_insert {α : Type} {m : SMap α} (a : Nat) (x : α) (h : SMap.sorted m = true) :
    SMap.sorted (SMap.insert m a x) = true := by
  induction m with
  | nil => rfl
  | cons e m ih =>
    obtain ⟨k, v⟩ := e
    have hs := h
    rw [SMap.sorted_cons] at h
    unfold SMap.insert
    split
    · next hk =>
      rw [SMap.sorted_cons]
      refine ⟨fun y hy => ?_, hs⟩
      rcases List.mem_cons.1 hy with hy | hy
      · subst hy; exact hk
      · exact Nat.lt_trans hk (h.1 y hy)
    · split
      · rw [SMap.sorted_cons]; exact h
      · next h1 h2 =>
        rw [SMap.sorted_cons]
        refine ⟨fun y hy => ?_, ih h.2⟩
        rcases SMap.mem_insert hy with hy | hy
        · subst hy; simp only; omega
        · exact h.1 y hy

theorem SMap.sorted_set {α : Type} [DecidableEq α] {m : SMap α} (a : Nat) (x d : α) (h : SMap.sorted m = true) :
    SMap.sorted (SMap.set m a x d) = true := by
  unfold SMap.set
  split
  · exact SMap.sorted_filter _ h
  · exact SMap.sorted_insert a x h

theorem SMap.sorted_append {α : Type} {m n : SMap α} (hm : SMap.sorted m = true) (hn : SMap.sorted n = true)
    (h : ∀ x ∈ m, ∀ y ∈ n, x.1 < y.1) : SMap.sorted (m ++ n) = true := by
  induction m with
  | nil => exact hn
  | cons e m ih =>
    rw [SMap.sorted_cons] at hm
    rw [List.cons_append, SMap.sorted_cons]
    refine ⟨fun x hx => ?_, ih hm.2 (fun x hx y hy => h x (List.mem_cons_of_mem _ hx) y hy)⟩
    rcases List.mem_append.1 hx with hx | hx
    · exact hm.1 x hx
    · exact h e (by simp) x hx

theorem SMap.sorted_map {α β : Type} {m : SMap α} (f : Nat × α → Nat × β)
    (hm : SMap.sorted m = true) (h : ∀ x ∈ m, ∀ y ∈ m, x.1 < y.1 → (f x).1 < (f y).1) : SMap.sorted (m.map f) = true := by
  induction m with
  | nil => rfl
  | cons e m ih =>
    rw [SMap.sorted_cons] at hm
    rw [List.map_cons, SMap.sorted_cons]
    refine ⟨fun x hx => ?_, ih hm.2 (fun x hx y hy => h x (List.mem_cons_of_mem _ hx) y (List.mem_cons_of_mem _ hy))⟩
    obtain ⟨y, hy, rfl⟩ := List.mem_map.1 hx
    exact h e (by simp) y (List.mem_cons_of_mem _ hy) (hm.1 y hy)

end Sys2Proof
end

