-- ==== Sys2Proof/Laws/State.lean ====
section
/-! SUPPORT. Laws of the state's update operations: each field under each update, what is read after a write, and that
the canonical form of the memory is kept. -/

namespace Sys2Proof.Machine

/-! ### Fields that an update leaves alone -/

@[simp] theorem setCore_pending (s : State) (c : CoreId) (k : Core) : (setCore s c k).pending = s.pending := rfl
@[simp] theorem setCore_free (s : State) (c : CoreId) (k : Core) : (setCore s c k).free = s.free := rfl
@[simp] theorem setCore_ctl (s : State) (c : CoreId) (k : Core) : (setCore s c k).ctl = s.ctl := rfl
@[simp] theorem setCore_eff (s : State) (c : CoreId) (k : Core) : (setCore s c k).eff = s.eff := rfl
@[simp] theorem setCore_mem (s : State) (c : CoreId) (k : Core) : (setCore s c k).mem = s.mem := rfl
@[simp] theorem setCore_poison (s : State) (c : CoreId) (k : Core) : (setCore s c k).poison = s.poison := rfl
@[simp] theorem setCore_upsets (s : State) (c : CoreId) (k : Core) : (setCore s c k).upsets = s.upsets := rfl
@[simp] theorem setCore_tick (s : State) (c : CoreId) (k : Core) : (setCore s c k).tick = s.tick := rfl
@[simp] theorem setCore_spine (s : State) (c : CoreId) (k : Core) : (setCore s c k).spine = s.spine := rfl
@[simp] theorem setCore_conceal (s : State) (c : CoreId) (k : Core) : (setCore s c k).conceal = s.conceal := rfl
@[simp] theorem setCore_quires (s : State) (c : CoreId) (k : Core) : (setCore s c k).quires = s.quires := rfl
@[simp] theorem setCore_budget (s : State) (c : CoreId) (k : Core) : (setCore s c k).budget = s.budget := rfl
@[simp] theorem setCore_evidence (s : State) (c : CoreId) (k : Core) : (setCore s c k).evidence = s.evidence := rfl
@[simp] theorem setCore_memSys (s : State) (c : CoreId) (k : Core) : (setCore s c k).memSys = s.memSys := rfl
@[simp] theorem setCore_stage (s : State) (c : CoreId) (k : Core) : (setCore s c k).stage = s.stage := rfl
@[simp] theorem setCore_eth (s : State) (c : CoreId) (k : Core) : (setCore s c k).eth = s.eth := rfl
@[simp] theorem setCore_scan (s : State) (c : CoreId) (k : Core) : (setCore s c k).scan = s.scan := rfl
@[simp] theorem setCore_panel (s : State) (c : CoreId) (k : Core) : (setCore s c k).panel = s.panel := rfl
@[simp] theorem setCore_uart (s : State) (c : CoreId) (k : Core) : (setCore s c k).uart = s.uart := rfl
@[simp] theorem setCore_host (s : State) (c : CoreId) (k : Core) : (setCore s c k).host = s.host := rfl
@[simp] theorem setCore_trust (s : State) (c : CoreId) (k : Core) : (setCore s c k).trust = s.trust := rfl
@[simp] theorem setCore_live (s : State) (c : CoreId) (k : Core) : (setCore s c k).live = s.live := rfl
@[simp] theorem setCore_flash (s : State) (c : CoreId) (k : Core) : (setCore s c k).flash = s.flash := rfl
@[simp] theorem setCore_power (s : State) (c : CoreId) (k : Core) : (setCore s c k).power = s.power := rfl
@[simp] theorem setCore_watch (s : State) (c : CoreId) (k : Core) : (setCore s c k).watch = s.watch := rfl

@[simp] theorem modCore_pending (s : State) (c : CoreId) (f : Core → Core) : (modCore s c f).pending = s.pending := rfl
@[simp] theorem modCore_free (s : State) (c : CoreId) (f : Core → Core) : (modCore s c f).free = s.free := rfl
@[simp] theorem modCore_ctl (s : State) (c : CoreId) (f : Core → Core) : (modCore s c f).ctl = s.ctl := rfl
@[simp] theorem modCore_eff (s : State) (c : CoreId) (f : Core → Core) : (modCore s c f).eff = s.eff := rfl
@[simp] theorem modCore_mem (s : State) (c : CoreId) (f : Core → Core) : (modCore s c f).mem = s.mem := rfl
@[simp] theorem modCore_poison (s : State) (c : CoreId) (f : Core → Core) : (modCore s c f).poison = s.poison := rfl
@[simp] theorem modCore_upsets (s : State) (c : CoreId) (f : Core → Core) : (modCore s c f).upsets = s.upsets := rfl
@[simp] theorem modCore_tick (s : State) (c : CoreId) (f : Core → Core) : (modCore s c f).tick = s.tick := rfl
@[simp] theorem modCore_spine (s : State) (c : CoreId) (f : Core → Core) : (modCore s c f).spine = s.spine := rfl
@[simp] theorem modCore_conceal (s : State) (c : CoreId) (f : Core → Core) : (modCore s c f).conceal = s.conceal := rfl
@[simp] theorem modCore_quires (s : State) (c : CoreId) (f : Core → Core) : (modCore s c f).quires = s.quires := rfl
@[simp] theorem modCore_budget (s : State) (c : CoreId) (f : Core → Core) : (modCore s c f).budget = s.budget := rfl
@[simp] theorem modCore_evidence (s : State) (c : CoreId) (f : Core → Core) : (modCore s c f).evidence = s.evidence := rfl
@[simp] theorem modCore_memSys (s : State) (c : CoreId) (f : Core → Core) : (modCore s c f).memSys = s.memSys := rfl
@[simp] theorem modCore_stage (s : State) (c : CoreId) (f : Core → Core) : (modCore s c f).stage = s.stage := rfl
@[simp] theorem modCore_eth (s : State) (c : CoreId) (f : Core → Core) : (modCore s c f).eth = s.eth := rfl
@[simp] theorem modCore_scan (s : State) (c : CoreId) (f : Core → Core) : (modCore s c f).scan = s.scan := rfl
@[simp] theorem modCore_panel (s : State) (c : CoreId) (f : Core → Core) : (modCore s c f).panel = s.panel := rfl
@[simp] theorem modCore_uart (s : State) (c : CoreId) (f : Core → Core) : (modCore s c f).uart = s.uart := rfl
@[simp] theorem modCore_host (s : State) (c : CoreId) (f : Core → Core) : (modCore s c f).host = s.host := rfl
@[simp] theorem modCore_trust (s : State) (c : CoreId) (f : Core → Core) : (modCore s c f).trust = s.trust := rfl
@[simp] theorem modCore_live (s : State) (c : CoreId) (f : Core → Core) : (modCore s c f).live = s.live := rfl
@[simp] theorem modCore_flash (s : State) (c : CoreId) (f : Core → Core) : (modCore s c f).flash = s.flash := rfl
@[simp] theorem modCore_power (s : State) (c : CoreId) (f : Core → Core) : (modCore s c f).power = s.power := rfl
@[simp] theorem modCore_watch (s : State) (c : CoreId) (f : Core → Core) : (modCore s c f).watch = s.watch := rfl

@[simp] theorem setReg_pending (s : State) (r : Creg) (w : Word) : (setReg s r w).pending = s.pending := rfl
@[simp] theorem setReg_free (s : State) (r : Creg) (w : Word) : (setReg s r w).free = s.free := rfl
@[simp] theorem setReg_eff (s : State) (r : Creg) (w : Word) : (setReg s r w).eff = s.eff := rfl
@[simp] theorem setReg_mem (s : State) (r : Creg) (w : Word) : (setReg s r w).mem = s.mem := rfl
@[simp] theorem setReg_poison (s : State) (r : Creg) (w : Word) : (setReg s r w).poison = s.poison := rfl
@[simp] theorem setReg_upsets (s : State) (r : Creg) (w : Word) : (setReg s r w).upsets = s.upsets := rfl
@[simp] theorem setReg_cores (s : State) (r : Creg) (w : Word) : (setReg s r w).cores = s.cores := rfl
@[simp] theorem setReg_tick (s : State) (r : Creg) (w : Word) : (setReg s r w).tick = s.tick := rfl
@[simp] theorem setReg_spine (s : State) (r : Creg) (w : Word) : (setReg s r w).spine = s.spine := rfl
@[simp] theorem setReg_conceal (s : State) (r : Creg) (w : Word) : (setReg s r w).conceal = s.conceal := rfl
@[simp] theorem setReg_quires (s : State) (r : Creg) (w : Word) : (setReg s r w).quires = s.quires := rfl
@[simp] theorem setReg_budget (s : State) (r : Creg) (w : Word) : (setReg s r w).budget = s.budget := rfl
@[simp] theorem setReg_evidence (s : State) (r : Creg) (w : Word) : (setReg s r w).evidence = s.evidence := rfl
@[simp] theorem setReg_memSys (s : State) (r : Creg) (w : Word) : (setReg s r w).memSys = s.memSys := rfl
@[simp] theorem setReg_stage (s : State) (r : Creg) (w : Word) : (setReg s r w).stage = s.stage := rfl
@[simp] theorem setReg_eth (s : State) (r : Creg) (w : Word) : (setReg s r w).eth = s.eth := rfl
@[simp] theorem setReg_scan (s : State) (r : Creg) (w : Word) : (setReg s r w).scan = s.scan := rfl
@[simp] theorem setReg_panel (s : State) (r : Creg) (w : Word) : (setReg s r w).panel = s.panel := rfl
@[simp] theorem setReg_uart (s : State) (r : Creg) (w : Word) : (setReg s r w).uart = s.uart := rfl
@[simp] theorem setReg_host (s : State) (r : Creg) (w : Word) : (setReg s r w).host = s.host := rfl
@[simp] theorem setReg_trust (s : State) (r : Creg) (w : Word) : (setReg s r w).trust = s.trust := rfl
@[simp] theorem setReg_live (s : State) (r : Creg) (w : Word) : (setReg s r w).live = s.live := rfl
@[simp] theorem setReg_flash (s : State) (r : Creg) (w : Word) : (setReg s r w).flash = s.flash := rfl
@[simp] theorem setReg_power (s : State) (r : Creg) (w : Word) : (setReg s r w).power = s.power := rfl
@[simp] theorem setReg_watch (s : State) (r : Creg) (w : Word) : (setReg s r w).watch = s.watch := rfl

@[simp] theorem setRegF_pending (s : State) (r : Creg) (f : Fld) (v : Nat) : (setRegF s r f v).pending = s.pending := rfl
@[simp] theorem setRegF_free (s : State) (r : Creg) (f : Fld) (v : Nat) : (setRegF s r f v).free = s.free := rfl
@[simp] theorem setRegF_eff (s : State) (r : Creg) (f : Fld) (v : Nat) : (setRegF s r f v).eff = s.eff := rfl
@[simp] theorem setRegF_mem (s : State) (r : Creg) (f : Fld) (v : Nat) : (setRegF s r f v).mem = s.mem := rfl
@[simp] theorem setRegF_poison (s : State) (r : Creg) (f : Fld) (v : Nat) : (setRegF s r f v).poison = s.poison := rfl
@[simp] theorem setRegF_upsets (s : State) (r : Creg) (f : Fld) (v : Nat) : (setRegF s r f v).upsets = s.upsets := rfl
@[simp] theorem setRegF_cores (s : State) (r : Creg) (f : Fld) (v : Nat) : (setRegF s r f v).cores = s.cores := rfl
@[simp] theorem setRegF_tick (s : State) (r : Creg) (f : Fld) (v : Nat) : (setRegF s r f v).tick = s.tick := rfl
@[simp] theorem setRegF_spine (s : State) (r : Creg) (f : Fld) (v : Nat) : (setRegF s r f v).spine = s.spine := rfl
@[simp] theorem setRegF_conceal (s : State) (r : Creg) (f : Fld) (v : Nat) : (setRegF s r f v).conceal = s.conceal := rfl
@[simp] theorem setRegF_quires (s : State) (r : Creg) (f : Fld) (v : Nat) : (setRegF s r f v).quires = s.quires := rfl
@[simp] theorem setRegF_budget (s : State) (r : Creg) (f : Fld) (v : Nat) : (setRegF s r f v).budget = s.budget := rfl
@[simp] theorem setRegF_evidence (s : State) (r : Creg) (f : Fld) (v : Nat) : (setRegF s r f v).evidence = s.evidence := rfl
@[simp] theorem setRegF_memSys (s : State) (r : Creg) (f : Fld) (v : Nat) : (setRegF s r f v).memSys = s.memSys := rfl
@[simp] theorem setRegF_stage (s : State) (r : Creg) (f : Fld) (v : Nat) : (setRegF s r f v).stage = s.stage := rfl
@[simp] theorem setRegF_eth (s : State) (r : Creg) (f : Fld) (v : Nat) : (setRegF s r f v).eth = s.eth := rfl
@[simp] theorem setRegF_scan (s : State) (r : Creg) (f : Fld) (v : Nat) : (setRegF s r f v).scan = s.scan := rfl
@[simp] theorem setRegF_panel (s : State) (r : Creg) (f : Fld) (v : Nat) : (setRegF s r f v).panel = s.panel := rfl
@[simp] theorem setRegF_uart (s : State) (r : Creg) (f : Fld) (v : Nat) : (setRegF s r f v).uart = s.uart := rfl
@[simp] theorem setRegF_host (s : State) (r : Creg) (f : Fld) (v : Nat) : (setRegF s r f v).host = s.host := rfl
@[simp] theorem setRegF_trust (s : State) (r : Creg) (f : Fld) (v : Nat) : (setRegF s r f v).trust = s.trust := rfl
@[simp] theorem setRegF_live (s : State) (r : Creg) (f : Fld) (v : Nat) : (setRegF s r f v).live = s.live := rfl
@[simp] theorem setRegF_flash (s : State) (r : Creg) (f : Fld) (v : Nat) : (setRegF s r f v).flash = s.flash := rfl
@[simp] theorem setRegF_power (s : State) (r : Creg) (f : Fld) (v : Nat) : (setRegF s r f v).power = s.power := rfl
@[simp] theorem setRegF_watch (s : State) (r : Creg) (f : Fld) (v : Nat) : (setRegF s r f v).watch = s.watch := rfl

@[simp] theorem incRegF_pending (s : State) (r : Creg) (f : Fld) (n : Nat) : (incRegF s r f n).pending = s.pending := rfl
@[simp] theorem incRegF_free (s : State) (r : Creg) (f : Fld) (n : Nat) : (incRegF s r f n).free = s.free := rfl
@[simp] theorem incRegF_eff (s : State) (r : Creg) (f : Fld) (n : Nat) : (incRegF s r f n).eff = s.eff := rfl
@[simp] theorem incRegF_mem (s : State) (r : Creg) (f : Fld) (n : Nat) : (incRegF s r f n).mem = s.mem := rfl
@[simp] theorem incRegF_poison (s : State) (r : Creg) (f : Fld) (n : Nat) : (incRegF s r f n).poison = s.poison := rfl
@[simp] theorem incRegF_upsets (s : State) (r : Creg) (f : Fld) (n : Nat) : (incRegF s r f n).upsets = s.upsets := rfl
@[simp] theorem incRegF_cores (s : State) (r : Creg) (f : Fld) (n : Nat) : (incRegF s r f n).cores = s.cores := rfl
@[simp] theorem incRegF_tick (s : State) (r : Creg) (f : Fld) (n : Nat) : (incRegF s r f n).tick = s.tick := rfl
@[simp] theorem incRegF_spine (s : State) (r : Creg) (f : Fld) (n : Nat) : (incRegF s r f n).spine = s.spine := rfl
@[simp] theorem incRegF_conceal (s : State) (r : Creg) (f : Fld) (n : Nat) : (incRegF s r f n).conceal = s.conceal := rfl
@[simp] theorem incRegF_quires (s : State) (r : Creg) (f : Fld) (n : Nat) : (incRegF s r f n).quires = s.quires := rfl
@[simp] theorem incRegF_budget (s : State) (r : Creg) (f : Fld) (n : Nat) : (incRegF s r f n).budget = s.budget := rfl
@[simp] theorem incRegF_evidence (s : State) (r : Creg) (f : Fld) (n : Nat) : (incRegF s r f n).evidence = s.evidence := rfl
@[simp] theorem incRegF_memSys (s : State) (r : Creg) (f : Fld) (n : Nat) : (incRegF s r f n).memSys = s.memSys := rfl
@[simp] theorem incRegF_stage (s : State) (r : Creg) (f : Fld) (n : Nat) : (incRegF s r f n).stage = s.stage := rfl
@[simp] theorem incRegF_eth (s : State) (r : Creg) (f : Fld) (n : Nat) : (incRegF s r f n).eth = s.eth := rfl
@[simp] theorem incRegF_scan (s : State) (r : Creg) (f : Fld) (n : Nat) : (incRegF s r f n).scan = s.scan := rfl
@[simp] theorem incRegF_panel (s : State) (r : Creg) (f : Fld) (n : Nat) : (incRegF s r f n).panel = s.panel := rfl
@[simp] theorem incRegF_uart (s : State) (r : Creg) (f : Fld) (n : Nat) : (incRegF s r f n).uart = s.uart := rfl
@[simp] theorem incRegF_host (s : State) (r : Creg) (f : Fld) (n : Nat) : (incRegF s r f n).host = s.host := rfl
@[simp] theorem incRegF_trust (s : State) (r : Creg) (f : Fld) (n : Nat) : (incRegF s r f n).trust = s.trust := rfl
@[simp] theorem incRegF_live (s : State) (r : Creg) (f : Fld) (n : Nat) : (incRegF s r f n).live = s.live := rfl
@[simp] theorem incRegF_flash (s : State) (r : Creg) (f : Fld) (n : Nat) : (incRegF s r f n).flash = s.flash := rfl
@[simp] theorem incRegF_power (s : State) (r : Creg) (f : Fld) (n : Nat) : (incRegF s r f n).power = s.power := rfl
@[simp] theorem incRegF_watch (s : State) (r : Creg) (f : Fld) (n : Nat) : (incRegF s r f n).watch = s.watch := rfl

@[simp] theorem setByte_pending (s : State) (a : Nat) (b : Byte) : (setByte s a b).pending = s.pending := rfl
@[simp] theorem setByte_free (s : State) (a : Nat) (b : Byte) : (setByte s a b).free = s.free := rfl
@[simp] theorem setByte_ctl (s : State) (a : Nat) (b : Byte) : (setByte s a b).ctl = s.ctl := rfl
@[simp] theorem setByte_eff (s : State) (a : Nat) (b : Byte) : (setByte s a b).eff = s.eff := rfl
@[simp] theorem setByte_poison (s : State) (a : Nat) (b : Byte) : (setByte s a b).poison = s.poison := rfl
@[simp] theorem setByte_upsets (s : State) (a : Nat) (b : Byte) : (setByte s a b).upsets = s.upsets := rfl
@[simp] theorem setByte_cores (s : State) (a : Nat) (b : Byte) : (setByte s a b).cores = s.cores := rfl
@[simp] theorem setByte_tick (s : State) (a : Nat) (b : Byte) : (setByte s a b).tick = s.tick := rfl
@[simp] theorem setByte_spine (s : State) (a : Nat) (b : Byte) : (setByte s a b).spine = s.spine := rfl
@[simp] theorem setByte_conceal (s : State) (a : Nat) (b : Byte) : (setByte s a b).conceal = s.conceal := rfl
@[simp] theorem setByte_quires (s : State) (a : Nat) (b : Byte) : (setByte s a b).quires = s.quires := rfl
@[simp] theorem setByte_budget (s : State) (a : Nat) (b : Byte) : (setByte s a b).budget = s.budget := rfl
@[simp] theorem setByte_evidence (s : State) (a : Nat) (b : Byte) : (setByte s a b).evidence = s.evidence := rfl
@[simp] theorem setByte_memSys (s : State) (a : Nat) (b : Byte) : (setByte s a b).memSys = s.memSys := rfl
@[simp] theorem setByte_stage (s : State) (a : Nat) (b : Byte) : (setByte s a b).stage = s.stage := rfl
@[simp] theorem setByte_eth (s : State) (a : Nat) (b : Byte) : (setByte s a b).eth = s.eth := rfl
@[simp] theorem setByte_scan (s : State) (a : Nat) (b : Byte) : (setByte s a b).scan = s.scan := rfl
@[simp] theorem setByte_panel (s : State) (a : Nat) (b : Byte) : (setByte s a b).panel = s.panel := rfl
@[simp] theorem setByte_uart (s : State) (a : Nat) (b : Byte) : (setByte s a b).uart = s.uart := rfl
@[simp] theorem setByte_host (s : State) (a : Nat) (b : Byte) : (setByte s a b).host = s.host := rfl
@[simp] theorem setByte_trust (s : State) (a : Nat) (b : Byte) : (setByte s a b).trust = s.trust := rfl
@[simp] theorem setByte_live (s : State) (a : Nat) (b : Byte) : (setByte s a b).live = s.live := rfl
@[simp] theorem setByte_flash (s : State) (a : Nat) (b : Byte) : (setByte s a b).flash = s.flash := rfl
@[simp] theorem setByte_power (s : State) (a : Nat) (b : Byte) : (setByte s a b).power = s.power := rfl
@[simp] theorem setByte_watch (s : State) (a : Nat) (b : Byte) : (setByte s a b).watch = s.watch := rfl

@[simp] theorem setQuire_pending (s : State) (q : Nat) (x : Quire) : (setQuire s q x).pending = s.pending := rfl
@[simp] theorem setQuire_free (s : State) (q : Nat) (x : Quire) : (setQuire s q x).free = s.free := rfl
@[simp] theorem setQuire_ctl (s : State) (q : Nat) (x : Quire) : (setQuire s q x).ctl = s.ctl := rfl
@[simp] theorem setQuire_eff (s : State) (q : Nat) (x : Quire) : (setQuire s q x).eff = s.eff := rfl
@[simp] theorem setQuire_mem (s : State) (q : Nat) (x : Quire) : (setQuire s q x).mem = s.mem := rfl
@[simp] theorem setQuire_poison (s : State) (q : Nat) (x : Quire) : (setQuire s q x).poison = s.poison := rfl
@[simp] theorem setQuire_upsets (s : State) (q : Nat) (x : Quire) : (setQuire s q x).upsets = s.upsets := rfl
@[simp] theorem setQuire_cores (s : State) (q : Nat) (x : Quire) : (setQuire s q x).cores = s.cores := rfl
@[simp] theorem setQuire_tick (s : State) (q : Nat) (x : Quire) : (setQuire s q x).tick = s.tick := rfl
@[simp] theorem setQuire_spine (s : State) (q : Nat) (x : Quire) : (setQuire s q x).spine = s.spine := rfl
@[simp] theorem setQuire_conceal (s : State) (q : Nat) (x : Quire) : (setQuire s q x).conceal = s.conceal := rfl
@[simp] theorem setQuire_budget (s : State) (q : Nat) (x : Quire) : (setQuire s q x).budget = s.budget := rfl
@[simp] theorem setQuire_evidence (s : State) (q : Nat) (x : Quire) : (setQuire s q x).evidence = s.evidence := rfl
@[simp] theorem setQuire_memSys (s : State) (q : Nat) (x : Quire) : (setQuire s q x).memSys = s.memSys := rfl
@[simp] theorem setQuire_stage (s : State) (q : Nat) (x : Quire) : (setQuire s q x).stage = s.stage := rfl
@[simp] theorem setQuire_eth (s : State) (q : Nat) (x : Quire) : (setQuire s q x).eth = s.eth := rfl
@[simp] theorem setQuire_scan (s : State) (q : Nat) (x : Quire) : (setQuire s q x).scan = s.scan := rfl
@[simp] theorem setQuire_panel (s : State) (q : Nat) (x : Quire) : (setQuire s q x).panel = s.panel := rfl
@[simp] theorem setQuire_uart (s : State) (q : Nat) (x : Quire) : (setQuire s q x).uart = s.uart := rfl
@[simp] theorem setQuire_host (s : State) (q : Nat) (x : Quire) : (setQuire s q x).host = s.host := rfl
@[simp] theorem setQuire_trust (s : State) (q : Nat) (x : Quire) : (setQuire s q x).trust = s.trust := rfl
@[simp] theorem setQuire_live (s : State) (q : Nat) (x : Quire) : (setQuire s q x).live = s.live := rfl
@[simp] theorem setQuire_flash (s : State) (q : Nat) (x : Quire) : (setQuire s q x).flash = s.flash := rfl
@[simp] theorem setQuire_power (s : State) (q : Nat) (x : Quire) : (setQuire s q x).power = s.power := rfl
@[simp] theorem setQuire_watch (s : State) (q : Nat) (x : Quire) : (setQuire s q x).watch = s.watch := rfl

@[simp] theorem modQuire_pending (s : State) (q : Nat) (f : Quire → Quire) : (modQuire s q f).pending = s.pending := rfl
@[simp] theorem modQuire_free (s : State) (q : Nat) (f : Quire → Quire) : (modQuire s q f).free = s.free := rfl
@[simp] theorem modQuire_ctl (s : State) (q : Nat) (f : Quire → Quire) : (modQuire s q f).ctl = s.ctl := rfl
@[simp] theorem modQuire_eff (s : State) (q : Nat) (f : Quire → Quire) : (modQuire s q f).eff = s.eff := rfl
@[simp] theorem modQuire_mem (s : State) (q : Nat) (f : Quire → Quire) : (modQuire s q f).mem = s.mem := rfl
@[simp] theorem modQuire_poison (s : State) (q : Nat) (f : Quire → Quire) : (modQuire s q f).poison = s.poison := rfl
@[simp] theorem modQuire_upsets (s : State) (q : Nat) (f : Quire → Quire) : (modQuire s q f).upsets = s.upsets := rfl
@[simp] theorem modQuire_cores (s : State) (q : Nat) (f : Quire → Quire) : (modQuire s q f).cores = s.cores := rfl
@[simp] theorem modQuire_tick (s : State) (q : Nat) (f : Quire → Quire) : (modQuire s q f).tick = s.tick := rfl
@[simp] theorem modQuire_spine (s : State) (q : Nat) (f : Quire → Quire) : (modQuire s q f).spine = s.spine := rfl
@[simp] theorem modQuire_conceal (s : State) (q : Nat) (f : Quire → Quire) : (modQuire s q f).conceal = s.conceal := rfl
@[simp] theorem modQuire_budget (s : State) (q : Nat) (f : Quire → Quire) : (modQuire s q f).budget = s.budget := rfl
@[simp] theorem modQuire_evidence (s : State) (q : Nat) (f : Quire → Quire) : (modQuire s q f).evidence = s.evidence := rfl
@[simp] theorem modQuire_memSys (s : State) (q : Nat) (f : Quire → Quire) : (modQuire s q f).memSys = s.memSys := rfl
@[simp] theorem modQuire_stage (s : State) (q : Nat) (f : Quire → Quire) : (modQuire s q f).stage = s.stage := rfl
@[simp] theorem modQuire_eth (s : State) (q : Nat) (f : Quire → Quire) : (modQuire s q f).eth = s.eth := rfl
@[simp] theorem modQuire_scan (s : State) (q : Nat) (f : Quire → Quire) : (modQuire s q f).scan = s.scan := rfl
@[simp] theorem modQuire_panel (s : State) (q : Nat) (f : Quire → Quire) : (modQuire s q f).panel = s.panel := rfl
@[simp] theorem modQuire_uart (s : State) (q : Nat) (f : Quire → Quire) : (modQuire s q f).uart = s.uart := rfl
@[simp] theorem modQuire_host (s : State) (q : Nat) (f : Quire → Quire) : (modQuire s q f).host = s.host := rfl
@[simp] theorem modQuire_trust (s : State) (q : Nat) (f : Quire → Quire) : (modQuire s q f).trust = s.trust := rfl
@[simp] theorem modQuire_live (s : State) (q : Nat) (f : Quire → Quire) : (modQuire s q f).live = s.live := rfl
@[simp] theorem modQuire_flash (s : State) (q : Nat) (f : Quire → Quire) : (modQuire s q f).flash = s.flash := rfl
@[simp] theorem modQuire_power (s : State) (q : Nat) (f : Quire → Quire) : (modQuire s q f).power = s.power := rfl
@[simp] theorem modQuire_watch (s : State) (q : Nat) (f : Quire → Quire) : (modQuire s q f).watch = s.watch := rfl

@[simp] theorem modChan_pending (s : State) (c : Nat) (f : Chan → Chan) : (modChan s c f).pending = s.pending := rfl
@[simp] theorem modChan_free (s : State) (c : Nat) (f : Chan → Chan) : (modChan s c f).free = s.free := rfl
@[simp] theorem modChan_ctl (s : State) (c : Nat) (f : Chan → Chan) : (modChan s c f).ctl = s.ctl := rfl
@[simp] theorem modChan_eff (s : State) (c : Nat) (f : Chan → Chan) : (modChan s c f).eff = s.eff := rfl
@[simp] theorem modChan_mem (s : State) (c : Nat) (f : Chan → Chan) : (modChan s c f).mem = s.mem := rfl
@[simp] theorem modChan_poison (s : State) (c : Nat) (f : Chan → Chan) : (modChan s c f).poison = s.poison := rfl
@[simp] theorem modChan_upsets (s : State) (c : Nat) (f : Chan → Chan) : (modChan s c f).upsets = s.upsets := rfl
@[simp] theorem modChan_cores (s : State) (c : Nat) (f : Chan → Chan) : (modChan s c f).cores = s.cores := rfl
@[simp] theorem modChan_tick (s : State) (c : Nat) (f : Chan → Chan) : (modChan s c f).tick = s.tick := rfl
@[simp] theorem modChan_spine (s : State) (c : Nat) (f : Chan → Chan) : (modChan s c f).spine = s.spine := rfl
@[simp] theorem modChan_conceal (s : State) (c : Nat) (f : Chan → Chan) : (modChan s c f).conceal = s.conceal := rfl
@[simp] theorem modChan_quires (s : State) (c : Nat) (f : Chan → Chan) : (modChan s c f).quires = s.quires := rfl
@[simp] theorem modChan_budget (s : State) (c : Nat) (f : Chan → Chan) : (modChan s c f).budget = s.budget := rfl
@[simp] theorem modChan_evidence (s : State) (c : Nat) (f : Chan → Chan) : (modChan s c f).evidence = s.evidence := rfl
@[simp] theorem modChan_stage (s : State) (c : Nat) (f : Chan → Chan) : (modChan s c f).stage = s.stage := rfl
@[simp] theorem modChan_eth (s : State) (c : Nat) (f : Chan → Chan) : (modChan s c f).eth = s.eth := rfl
@[simp] theorem modChan_scan (s : State) (c : Nat) (f : Chan → Chan) : (modChan s c f).scan = s.scan := rfl
@[simp] theorem modChan_panel (s : State) (c : Nat) (f : Chan → Chan) : (modChan s c f).panel = s.panel := rfl
@[simp] theorem modChan_uart (s : State) (c : Nat) (f : Chan → Chan) : (modChan s c f).uart = s.uart := rfl
@[simp] theorem modChan_host (s : State) (c : Nat) (f : Chan → Chan) : (modChan s c f).host = s.host := rfl
@[simp] theorem modChan_trust (s : State) (c : Nat) (f : Chan → Chan) : (modChan s c f).trust = s.trust := rfl
@[simp] theorem modChan_live (s : State) (c : Nat) (f : Chan → Chan) : (modChan s c f).live = s.live := rfl
@[simp] theorem modChan_flash (s : State) (c : Nat) (f : Chan → Chan) : (modChan s c f).flash = s.flash := rfl
@[simp] theorem modChan_power (s : State) (c : Nat) (f : Chan → Chan) : (modChan s c f).power = s.power := rfl
@[simp] theorem modChan_watch (s : State) (c : Nat) (f : Chan → Chan) : (modChan s c f).watch = s.watch := rfl

@[simp] theorem poisonGranule_pending (s : State) (a : Nat) : (poisonGranule s a).pending = s.pending := rfl
@[simp] theorem poisonGranule_free (s : State) (a : Nat) : (poisonGranule s a).free = s.free := rfl
@[simp] theorem poisonGranule_ctl (s : State) (a : Nat) : (poisonGranule s a).ctl = s.ctl := rfl
@[simp] theorem poisonGranule_eff (s : State) (a : Nat) : (poisonGranule s a).eff = s.eff := rfl
@[simp] theorem poisonGranule_mem (s : State) (a : Nat) : (poisonGranule s a).mem = s.mem := rfl
@[simp] theorem poisonGranule_upsets (s : State) (a : Nat) : (poisonGranule s a).upsets = s.upsets := rfl
@[simp] theorem poisonGranule_cores (s : State) (a : Nat) : (poisonGranule s a).cores = s.cores := rfl
@[simp] theorem poisonGranule_tick (s : State) (a : Nat) : (poisonGranule s a).tick = s.tick := rfl
@[simp] theorem poisonGranule_spine (s : State) (a : Nat) : (poisonGranule s a).spine = s.spine := rfl
@[simp] theorem poisonGranule_conceal (s : State) (a : Nat) : (poisonGranule s a).conceal = s.conceal := rfl
@[simp] theorem poisonGranule_quires (s : State) (a : Nat) : (poisonGranule s a).quires = s.quires := rfl
@[simp] theorem poisonGranule_budget (s : State) (a : Nat) : (poisonGranule s a).budget = s.budget := rfl
@[simp] theorem poisonGranule_evidence (s : State) (a : Nat) : (poisonGranule s a).evidence = s.evidence := rfl
@[simp] theorem poisonGranule_memSys (s : State) (a : Nat) : (poisonGranule s a).memSys = s.memSys := rfl
@[simp] theorem poisonGranule_stage (s : State) (a : Nat) : (poisonGranule s a).stage = s.stage := rfl
@[simp] theorem poisonGranule_eth (s : State) (a : Nat) : (poisonGranule s a).eth = s.eth := rfl
@[simp] theorem poisonGranule_scan (s : State) (a : Nat) : (poisonGranule s a).scan = s.scan := rfl
@[simp] theorem poisonGranule_panel (s : State) (a : Nat) : (poisonGranule s a).panel = s.panel := rfl
@[simp] theorem poisonGranule_uart (s : State) (a : Nat) : (poisonGranule s a).uart = s.uart := rfl
@[simp] theorem poisonGranule_host (s : State) (a : Nat) : (poisonGranule s a).host = s.host := rfl
@[simp] theorem poisonGranule_trust (s : State) (a : Nat) : (poisonGranule s a).trust = s.trust := rfl
@[simp] theorem poisonGranule_live (s : State) (a : Nat) : (poisonGranule s a).live = s.live := rfl
@[simp] theorem poisonGranule_flash (s : State) (a : Nat) : (poisonGranule s a).flash = s.flash := rfl
@[simp] theorem poisonGranule_power (s : State) (a : Nat) : (poisonGranule s a).power = s.power := rfl
@[simp] theorem poisonGranule_watch (s : State) (a : Nat) : (poisonGranule s a).watch = s.watch := rfl

@[simp] theorem setUpsets_pending (s : State) (a : Nat) (e : List Nat) : (setUpsets s a e).pending = s.pending := rfl
@[simp] theorem setUpsets_free (s : State) (a : Nat) (e : List Nat) : (setUpsets s a e).free = s.free := rfl
@[simp] theorem setUpsets_ctl (s : State) (a : Nat) (e : List Nat) : (setUpsets s a e).ctl = s.ctl := rfl
@[simp] theorem setUpsets_eff (s : State) (a : Nat) (e : List Nat) : (setUpsets s a e).eff = s.eff := rfl
@[simp] theorem setUpsets_mem (s : State) (a : Nat) (e : List Nat) : (setUpsets s a e).mem = s.mem := rfl
@[simp] theorem setUpsets_poison (s : State) (a : Nat) (e : List Nat) : (setUpsets s a e).poison = s.poison := rfl
@[simp] theorem setUpsets_cores (s : State) (a : Nat) (e : List Nat) : (setUpsets s a e).cores = s.cores := rfl
@[simp] theorem setUpsets_tick (s : State) (a : Nat) (e : List Nat) : (setUpsets s a e).tick = s.tick := rfl
@[simp] theorem setUpsets_spine (s : State) (a : Nat) (e : List Nat) : (setUpsets s a e).spine = s.spine := rfl
@[simp] theorem setUpsets_conceal (s : State) (a : Nat) (e : List Nat) : (setUpsets s a e).conceal = s.conceal := rfl
@[simp] theorem setUpsets_quires (s : State) (a : Nat) (e : List Nat) : (setUpsets s a e).quires = s.quires := rfl
@[simp] theorem setUpsets_budget (s : State) (a : Nat) (e : List Nat) : (setUpsets s a e).budget = s.budget := rfl
@[simp] theorem setUpsets_evidence (s : State) (a : Nat) (e : List Nat) : (setUpsets s a e).evidence = s.evidence := rfl
@[simp] theorem setUpsets_memSys (s : State) (a : Nat) (e : List Nat) : (setUpsets s a e).memSys = s.memSys := rfl
@[simp] theorem setUpsets_stage (s : State) (a : Nat) (e : List Nat) : (setUpsets s a e).stage = s.stage := rfl
@[simp] theorem setUpsets_eth (s : State) (a : Nat) (e : List Nat) : (setUpsets s a e).eth = s.eth := rfl
@[simp] theorem setUpsets_scan (s : State) (a : Nat) (e : List Nat) : (setUpsets s a e).scan = s.scan := rfl
@[simp] theorem setUpsets_panel (s : State) (a : Nat) (e : List Nat) : (setUpsets s a e).panel = s.panel := rfl
@[simp] theorem setUpsets_uart (s : State) (a : Nat) (e : List Nat) : (setUpsets s a e).uart = s.uart := rfl
@[simp] theorem setUpsets_host (s : State) (a : Nat) (e : List Nat) : (setUpsets s a e).host = s.host := rfl
@[simp] theorem setUpsets_trust (s : State) (a : Nat) (e : List Nat) : (setUpsets s a e).trust = s.trust := rfl
@[simp] theorem setUpsets_live (s : State) (a : Nat) (e : List Nat) : (setUpsets s a e).live = s.live := rfl
@[simp] theorem setUpsets_flash (s : State) (a : Nat) (e : List Nat) : (setUpsets s a e).flash = s.flash := rfl
@[simp] theorem setUpsets_power (s : State) (a : Nat) (e : List Nat) : (setUpsets s a e).power = s.power := rfl
@[simp] theorem setUpsets_watch (s : State) (a : Nat) (e : List Nat) : (setUpsets s a e).watch = s.watch := rfl

@[simp] theorem setPlace_pending (s : State) (q e : Nat) (p : Place) : (setPlace s q e p).pending = s.pending := rfl
@[simp] theorem setPlace_free (s : State) (q e : Nat) (p : Place) : (setPlace s q e p).free = s.free := rfl
@[simp] theorem setPlace_ctl (s : State) (q e : Nat) (p : Place) : (setPlace s q e p).ctl = s.ctl := rfl
@[simp] theorem setPlace_eff (s : State) (q e : Nat) (p : Place) : (setPlace s q e p).eff = s.eff := rfl
@[simp] theorem setPlace_mem (s : State) (q e : Nat) (p : Place) : (setPlace s q e p).mem = s.mem := rfl
@[simp] theorem setPlace_poison (s : State) (q e : Nat) (p : Place) : (setPlace s q e p).poison = s.poison := rfl
@[simp] theorem setPlace_upsets (s : State) (q e : Nat) (p : Place) : (setPlace s q e p).upsets = s.upsets := rfl
@[simp] theorem setPlace_cores (s : State) (q e : Nat) (p : Place) : (setPlace s q e p).cores = s.cores := rfl
@[simp] theorem setPlace_tick (s : State) (q e : Nat) (p : Place) : (setPlace s q e p).tick = s.tick := rfl
@[simp] theorem setPlace_conceal (s : State) (q e : Nat) (p : Place) : (setPlace s q e p).conceal = s.conceal := rfl
@[simp] theorem setPlace_quires (s : State) (q e : Nat) (p : Place) : (setPlace s q e p).quires = s.quires := rfl
@[simp] theorem setPlace_budget (s : State) (q e : Nat) (p : Place) : (setPlace s q e p).budget = s.budget := rfl
@[simp] theorem setPlace_evidence (s : State) (q e : Nat) (p : Place) : (setPlace s q e p).evidence = s.evidence := rfl
@[simp] theorem setPlace_memSys (s : State) (q e : Nat) (p : Place) : (setPlace s q e p).memSys = s.memSys := rfl
@[simp] theorem setPlace_stage (s : State) (q e : Nat) (p : Place) : (setPlace s q e p).stage = s.stage := rfl
@[simp] theorem setPlace_eth (s : State) (q e : Nat) (p : Place) : (setPlace s q e p).eth = s.eth := rfl
@[simp] theorem setPlace_scan (s : State) (q e : Nat) (p : Place) : (setPlace s q e p).scan = s.scan := rfl
@[simp] theorem setPlace_panel (s : State) (q e : Nat) (p : Place) : (setPlace s q e p).panel = s.panel := rfl
@[simp] theorem setPlace_uart (s : State) (q e : Nat) (p : Place) : (setPlace s q e p).uart = s.uart := rfl
@[simp] theorem setPlace_host (s : State) (q e : Nat) (p : Place) : (setPlace s q e p).host = s.host := rfl
@[simp] theorem setPlace_trust (s : State) (q e : Nat) (p : Place) : (setPlace s q e p).trust = s.trust := rfl
@[simp] theorem setPlace_live (s : State) (q e : Nat) (p : Place) : (setPlace s q e p).live = s.live := rfl
@[simp] theorem setPlace_flash (s : State) (q e : Nat) (p : Place) : (setPlace s q e p).flash = s.flash := rfl
@[simp] theorem setPlace_power (s : State) (q e : Nat) (p : Place) : (setPlace s q e p).power = s.power := rfl
@[simp] theorem setPlace_watch (s : State) (q e : Nat) (p : Place) : (setPlace s q e p).watch = s.watch := rfl

@[simp] theorem inject_pending (s : State) (i : Nat) (m : Msg) : (inject s i m).pending = s.pending := rfl
@[simp] theorem inject_free (s : State) (i : Nat) (m : Msg) : (inject s i m).free = s.free := rfl
@[simp] theorem inject_ctl (s : State) (i : Nat) (m : Msg) : (inject s i m).ctl = s.ctl := rfl
@[simp] theorem inject_eff (s : State) (i : Nat) (m : Msg) : (inject s i m).eff = s.eff := rfl
@[simp] theorem inject_mem (s : State) (i : Nat) (m : Msg) : (inject s i m).mem = s.mem := rfl
@[simp] theorem inject_poison (s : State) (i : Nat) (m : Msg) : (inject s i m).poison = s.poison := rfl
@[simp] theorem inject_upsets (s : State) (i : Nat) (m : Msg) : (inject s i m).upsets = s.upsets := rfl
@[simp] theorem inject_cores (s : State) (i : Nat) (m : Msg) : (inject s i m).cores = s.cores := rfl
@[simp] theorem inject_tick (s : State) (i : Nat) (m : Msg) : (inject s i m).tick = s.tick := rfl
@[simp] theorem inject_conceal (s : State) (i : Nat) (m : Msg) : (inject s i m).conceal = s.conceal := rfl
@[simp] theorem inject_quires (s : State) (i : Nat) (m : Msg) : (inject s i m).quires = s.quires := rfl
@[simp] theorem inject_budget (s : State) (i : Nat) (m : Msg) : (inject s i m).budget = s.budget := rfl
@[simp] theorem inject_evidence (s : State) (i : Nat) (m : Msg) : (inject s i m).evidence = s.evidence := rfl
@[simp] theorem inject_memSys (s : State) (i : Nat) (m : Msg) : (inject s i m).memSys = s.memSys := rfl
@[simp] theorem inject_stage (s : State) (i : Nat) (m : Msg) : (inject s i m).stage = s.stage := rfl
@[simp] theorem inject_eth (s : State) (i : Nat) (m : Msg) : (inject s i m).eth = s.eth := rfl
@[simp] theorem inject_scan (s : State) (i : Nat) (m : Msg) : (inject s i m).scan = s.scan := rfl
@[simp] theorem inject_panel (s : State) (i : Nat) (m : Msg) : (inject s i m).panel = s.panel := rfl
@[simp] theorem inject_uart (s : State) (i : Nat) (m : Msg) : (inject s i m).uart = s.uart := rfl
@[simp] theorem inject_host (s : State) (i : Nat) (m : Msg) : (inject s i m).host = s.host := rfl
@[simp] theorem inject_trust (s : State) (i : Nat) (m : Msg) : (inject s i m).trust = s.trust := rfl
@[simp] theorem inject_live (s : State) (i : Nat) (m : Msg) : (inject s i m).live = s.live := rfl
@[simp] theorem inject_flash (s : State) (i : Nat) (m : Msg) : (inject s i m).flash = s.flash := rfl
@[simp] theorem inject_power (s : State) (i : Nat) (m : Msg) : (inject s i m).power = s.power := rfl
@[simp] theorem inject_watch (s : State) (i : Nat) (m : Msg) : (inject s i m).watch = s.watch := rfl

@[simp] theorem setNat_pending (s : State) (a v n : Nat) : (setNat s a v n).pending = s.pending := by
  induction n generalizing s a v with
  | zero => rfl
  | succ n ih => simp [setNat, ih]
@[simp] theorem setNat_free (s : State) (a v n : Nat) : (setNat s a v n).free = s.free := by
  induction n generalizing s a v with
  | zero => rfl
  | succ n ih => simp [setNat, ih]
@[simp] theorem setNat_ctl (s : State) (a v n : Nat) : (setNat s a v n).ctl = s.ctl := by
  induction n generalizing s a v with
  | zero => rfl
  | succ n ih => simp [setNat, ih]
@[simp] theorem setNat_eff (s : State) (a v n : Nat) : (setNat s a v n).eff = s.eff := by
  induction n generalizing s a v with
  | zero => rfl
  | succ n ih => simp [setNat, ih]
@[simp] theorem setNat_poison (s : State) (a v n : Nat) : (setNat s a v n).poison = s.poison := by
  induction n generalizing s a v with
  | zero => rfl
  | succ n ih => simp [setNat, ih]
@[simp] theorem setNat_upsets (s : State) (a v n : Nat) : (setNat s a v n).upsets = s.upsets := by
  induction n generalizing s a v with
  | zero => rfl
  | succ n ih => simp [setNat, ih]
@[simp] theorem setNat_cores (s : State) (a v n : Nat) : (setNat s a v n).cores = s.cores := by
  induction n generalizing s a v with
  | zero => rfl
  | succ n ih => simp [setNat, ih]
@[simp] theorem setNat_tick (s : State) (a v n : Nat) : (setNat s a v n).tick = s.tick := by
  induction n generalizing s a v with
  | zero => rfl
  | succ n ih => simp [setNat, ih]
@[simp] theorem setNat_spine (s : State) (a v n : Nat) : (setNat s a v n).spine = s.spine := by
  induction n generalizing s a v with
  | zero => rfl
  | succ n ih => simp [setNat, ih]
@[simp] theorem setNat_conceal (s : State) (a v n : Nat) : (setNat s a v n).conceal = s.conceal := by
  induction n generalizing s a v with
  | zero => rfl
  | succ n ih => simp [setNat, ih]
@[simp] theorem setNat_quires (s : State) (a v n : Nat) : (setNat s a v n).quires = s.quires := by
  induction n generalizing s a v with
  | zero => rfl
  | succ n ih => simp [setNat, ih]
@[simp] theorem setNat_budget (s : State) (a v n : Nat) : (setNat s a v n).budget = s.budget := by
  induction n generalizing s a v with
  | zero => rfl
  | succ n ih => simp [setNat, ih]
@[simp] theorem setNat_evidence (s : State) (a v n : Nat) : (setNat s a v n).evidence = s.evidence := by
  induction n generalizing s a v with
  | zero => rfl
  | succ n ih => simp [setNat, ih]
@[simp] theorem setNat_memSys (s : State) (a v n : Nat) : (setNat s a v n).memSys = s.memSys := by
  induction n generalizing s a v with
  | zero => rfl
  | succ n ih => simp [setNat, ih]
@[simp] theorem setNat_stage (s : State) (a v n : Nat) : (setNat s a v n).stage = s.stage := by
  induction n generalizing s a v with
  | zero => rfl
  | succ n ih => simp [setNat, ih]
@[simp] theorem setNat_eth (s : State) (a v n : Nat) : (setNat s a v n).eth = s.eth := by
  induction n generalizing s a v with
  | zero => rfl
  | succ n ih => simp [setNat, ih]
@[simp] theorem setNat_scan (s : State) (a v n : Nat) : (setNat s a v n).scan = s.scan := by
  induction n generalizing s a v with
  | zero => rfl
  | succ n ih => simp [setNat, ih]
@[simp] theorem setNat_panel (s : State) (a v n : Nat) : (setNat s a v n).panel = s.panel := by
  induction n generalizing s a v with
  | zero => rfl
  | succ n ih => simp [setNat, ih]
@[simp] theorem setNat_uart (s : State) (a v n : Nat) : (setNat s a v n).uart = s.uart := by
  induction n generalizing s a v with
  | zero => rfl
  | succ n ih => simp [setNat, ih]
@[simp] theorem setNat_host (s : State) (a v n : Nat) : (setNat s a v n).host = s.host := by
  induction n generalizing s a v with
  | zero => rfl
  | succ n ih => simp [setNat, ih]
@[simp] theorem setNat_trust (s : State) (a v n : Nat) : (setNat s a v n).trust = s.trust := by
  induction n generalizing s a v with
  | zero => rfl
  | succ n ih => simp [setNat, ih]
@[simp] theorem setNat_live (s : State) (a v n : Nat) : (setNat s a v n).live = s.live := by
  induction n generalizing s a v with
  | zero => rfl
  | succ n ih => simp [setNat, ih]
@[simp] theorem setNat_flash (s : State) (a v n : Nat) : (setNat s a v n).flash = s.flash := by
  induction n generalizing s a v with
  | zero => rfl
  | succ n ih => simp [setNat, ih]
@[simp] theorem setNat_power (s : State) (a v n : Nat) : (setNat s a v n).power = s.power := by
  induction n generalizing s a v with
  | zero => rfl
  | succ n ih => simp [setNat, ih]
@[simp] theorem setNat_watch (s : State) (a v n : Nat) : (setNat s a v n).watch = s.watch := by
  induction n generalizing s a v with
  | zero => rfl
  | succ n ih => simp [setNat, ih]

@[simp] theorem setBytes_pending (s : State) (a : Nat) (l : List Byte) : (setBytes s a l).pending = s.pending := by
  induction l generalizing s a with
  | nil => rfl
  | cons b l ih => simp [setBytes, ih]
@[simp] theorem setBytes_free (s : State) (a : Nat) (l : List Byte) : (setBytes s a l).free = s.free := by
  induction l generalizing s a with
  | nil => rfl
  | cons b l ih => simp [setBytes, ih]
@[simp] theorem setBytes_ctl (s : State) (a : Nat) (l : List Byte) : (setBytes s a l).ctl = s.ctl := by
  induction l generalizing s a with
  | nil => rfl
  | cons b l ih => simp [setBytes, ih]
@[simp] theorem setBytes_eff (s : State) (a : Nat) (l : List Byte) : (setBytes s a l).eff = s.eff := by
  induction l generalizing s a with
  | nil => rfl
  | cons b l ih => simp [setBytes, ih]
@[simp] theorem setBytes_poison (s : State) (a : Nat) (l : List Byte) : (setBytes s a l).poison = s.poison := by
  induction l generalizing s a with
  | nil => rfl
  | cons b l ih => simp [setBytes, ih]
@[simp] theorem setBytes_upsets (s : State) (a : Nat) (l : List Byte) : (setBytes s a l).upsets = s.upsets := by
  induction l generalizing s a with
  | nil => rfl
  | cons b l ih => simp [setBytes, ih]
@[simp] theorem setBytes_cores (s : State) (a : Nat) (l : List Byte) : (setBytes s a l).cores = s.cores := by
  induction l generalizing s a with
  | nil => rfl
  | cons b l ih => simp [setBytes, ih]
@[simp] theorem setBytes_tick (s : State) (a : Nat) (l : List Byte) : (setBytes s a l).tick = s.tick := by
  induction l generalizing s a with
  | nil => rfl
  | cons b l ih => simp [setBytes, ih]
@[simp] theorem setBytes_spine (s : State) (a : Nat) (l : List Byte) : (setBytes s a l).spine = s.spine := by
  induction l generalizing s a with
  | nil => rfl
  | cons b l ih => simp [setBytes, ih]
@[simp] theorem setBytes_conceal (s : State) (a : Nat) (l : List Byte) : (setBytes s a l).conceal = s.conceal := by
  induction l generalizing s a with
  | nil => rfl
  | cons b l ih => simp [setBytes, ih]
@[simp] theorem setBytes_quires (s : State) (a : Nat) (l : List Byte) : (setBytes s a l).quires = s.quires := by
  induction l generalizing s a with
  | nil => rfl
  | cons b l ih => simp [setBytes, ih]
@[simp] theorem setBytes_budget (s : State) (a : Nat) (l : List Byte) : (setBytes s a l).budget = s.budget := by
  induction l generalizing s a with
  | nil => rfl
  | cons b l ih => simp [setBytes, ih]
@[simp] theorem setBytes_evidence (s : State) (a : Nat) (l : List Byte) : (setBytes s a l).evidence = s.evidence := by
  induction l generalizing s a with
  | nil => rfl
  | cons b l ih => simp [setBytes, ih]
@[simp] theorem setBytes_memSys (s : State) (a : Nat) (l : List Byte) : (setBytes s a l).memSys = s.memSys := by
  induction l generalizing s a with
  | nil => rfl
  | cons b l ih => simp [setBytes, ih]
@[simp] theorem setBytes_stage (s : State) (a : Nat) (l : List Byte) : (setBytes s a l).stage = s.stage := by
  induction l generalizing s a with
  | nil => rfl
  | cons b l ih => simp [setBytes, ih]
@[simp] theorem setBytes_eth (s : State) (a : Nat) (l : List Byte) : (setBytes s a l).eth = s.eth := by
  induction l generalizing s a with
  | nil => rfl
  | cons b l ih => simp [setBytes, ih]
@[simp] theorem setBytes_scan (s : State) (a : Nat) (l : List Byte) : (setBytes s a l).scan = s.scan := by
  induction l generalizing s a with
  | nil => rfl
  | cons b l ih => simp [setBytes, ih]
@[simp] theorem setBytes_panel (s : State) (a : Nat) (l : List Byte) : (setBytes s a l).panel = s.panel := by
  induction l generalizing s a with
  | nil => rfl
  | cons b l ih => simp [setBytes, ih]
@[simp] theorem setBytes_uart (s : State) (a : Nat) (l : List Byte) : (setBytes s a l).uart = s.uart := by
  induction l generalizing s a with
  | nil => rfl
  | cons b l ih => simp [setBytes, ih]
@[simp] theorem setBytes_host (s : State) (a : Nat) (l : List Byte) : (setBytes s a l).host = s.host := by
  induction l generalizing s a with
  | nil => rfl
  | cons b l ih => simp [setBytes, ih]
@[simp] theorem setBytes_trust (s : State) (a : Nat) (l : List Byte) : (setBytes s a l).trust = s.trust := by
  induction l generalizing s a with
  | nil => rfl
  | cons b l ih => simp [setBytes, ih]
@[simp] theorem setBytes_live (s : State) (a : Nat) (l : List Byte) : (setBytes s a l).live = s.live := by
  induction l generalizing s a with
  | nil => rfl
  | cons b l ih => simp [setBytes, ih]
@[simp] theorem setBytes_flash (s : State) (a : Nat) (l : List Byte) : (setBytes s a l).flash = s.flash := by
  induction l generalizing s a with
  | nil => rfl
  | cons b l ih => simp [setBytes, ih]
@[simp] theorem setBytes_power (s : State) (a : Nat) (l : List Byte) : (setBytes s a l).power = s.power := by
  induction l generalizing s a with
  | nil => rfl
  | cons b l ih => simp [setBytes, ih]
@[simp] theorem setBytes_watch (s : State) (a : Nat) (l : List Byte) : (setBytes s a l).watch = s.watch := by
  induction l generalizing s a with
  | nil => rfl
  | cons b l ih => simp [setBytes, ih]

@[simp] theorem setWord_pending (s : State) (a : Nat) (w : Word) : (setWord s a w).pending = s.pending := by simp [setWord]
@[simp] theorem setWord_free (s : State) (a : Nat) (w : Word) : (setWord s a w).free = s.free := by simp [setWord]
@[simp] theorem setWord_ctl (s : State) (a : Nat) (w : Word) : (setWord s a w).ctl = s.ctl := by simp [setWord]
@[simp] theorem setWord_eff (s : State) (a : Nat) (w : Word) : (setWord s a w).eff = s.eff := by simp [setWord]
@[simp] theorem setWord_poison (s : State) (a : Nat) (w : Word) : (setWord s a w).poison = s.poison := by simp [setWord]
@[simp] theorem setWord_upsets (s : State) (a : Nat) (w : Word) : (setWord s a w).upsets = s.upsets := by simp [setWord]
@[simp] theorem setWord_cores (s : State) (a : Nat) (w : Word) : (setWord s a w).cores = s.cores := by simp [setWord]
@[simp] theorem setWord_tick (s : State) (a : Nat) (w : Word) : (setWord s a w).tick = s.tick := by simp [setWord]
@[simp] theorem setWord_spine (s : State) (a : Nat) (w : Word) : (setWord s a w).spine = s.spine := by simp [setWord]
@[simp] theorem setWord_conceal (s : State) (a : Nat) (w : Word) : (setWord s a w).conceal = s.conceal := by simp [setWord]
@[simp] theorem setWord_quires (s : State) (a : Nat) (w : Word) : (setWord s a w).quires = s.quires := by simp [setWord]
@[simp] theorem setWord_budget (s : State) (a : Nat) (w : Word) : (setWord s a w).budget = s.budget := by simp [setWord]
@[simp] theorem setWord_evidence (s : State) (a : Nat) (w : Word) : (setWord s a w).evidence = s.evidence := by simp [setWord]
@[simp] theorem setWord_memSys (s : State) (a : Nat) (w : Word) : (setWord s a w).memSys = s.memSys := by simp [setWord]
@[simp] theorem setWord_stage (s : State) (a : Nat) (w : Word) : (setWord s a w).stage = s.stage := by simp [setWord]
@[simp] theorem setWord_eth (s : State) (a : Nat) (w : Word) : (setWord s a w).eth = s.eth := by simp [setWord]
@[simp] theorem setWord_scan (s : State) (a : Nat) (w : Word) : (setWord s a w).scan = s.scan := by simp [setWord]
@[simp] theorem setWord_panel (s : State) (a : Nat) (w : Word) : (setWord s a w).panel = s.panel := by simp [setWord]
@[simp] theorem setWord_uart (s : State) (a : Nat) (w : Word) : (setWord s a w).uart = s.uart := by simp [setWord]
@[simp] theorem setWord_host (s : State) (a : Nat) (w : Word) : (setWord s a w).host = s.host := by simp [setWord]
@[simp] theorem setWord_trust (s : State) (a : Nat) (w : Word) : (setWord s a w).trust = s.trust := by simp [setWord]
@[simp] theorem setWord_live (s : State) (a : Nat) (w : Word) : (setWord s a w).live = s.live := by simp [setWord]
@[simp] theorem setWord_flash (s : State) (a : Nat) (w : Word) : (setWord s a w).flash = s.flash := by simp [setWord]
@[simp] theorem setWord_power (s : State) (a : Nat) (w : Word) : (setWord s a w).power = s.power := by simp [setWord]
@[simp] theorem setWord_watch (s : State) (a : Nat) (w : Word) : (setWord s a w).watch = s.watch := by simp [setWord]

/-! ### Cores -/

/-- Two cores with one key are one core. -/
theorem coreKey_inj {c d : CoreId} (h : coreKey c = coreKey d) : c = d := by
  cases c with
  | tile q j =>
    cases d with
    | tile q' j' =>
      simp only [coreKey] at h
      have hq : q = q' := by apply Fin.ext; omega
      have hj : j = j' := by apply Fin.ext; omega
      rw [hq, hj]
    | curator w => cases w <;> simp only [coreKey] at h <;> omega
    | keeper => simp only [coreKey] at h; omega
  | curator w =>
    cases d with
    | tile q' j' => cases w <;> simp only [coreKey] at h <;> omega
    | curator w' => cases w <;> cases w' <;> simp_all [coreKey]
    | keeper => cases w <;> simp [coreKey] at h
  | keeper =>
    cases d with
    | tile q' j' => simp only [coreKey] at h; omega
    | curator w' => cases w' <;> simp [coreKey] at h
    | keeper => rfl

@[simp] theorem getCore_setCore (s : State) (c : CoreId) (k : Core) : getCore (setCore s c k) c = k := by
  simp [getCore, setCore]

theorem getCore_setCore_ne (s : State) {c d : CoreId} (k : Core) (h : d ≠ c) : getCore (setCore s c k) d = getCore s d :=
  SMap.get_set_ne _ _ _ _ (fun e => h (coreKey_inj e))

@[simp] theorem getCore_modCore (s : State) (c : CoreId) (f : Core → Core) : getCore (modCore s c f) c = f (getCore s c) := by
  simp [modCore]

theorem getCore_modCore_ne (s : State) {c d : CoreId} (f : Core → Core) (h : d ≠ c) :
    getCore (modCore s c f) d = getCore s d := getCore_setCore_ne s _ h

/-- A core that is on differs from the unlisted one. -/
theorem ne_default_of_on {k : Core} (h : k.on = true) : k ≠ {} := by
  intro e; rw [e] at h; exact Bool.false_ne_true h

/-- The second of two writes of a core stands alone. -/
theorem setCore_setCore (s : State) (c : CoreId) {k : Core} (k' : Core) (h : k.on = true) :
    setCore (setCore s c k) c k' = setCore s c k' := by
  simp only [setCore, SMap.set_set s.cores (coreKey c) (y := k') (ne_default_of_on h)]

theorem modCore_setCore (s : State) (c : CoreId) {k : Core} (f : Core → Core) (h : k.on = true) :
    modCore (setCore s c k) c f = setCore s c (f k) := by
  simp only [modCore, getCore_setCore, setCore_setCore s c _ h]

/-- A state update that leaves the cores alone keeps every core. -/
theorem getCore_congr {s t : State} (h : t.cores = s.cores) (c : CoreId) : getCore t c = getCore s c := by
  simp only [getCore, h]

@[simp] theorem getCore_setReg (s : State) (r : Creg) (w : Word) (c : CoreId) : getCore (setReg s r w) c = getCore s c := rfl
@[simp] theorem getCore_setRegF (s : State) (r : Creg) (f : Fld) (v : Nat) (c : CoreId) :
    getCore (setRegF s r f v) c = getCore s c := rfl
@[simp] theorem getCore_setByte (s : State) (a : Nat) (b : Byte) (c : CoreId) : getCore (setByte s a b) c = getCore s c := rfl
@[simp] theorem getCore_setWord (s : State) (a : Nat) (w : Word) (c : CoreId) : getCore (setWord s a w) c = getCore s c :=
  getCore_congr (by simp) c
@[simp] theorem getCore_setBytes (s : State) (a : Nat) (l : List Byte) (c : CoreId) :
    getCore (setBytes s a l) c = getCore s c := getCore_congr (by simp) c

/-! ### Core control registers -/

@[simp] theorem ccr_setCcr (k : Core) (r : Ccr) (w : Word) : ccr (setCcr k r w) r = w := by simp [ccr, setCcr]

theorem ccr_setCcr_ne (k : Core) {r r' : Ccr} (w : Word) (h : r'.idx ≠ r.idx) : ccr (setCcr k r w) r' = ccr k r' :=
  SMap.get_set_ne _ _ _ _ h

@[simp] theorem setCcr_on (k : Core) (r : Ccr) (w : Word) : (setCcr k r w).on = k.on := rfl
@[simp] theorem setCcr_halted (k : Core) (r : Ccr) (w : Word) : (setCcr k r w).halted = k.halted := rfl
@[simp] theorem setCcr_pc (k : Core) (r : Ccr) (w : Word) : (setCcr k r w).pc = k.pc := rfl
@[simp] theorem setCcr_user (k : Core) (r : Ccr) (w : Word) : (setCcr k r w).user = k.user := rfl
@[simp] theorem setCcr_sup (k : Core) (r : Ccr) (w : Word) : (setCcr k r w).sup = k.sup := rfl
@[simp] theorem setCcr_tx (k : Core) (r : Ccr) (w : Word) : (setCcr k r w).tx = k.tx := rfl
@[simp] theorem setCcr_press (k : Core) (r : Ccr) (w : Word) : (setCcr k r w).press = k.press := rfl
@[simp] theorem setCcr_side (k : Core) (r : Ccr) (w : Word) : (setCcr k r w).side = k.side := rfl
@[simp] theorem setCcr_loads (k : Core) (r : Ccr) (w : Word) : (setCcr k r w).loads = k.loads := rfl
@[simp] theorem setCcr_unack (k : Core) (r : Ccr) (w : Word) : (setCcr k r w).unack = k.unack := rfl
@[simp] theorem setCcr_wait (k : Core) (r : Ccr) (w : Word) : (setCcr k r w).wait = k.wait := rfl
@[simp] theorem setCcr_loopEff (k : Core) (r : Ccr) (w : Word) : (setCcr k r w).loopEff = k.loopEff := rfl
@[simp] theorem setCcr_nextId (k : Core) (r : Ccr) (w : Word) : (setCcr k r w).nextId = k.nextId := rfl
@[simp] theorem setCcr_latch (k : Core) (r : Ccr) (w : Word) : (setCcr k r w).latch = k.latch := rfl
@[simp] theorem setCcr_paired (k : Core) (r : Ccr) (w : Word) : (setCcr k r w).paired = k.paired := rfl
@[simp] theorem setCcr_stale (k : Core) (r : Ccr) (w : Word) : (setCcr k r w).stale = k.stale := rfl
@[simp] theorem setCcr_entry (k : Core) (r : Ccr) (w : Word) : (setCcr k r w).entry = k.entry := rfl
@[simp] theorem setCcr_slot (k : Core) (r : Ccr) (w : Word) : (setCcr k r w).slot = k.slot := rfl
@[simp] theorem setCcr_nmePend (k : Core) (r : Ccr) (w : Word) : (setCcr k r w).nmePend = k.nmePend := rfl

@[simp] theorem setBank_on (k : Core) (sup : Bool) (b : Bank) : (setBank k sup b).on = k.on := by cases sup <;> rfl
@[simp] theorem setBank_halted (k : Core) (sup : Bool) (b : Bank) : (setBank k sup b).halted = k.halted := by cases sup <;> rfl
@[simp] theorem setBank_pc (k : Core) (sup : Bool) (b : Bank) : (setBank k sup b).pc = k.pc := by cases sup <;> rfl
@[simp] theorem setBank_ccr (k : Core) (sup : Bool) (b : Bank) : (setBank k sup b).ccr = k.ccr := by cases sup <;> rfl
@[simp] theorem setBank_tx (k : Core) (sup : Bool) (b : Bank) : (setBank k sup b).tx = k.tx := by cases sup <;> rfl
@[simp] theorem setBank_press (k : Core) (sup : Bool) (b : Bank) : (setBank k sup b).press = k.press := by cases sup <;> rfl
@[simp] theorem setBank_side (k : Core) (sup : Bool) (b : Bank) : (setBank k sup b).side = k.side := by cases sup <;> rfl
@[simp] theorem setBank_loads (k : Core) (sup : Bool) (b : Bank) : (setBank k sup b).loads = k.loads := by cases sup <;> rfl
@[simp] theorem setBank_unack (k : Core) (sup : Bool) (b : Bank) : (setBank k sup b).unack = k.unack := by cases sup <;> rfl
@[simp] theorem setBank_wait (k : Core) (sup : Bool) (b : Bank) : (setBank k sup b).wait = k.wait := by cases sup <;> rfl
@[simp] theorem setBank_nextId (k : Core) (sup : Bool) (b : Bank) : (setBank k sup b).nextId = k.nextId := by cases sup <;> rfl
@[simp] theorem setBank_loopEff (k : Core) (sup : Bool) (b : Bank) : (setBank k sup b).loopEff = k.loopEff := by
  cases sup <;> rfl
@[simp] theorem setBank_paired (k : Core) (sup : Bool) (b : Bank) : (setBank k sup b).paired = k.paired := by cases sup <;> rfl
@[simp] theorem setBank_stale (k : Core) (sup : Bool) (b : Bank) : (setBank k sup b).stale = k.stale := by cases sup <;> rfl
@[simp] theorem setBank_entry (k : Core) (sup : Bool) (b : Bank) : (setBank k sup b).entry = k.entry := by cases sup <;> rfl
@[simp] theorem setBank_slot (k : Core) (sup : Bool) (b : Bank) : (setBank k sup b).slot = k.slot := by cases sup <;> rfl
@[simp] theorem setBank_nmePend (k : Core) (sup : Bool) (b : Bank) : (setBank k sup b).nmePend = k.nmePend := by cases sup <;> rfl
@[simp] theorem bank_setBank (k : Core) (sup : Bool) (b : Bank) : bank (setBank k sup b) sup = b := by cases sup <;> rfl
@[simp] theorem bank_setBank_not (k : Core) (sup : Bool) (b : Bank) : bank (setBank k sup b) (!sup) = bank k (!sup) := by
  cases sup <;> rfl
@[simp] theorem setBank_setBank (k : Core) (sup : Bool) (b b' : Bank) : setBank (setBank k sup b) sup b' = setBank k sup b' := by
  cases sup <;> rfl
@[simp] theorem ccr_setBank (k : Core) (sup : Bool) (b : Bank) (r : Ccr) : ccr (setBank k sup b) r = ccr k r := by
  cases sup <;> rfl
@[simp] theorem isSup_setBank (k : Core) (sup : Bool) (b : Bank) : isSup (setBank k sup b) = isSup k := by cases sup <;> rfl

/-! ### Control registers -/

@[simp] theorem reg_setReg (s : State) (r : Creg) (w : Word) : reg (setReg s r w) r = w := by simp [reg, setReg]

theorem reg_setReg_ne (s : State) {r r' : Creg} (w : Word) (h : r'.addr ≠ r.addr) : reg (setReg s r w) r' = reg s r' :=
  SMap.get_set_ne _ _ _ _ h

@[simp] theorem reg_setCore (s : State) (c : CoreId) (k : Core) (r : Creg) : reg (setCore s c k) r = reg s r := rfl
@[simp] theorem reg_modCore (s : State) (c : CoreId) (f : Core → Core) (r : Creg) : reg (modCore s c f) r = reg s r := rfl
@[simp] theorem reg_setByte (s : State) (a : Nat) (b : Byte) (r : Creg) : reg (setByte s a b) r = reg s r := rfl
theorem reg_congr {s t : State} (h : t.ctl = s.ctl) (r : Creg) : reg t r = reg s r := by simp only [reg, h]
@[simp] theorem reg_setWord (s : State) (a : Nat) (w : Word) (r : Creg) : reg (setWord s a w) r = reg s r := reg_congr (by simp) r
@[simp] theorem reg_setBytes (s : State) (a : Nat) (l : List Byte) (r : Creg) : reg (setBytes s a l) r = reg s r :=
  reg_congr (by simp) r

@[simp] theorem getQuire_setQuire (s : State) (q : Nat) (x : Quire) : getQuire (setQuire s q x) q = x := by
  simp [getQuire, setQuire]
theorem getQuire_setQuire_ne (s : State) {q p : Nat} (x : Quire) (h : p ≠ q) : getQuire (setQuire s q x) p = getQuire s p :=
  SMap.get_set_ne _ _ _ _ h

/-! ### Memory -/

@[simp] theorem memByte_setByte (s : State) (a : Nat) (b : Byte) : memByte (setByte s a b) a = b := by simp [memByte, setByte]

theorem memByte_setByte_ne (s : State) {a x : Nat} (b : Byte) (h : x ≠ a) : memByte (setByte s a b) x = memByte s x :=
  SMap.get_set_ne _ _ _ _ h

theorem memByte_congr {s t : State} (h : t.mem = s.mem) (a : Nat) : memByte t a = memByte s a := by simp only [memByte, h]

@[simp] theorem memByte_setCore (s : State) (c : CoreId) (k : Core) (a : Nat) : memByte (setCore s c k) a = memByte s a := rfl
@[simp] theorem memByte_modCore (s : State) (c : CoreId) (f : Core → Core) (a : Nat) : memByte (modCore s c f) a = memByte s a := rfl
@[simp] theorem memByte_setReg (s : State) (r : Creg) (w : Word) (a : Nat) : memByte (setReg s r w) a = memByte s a := rfl
@[simp] theorem memByte_setRegF (s : State) (r : Creg) (f : Fld) (v a : Nat) : memByte (setRegF s r f v) a = memByte s a := rfl

/-- `n` bytes are written at `a` and no other byte changes. -/
theorem memByte_setNat_out (s : State) (a v n x : Nat) (h : x < a ∨ a + n ≤ x) : memByte (setNat s a v n) x = memByte s x := by
  induction n generalizing s a v with
  | zero => rfl
  | succ n ih =>
    rw [setNat, ih _ _ _ (by omega), memByte_setByte_ne _ _ (by omega)]

theorem memByte_setNat_in (s : State) (a v n i : Nat) (h : i < n) :
    memByte (setNat s a v n) (a + i) = BitVec.ofNat 8 (v / 256 ^ i) := by
  induction n generalizing s a v i with
  | zero => omega
  | succ n ih =>
    cases i with
    | zero => rw [setNat, memByte_setNat_out _ _ _ _ _ (by omega)]; simp
    | succ i =>
      rw [setNat, show a + (i + 1) = a + 1 + i by omega, ih _ _ _ _ (by omega), Nat.div_div_eq_div_mul, Nat.pow_succ,
        Nat.mul_comm]

theorem memByte_setWord_out (s : State) (a : Nat) (w : Word) (x : Nat) (h : x < a ∨ a + 4 ≤ x) :
    memByte (setWord s a w) x = memByte s x := memByte_setNat_out s a _ 4 x h

theorem memByte_setBytes_out (s : State) (a : Nat) (l : List Byte) (x : Nat) (h : x < a ∨ a + l.length ≤ x) :
    memByte (setBytes s a l) x = memByte s x := by
  induction l generalizing s a with
  | nil => rfl
  | cons b l ih =>
    simp only [List.length_cons] at h
    rw [setBytes, ih _ _ (by omega), memByte_setByte_ne _ _ (by omega)]

theorem memByte_setBytes_in (s : State) (a : Nat) (l : List Byte) (i : Nat) (h : i < l.length) :
    memByte (setBytes s a l) (a + i) = l[i] := by
  induction l generalizing s a i with
  | nil => simp at h
  | cons b l ih =>
    cases i with
    | zero => rw [setBytes, memByte_setBytes_out _ _ _ _ (by omega)]; simp
    | succ i =>
      simp only [List.length_cons] at h
      rw [setBytes, show a + (i + 1) = a + 1 + i by omega, ih _ _ _ (by omega)]
      rfl

/-- A little-endian number reads back as it was written. -/
theorem memNat_setNat (s : State) (a v n : Nat) : memNat (setNat s a v n) a n = v % 256 ^ n := by
  induction n generalizing s a v with
  | zero => simp [memNat, Nat.mod_one]
  | succ n ih =>
    rw [memNat, setNat, ih, memByte_setNat_out _ _ _ _ _ (by omega), memByte_setByte, BitVec.toNat_ofNat]
    show v % 256 + _ = _
    rw [Nat.pow_succ, Nat.mul_comm (256 ^ n), Nat.mod_mul]

/-- A word reads back as it was written. -/
@[simp] theorem memWord_setWord (s : State) (a : Nat) (w : Word) : memWord (setWord s a w) a = w := by
  unfold memWord setWord
  rw [memNat_setNat]
  apply BitVec.eq_of_toNat_eq
  simp only [BitVec.toNat_ofNat]
  have := w.isLt
  omega

/-! ### The canonical form of the memory -/

theorem setByte_sorted {s : State} (a : Nat) (b : Byte) (h : SMap.sorted s.mem = true) :
    SMap.sorted (setByte s a b).mem = true := SMap.sorted_set _ _ _ h

theorem setNat_sorted {s : State} (a v n : Nat) (h : SMap.sorted s.mem = true) : SMap.sorted (setNat s a v n).mem = true := by
  induction n generalizing s a v with
  | zero => exact h
  | succ n ih => exact ih _ _ (setByte_sorted a _ h)

theorem setWord_sorted {s : State} (a : Nat) (w : Word) (h : SMap.sorted s.mem = true) :
    SMap.sorted (setWord s a w).mem = true := setNat_sorted a _ 4 h

theorem setBytes_sorted {s : State} (a : Nat) (l : List Byte) (h : SMap.sorted s.mem = true) :
    SMap.sorted (setBytes s a l).mem = true := by
  induction l generalizing s a with
  | nil => exact h
  | cons b l ih => exact ih _ (setByte_sorted a b h)

theorem foldl_mem {α : Type} (f : State → α → State) (l : List α) (s : State) (hf : ∀ t x, (f t x).mem = t.mem) :
    (l.foldl f s).mem = s.mem := by
  induction l generalizing s with
  | nil => rfl
  | cons x l ih => rw [List.foldl_cons, ih, hf]

@[simp] theorem clearWrong_mem (a n : Nat) (s : State) : (clearWrong a n s).mem = s.mem := foldl_mem _ _ _ (fun _ _ => rfl)

theorem zeroRange_sorted {s : State} (a n : Nat) (h : SMap.sorted s.mem = true) :
    SMap.sorted (zeroRange s a n).mem = true := SMap.sorted_filter _ (by simpa using h)

theorem copyRange_sorted {s : State} (src dst n : Nat) (h : SMap.sorted s.mem = true) :
    SMap.sorted (copyRange s src dst n).mem = true := by
  simp only [copyRange, clearWrong_mem]
  have hin : SMap.sorted (s.mem.filter (fun e => decide (src ≤ e.1) && decide (e.1 < src + n))) = true := SMap.sorted_filter _ h
  have bound : ∀ x ∈ s.mem.filter (fun e => decide (src ≤ e.1) && decide (e.1 < src + n)), src ≤ x.1 ∧ x.1 < src + n := by
    intro x hx
    have := (List.mem_filter.1 hx).2
    simpa using this
  refine SMap.sorted_append (SMap.sorted_append (SMap.sorted_filter _ h) (SMap.sorted_map _ hin ?_) ?_) (SMap.sorted_filter _ h) ?_
  · intro x hx y hy hlt
    have := bound x hx
    have := bound y hy
    simp only; omega
  · intro x hx y hy
    obtain ⟨z, hz, rfl⟩ := List.mem_map.1 hy
    have h1 : x.1 < dst := by simpa using (List.mem_filter.1 hx).2
    simp only; omega
  · intro x hx y hy
    have h2 : dst + n ≤ y.1 := by simpa using (List.mem_filter.1 hy).2
    rcases List.mem_append.1 hx with hx | hx
    · have h1 : x.1 < dst := by simpa using (List.mem_filter.1 hx).2
      omega
    · obtain ⟨z, hz, rfl⟩ := List.mem_map.1 hx
      have := bound z hz
      simp only; omega

theorem copyAny_sorted {s : State} (src dst n : Nat) (h : SMap.sorted s.mem = true) :
    SMap.sorted (copyAny s src dst n).mem = true := by
  unfold copyAny
  split
  · exact copyRange_sorted src dst n h
  · exact setBytes_sorted dst _ (by simpa using h)

theorem foldl_sorted {α : Type} (f : State → α → State) (l : List α) {s : State}
    (hf : ∀ t x, SMap.sorted t.mem = true → SMap.sorted (f t x).mem = true) (h : SMap.sorted s.mem = true) :
    SMap.sorted (l.foldl f s).mem = true := by
  induction l generalizing s with
  | nil => exact h
  | cons x l ih => exact ih (hf s x h)

/-! ### Operations under the binder code -/

@[simp] theorem pageBlank_mem (s : State) (p : Nat) : (pageBlank s p).2.mem = s.mem := by
  unfold pageBlank
  split <;> rfl

@[simp] theorem programCheck_mem (s : State) (p : Nat) : (programCheck s p).2.mem = s.mem := by
  simp only [programCheck]
  repeat' split
  all_goals simp

@[simp] theorem eraseCount_mem (b : Nat) (s : State) : (eraseCount b s).mem = s.mem := by
  simp only [eraseCount]
  split <;> simp

@[simp] theorem flashDone_mem (c st : Nat) (s : State) : (flashDone c st s).mem = s.mem := by simp [flashDone]

@[simp] theorem showPend_mem (s : State) : (showPend s).mem = s.mem := by simp [showPend]

@[simp] theorem restage_mem (s : State) : (restage s).mem = s.mem := by simp [restage]

@[simp] theorem startBank_mem (k : Nat) (s : State) : (startBank k s).mem = s.mem := by
  simp only [startBank]
  repeat' split
  all_goals first | rfl | simp

@[simp] theorem showFlash_mem (s : State) : (showFlash s).mem = s.mem := by
  unfold showFlash
  repeat' split
  all_goals simp

@[simp] theorem flashPush_mem (j : FlashJob) (s : State) : (flashPush j s).mem = s.mem := by
  simp [flashPush, flashStart, List.range, List.range.loop]

@[simp] theorem startPage_mem (s : State) : (startPage s).mem = s.mem := by
  simp only [startPage]
  repeat' split
  all_goals simp [showPend]

@[simp] theorem stageRecord_mem (s : State) (e : EvRec) : (stageRecord s e).mem = s.mem := by
  have h (b : Prop) [Decidable b] (x y : State) : (if b then x else y).mem = if b then x.mem else y.mem := by split <;> rfl
  unfold stageRecord
  split <;> simp [h, showPend]

@[simp] theorem record_mem (s : State) (cls : Nat) (w : Option World) (u d : Nat) : (record s cls w u d).mem = s.mem := by
  unfold record
  repeat' split
  all_goals simp [countClass]

@[simp] theorem strike_mem (s : State) (a : Nat) (err : List Nat) : (strike s a err).mem = s.mem := by
  unfold strike
  split <;> simp

@[simp] theorem recordBad_mem (s : State) (a : Nat) (w : Option World) : (recordBad s a w).mem = s.mem := by
  simp only [recordBad]
  repeat' split
  all_goals simp

@[simp] theorem recordCorrected_mem (s : State) (a : Nat) (w : Option World) : (recordCorrected s a w).mem = s.mem := by
  unfold recordCorrected
  split <;> simp

/-- What every write of a byte keeps of the memory, the operations under the binder code keep. -/
def ByteKept (P : List Host.Cell → Prop) : Prop := ∀ (s : State) (a : Nat) (b : Byte), P s.mem → P (setByte s a b).mem

theorem ByteKept.setNat {P : List Host.Cell → Prop} (hP : ByteKept P) {s : State} (a v n : Nat) (h : P s.mem) :
    P (setNat s a v n).mem := by
  induction n generalizing s a v with
  | zero => exact h
  | succ n ih => exact ih _ _ (hP s a _ h)

theorem ByteKept.setBytes {P : List Host.Cell → Prop} (hP : ByteKept P) {s : State} (a : Nat) (l : List Byte) (h : P s.mem) :
    P (setBytes s a l).mem := by
  induction l generalizing s a with
  | nil => exact h
  | cons b l ih => exact ih _ (hP s a b h)

theorem ByteKept.flipBits {P : List Host.Cell → Prop} (hP : ByteKept P) {s : State} (a : Nat) (l : List Nat) (h : P s.mem) :
    P (flipBits s a l).mem := by
  unfold Machine.flipBits
  induction l generalizing s with
  | nil => exact h
  | cons f l ih => exact ih (hP s _ _ h)

theorem ByteKept.readGranule {P : List Host.Cell → Prop} (hP : ByteKept P) {s : State} (a : Nat) (err : List Nat) (w : Option World)
    (h : P s.mem) : P (readGranule s a err w).2.mem := by
  unfold Machine.readGranule
  simp only
  split
  · simpa using h
  · split
    · simpa using hP.flipBits a _ h
    · simpa using h
  · simpa using h

theorem ByteKept.mergeBytes {P : List Host.Cell → Prop} (hP : ByteKept P) {s : State} (a : Nat) (bs : List Byte) (err : List Nat)
    (w : Option World) (h : P s.mem) : P (mergeBytes s a bs err w).2.mem := by
  have hr := hP.readGranule a err w h
  unfold Machine.mergeBytes
  split
  · next f t heq =>
    rw [heq] at hr
    refine hP.setBytes a bs ?_
    split
    · exact hr
    · exact hP.flipBits a f hr
  · next t heq => rw [heq] at hr; exact hr

theorem ByteKept.entryWord {P : List Host.Cell → Prop} (hP : ByteKept P) {s : State} (c : CoreId) (a : Nat) (w : Word) (h : P s.mem) :
    P (entryWord c a w s).mem := by
  have hm := hP.mergeBytes a (wordBytes w) [] (coreWorld s c) h
  unfold Machine.entryWord
  split
  · next t heq => rw [heq] at hm; exact hm
  · next t heq =>
    rw [heq] at hm
    split <;> exact hm

theorem ByteKept.storeDown {P : List Host.Cell → Prop} (hP : ByteKept P) {s : State} (c : CoreId) (a : Nat) (l : List Word)
    (h : P s.mem) : P (storeDown c s a l).mem := by
  induction l with
  | nil => exact h
  | cons x l ih => exact hP.entryWord c _ x ih

theorem ByteKept.storeUp {P : List Host.Cell → Prop} (hP : ByteKept P) {s : State} (c : CoreId) (a : Nat) (l : List Word)
    (h : P s.mem) : P (storeUp c s a l).mem := by
  induction l generalizing s a with
  | nil => exact h
  | cons x l ih => exact ih _ (hP.entryWord c a x h)

theorem sorted_kept : ByteKept (fun m => SMap.sorted m = true) := fun _ a b h => setByte_sorted a b h

/-- Reading a range under the code keeps what a byte written keeps. -/
theorem ByteKept.wholeRange {P : List Host.Cell → Prop} (hP : ByteKept P) {s : State} (a n : Nat) (w : Option World) (h : P s.mem) :
    P (Machine.decodeRange s a n w).1.mem := by
  unfold Machine.decodeRange
  suffices H : ∀ (l : List Nat) (x : State × List (Nat × List Nat)), P x.1.mem → P (l.foldl (fun x g =>
      match Machine.readGranule x.1 g [] w with
      | (some f, t) => (t, if writesBack g || f.isEmpty then x.2 else x.2 ++ [(g, f)])
      | (none, t) => (t, x.2)) x).1.mem from H _ _ h
  intro l
  induction l with
  | nil => exact fun _ h => h
  | cons g l ih =>
    intro x hx
    refine ih _ ?_
    have := hP.readGranule g [] w hx
    rcases hr : Machine.readGranule x.1 g [] w with ⟨_ | f, t⟩ <;> rw [hr] at this <;> simpa only [hr] using this

theorem copyCode_sorted {s : State} (src dst n : Nat) (w : Option World) (h : SMap.sorted s.mem = true) :
    SMap.sorted (copyCode s src dst n w).mem = true :=
  foldl_sorted _ _ (fun _ e ht => sorted_kept.flipBits _ e.2 ht) (copyRange_sorted _ _ _ (sorted_kept.wholeRange src n w h))

theorem loadLedger_sorted {s : State} (q j pair : Nat) (h : SMap.sorted s.mem = true) :
    SMap.sorted (loadLedger s q j pair).mem = true :=
  foldl_sorted _ _ (fun _ _ ht => copyCode_sorted _ _ _ _ ht) h

end Sys2Proof.Machine
end

