-- ==== Sys2Proof/Laws/Core.lean ====
section
/-! SUPPORT. What the shared operations of a Limdon core do: the frame of an instruction, pops and pushes on cached cells,
retirement. -/

namespace Sys2Proof.Machine

theorem ready_iff (s : State) (c : CoreId) : Ready s c = true ↔
    canRun s c = true ∧ s.trust.tapStep.contains (coreKey c) = false ∧ (fetchFault c (getCore s c).pc.toNat).isNone = true ∧
      ((c = .keeper ∧ (getCore s c).pc.toNat < 0x10000) ∨ clean s (localAddr c (getCore s c).pc.toNat) = true) ∧
      (getCore s c).stale.isEmpty = true ∧ (getCore s c).paired = false ∧ sharesCycle s c = false ∧
      (getCore s c).user.cells.length ≤ 8 ∧ (getCore s c).sup.cells.length ≤ 8 := by
  simp [Ready, and_assoc]

theorem canRun_on {s : State} {c : CoreId} (h : canRun s c = true) : (getCore s c).on = true := by
  simp only [canRun, Bool.and_eq_true] at h
  exact h.1.1.1.1.1

theorem ready_on {s : State} {c : CoreId} (h : Ready s c = true) : (getCore s c).on = true :=
  canRun_on ((ready_iff s c).1 h).1

/-- A ready core caches at most 8 cells at its level. -/
theorem ready_cells {s : State} {c : CoreId} (h : Ready s c = true) : (cells s c).length ≤ 8 := by
  obtain ⟨_, _, _, _, _, _, _, hu, hs⟩ := (ready_iff s c).1 h
  unfold cells bank
  split <;> assumption

/-- A granule that reads good is read as it stands. -/
theorem readGranule_clean {s : State} {a : Nat} (h : clean s a = true) (w : Option World) : readGranule s a [] w = (some [], s) := by
  simp only [clean, Bool.and_eq_true, Bool.not_eq_true'] at h
  have hu : upsetsAt s a = [] := List.isEmpty_iff.1 h.2
  have ho : readOutcome false [] = .good [] := by decide
  have hn : errNorm ([] ++ []) = [] := rfl
  simp only [readGranule, hu, hn, h.1, ho]
  rfl

/-- No instruction of the core follows in the same cycle, so none is led. -/
theorem leads_alone {s : State} {c : CoreId} (h : sharesCycle s c = false) (u : State) (cl : PairCls) : leads s u c cl = false := by
  have key : (match s.pending with
      | i :: _ => (match pairing i with | some (d, y, rd, _) => d == c && pairsTo cl y (decide (0 < rd)) | none => false)
      | [] => false) = false := by
    unfold sharesCycle at h
    revert h
    cases s.pending with
    | nil => intro _; rfl
    | cons i r =>
      intro h
      change (match pairing i with | some (d, y, rd, _) => d == c && pairsTo cl y (decide (0 < rd)) | none => false) = false
      change (match pairing i with | some (d, _, _) => d == c | none => false) = false at h
      revert h
      rcases pairing i with _ | ⟨d, y, rd, wr⟩
      · intro _; rfl
      · intro h
        change (d == c) = false at h
        change (d == c && _) = false
        rw [h]; rfl
  unfold leads
  exact (congrArg (_ && ·) key).trans (Bool.and_false _)

/-- A cache of at most 8 cells spills nothing. -/
theorem spillOver_fits {u : State} {c : CoreId} {sup : Bool} (h : (bank (getCore u c) sup).cells.length ≤ 8) (n : Nat) :
    spillOver c sup n u = .ok u := by cases n <;> simp [spillOver, h]

/-- An instruction on a ready core: its own effect with what it spills, its exception or its wait. -/
theorem instr_ready {s : State} {c : CoreId} (h : Ready s c = true) (cl : PairCls) (f : State → Ex State) :
    instr c cl f s =
      match f s with
      | .error e => takeHalt s c e
      | .ok u =>
        match spillOver c (isSup (getCore u c)) 2 (if (getCore u c).paired then modCore u c (fun k => { k with paired := false }) else u) with
        | .ok t => t
        | .error e => takeHalt s c e := by
  obtain ⟨h1, h2, h3, h4, h5, _, h7, _⟩ := (ready_iff s c).1 h
  have hu : useStep c s = s := by simp only [useStep, h2]; rfl
  have hf : fetchFault c (getCore s c).pc.toNat = none := Option.isNone_iff_eq_none.1 h3
  have hr : runInstr c cl f s =
      match f s with
      | .error e => takeHalt s c e
      | .ok u =>
        match spillOver c (isSup (getCore u c)) 2 (if (getCore u c).paired then modCore u c (fun k => { k with paired := false }) else u) with
        | .ok t => t
        | .error e => takeHalt s c e := by
    simp only [runInstr, withStale, h5, if_true, endInstr, leads_alone h7]
    cases f s with
    | error e => rfl
    | ok u => simp only [Bool.false_eq_true, if_false]; split <;> simp_all
  simp only [instr, h1, hu, hf]
  split
  · next hc => exact absurd hc (by simp)
  · split
    · exact hr
    · next hk =>
      rw [readGranule_clean (h4.resolve_left hk)]
      exact hr

/-- An instruction on a ready core that ends in `u` with at most 8 cells cached. -/
theorem instr_ok {s u : State} {c : CoreId} (h : Ready s c = true) (cl : PairCls) {f : State → Ex State} (hf : f s = .ok u)
    (hp : (getCore u c).paired = false) (hl : (cells u c).length ≤ 8) : instr c cl f s = u := by
  rw [instr_ready h, hf]
  simp only [hp, Bool.false_eq_true, if_false, spillOver_fits (show (bank (getCore u c) (isSup (getCore u c))).cells.length ≤ 8 from hl)]

/-- An instruction on a ready core that stops with a halt. -/
theorem instr_halt {s : State} {c : CoreId} (h : Ready s c = true) (cl : PairCls) {f : State → Ex State} {e : Halt}
    (hf : f s = .error e) : instr c cl f s = takeHalt s c e := by rw [instr_ready h, hf]

/-- An instruction on a core that may not execute has no effect. -/
theorem instr_idle {s : State} {c : CoreId} (h : canRun s c = false) (cl : PairCls) (f : State → Ex State) : instr c cl f s = s := by
  simp [instr, h]

@[simp] theorem cells_setCells (c : CoreId) (xs : List Cell) (s : State) : cells (setCells c xs s) c = xs := by
  simp [cells, setCells]

@[simp] theorem getCore_setCells (c : CoreId) (xs : List Cell) (s : State) : getCore (setCells c xs s) c =
    setBank (getCore s c) (isSup (getCore s c)) { bank (getCore s c) (isSup (getCore s c)) with cells := xs } := by
  simp [setCells]

theorem setCells_setCells {s : State} {c : CoreId} (h : (getCore s c).on = true) (xs ys : List Cell) :
    setCells c ys (setCells c xs s) = setCells c ys s := by
  have h' : (setBank (getCore s c) (isSup (getCore s c)) { bank (getCore s c) (isSup (getCore s c)) with cells := xs }).on = true := by
    simpa using h
  simp only [setCells, modCore, getCore_setCore, setCore_setCore s c _ h', isSup_setBank, bank_setBank, setBank_setBank]

theorem setCells_on {s : State} {c : CoreId} (xs : List Cell) (h : (getCore s c).on = true) :
    (getCore (setCells c xs s) c).on = true := by simpa using h

/-- Popping a cached cell. -/
theorem popCell_cached {s : State} {c : CoreId} {x : Cell} {r : List Cell} (h : cells s c = x :: r) :
    popCell c s = .ok (x, setCells c r s) := by
  unfold cells at h
  simp only [popCell, h, List.isEmpty_cons]
  rfl

/-- Popping a cached value as an operand. -/
theorem pop_cached {s : State} {c : CoreId} {w : Word} {r : List Cell} (h : cells s c = .val w :: r) :
    pop c s = .ok (w, setCells c r s) := by simp [pop, popCell_cached h]

/-- A pending operand makes an instruction wait. -/
theorem pop_pending {s : State} {c : CoreId} {i : Nat} {r : List Cell} (h : cells s c = .pend i :: r) :
    pop c s = .error .wait := by simp [pop, popCell_cached h]

/-- Pushing: the cells beyond 8 are spilled only when the instruction ends (R177). -/
theorem pushCell_cached {s : State} {c : CoreId} (x : Cell) : pushCell c x s = .ok (setCells c (x :: cells s c) s) := rfl

theorem push_cached {s : State} {c : CoreId} (w : Word) : push c w s = .ok (setCells c (.val w :: cells s c) s) := rfl

/-- A step keeps the cores but one and everything else. -/
theorem onlyCore_modCore (s : State) (c : CoreId) (f : Core → Core) : OnlyCore c s (modCore s c f) :=
  ⟨rfl, fun _ h => getCore_modCore_ne s f h⟩

theorem OnlyCore.trans {c : CoreId} {s t u : State} (h : OnlyCore c s t) (g : OnlyCore c t u) : OnlyCore c s u := by
  refine ⟨?_, fun d hd => (g.2 d hd).trans (h.2 d hd)⟩
  obtain ⟨h1, -⟩ := h
  obtain ⟨g1, -⟩ := g
  rw [← g1] at h1
  exact h1

theorem onlyCore_setCells (s : State) (c : CoreId) (xs : List Cell) : OnlyCore c s (setCells c xs s) := onlyCore_modCore s c _
theorem onlyCore_retire (s : State) (c : CoreId) : OnlyCore c s (retire s c) := onlyCore_modCore s c _
theorem onlyCore_retireTo (s : State) (c : CoreId) (w : Word) : OnlyCore c s (retireTo s c w) := onlyCore_modCore s c _
theorem onlyCore_raiseCfpf (s : State) (c : CoreId) (w : Word) : OnlyCore c s (raiseCfpf s c w) := by
  unfold raiseCfpf
  split
  · exact ⟨rfl, fun _ _ => rfl⟩
  · exact onlyCore_modCore s c _

end Sys2Proof.Machine
end

