-- ==== Sys2Proof/Laws/Memory.lean ====
section
/-! SUPPORT. Every memory operation keeps the canonical form of the memory. -/

namespace Sys2Proof.Machine

theorem memory_wf_iff (m : List Host.Cell) :
    Memory.wf m = true ↔ SMap.sorted m = true ∧ ∀ e ∈ m, e.2 ≠ memDefault e.1 := by
  simp [Memory.wf]

theorem reset_memory_wf : Memory.wf State.reset.mem = true := by decide

theorem setByte_wf {s : State} (a : Nat) (b : Byte) (h : Memory.wf s.mem = true) : Memory.wf (setByte s a b).mem = true := by
  rw [memory_wf_iff] at h ⊢
  refine ⟨setByte_sorted a b h.1, fun e he => ?_⟩
  simp only [setByte, SMap.set] at he
  split at he
  · exact h.2 e (List.mem_filter.1 he).1
  · next hb =>
    rcases SMap.mem_insert he with he | he
    · subst he; exact hb
    · exact h.2 e he

theorem setNat_wf {s : State} (a v n : Nat) (h : Memory.wf s.mem = true) : Memory.wf (setNat s a v n).mem = true := by
  induction n generalizing s a v with
  | zero => exact h
  | succ n ih => exact ih _ _ (setByte_wf a _ h)

theorem setWord_wf {s : State} (a : Nat) (w : Word) (h : Memory.wf s.mem = true) : Memory.wf (setWord s a w).mem = true :=
  setNat_wf a _ 4 h

theorem setBytes_wf {s : State} (a : Nat) (l : List Byte) (h : Memory.wf s.mem = true) :
    Memory.wf (setBytes s a l).mem = true := by
  induction l generalizing s a with
  | nil => exact h
  | cons b l ih => exact ih _ (setByte_wf a b h)

theorem filter_wf {m : List Host.Cell} (p : Host.Cell → Bool) (h : Memory.wf m = true) : Memory.wf (m.filter p) = true := by
  rw [memory_wf_iff] at h ⊢
  exact ⟨SMap.sorted_filter p h.1, fun e he => h.2 e (List.mem_filter.1 he).1⟩

theorem zeroRange_wf {s : State} (a n : Nat) (h : Memory.wf s.mem = true) : Memory.wf (zeroRange s a n).mem = true :=
  filter_wf _ (by simpa using h)

/-- A copy between ranges below the flash array keeps the form. -/
theorem copyRange_wf {s : State} {src dst n : Nat} (hs : src + n ≤ 0x0F80000000) (hd : dst + n ≤ 0x0F80000000)
    (h : Memory.wf s.mem = true) : Memory.wf (copyRange s src dst n).mem = true := by
  have hw := (memory_wf_iff s.mem).1 h
  rw [memory_wf_iff]
  refine ⟨copyRange_sorted src dst n hw.1, fun e he => ?_⟩
  simp only [copyRange, clearWrong_mem] at he
  rcases List.mem_append.1 he with he | he
  · rcases List.mem_append.1 he with he | he
    · exact hw.2 e (List.mem_filter.1 he).1
    · obtain ⟨x, hx, rfl⟩ := List.mem_map.1 he
      have hb := (List.mem_filter.1 hx).2
      simp at hb
      have := hw.2 x (List.mem_filter.1 hx).1
      have e1 : memDefault x.1 = 0 := by unfold memDefault; rw [if_neg]; simp; omega
      have e2 : memDefault (x.1 - src + dst) = 0 := by unfold memDefault; rw [if_neg]; simp; omega
      rw [e1] at this
      rw [e2]; exact this
  · exact hw.2 e (List.mem_filter.1 he).1

theorem copyAny_wf {s : State} {src dst n : Nat} (hs : 0x0F80000000 ≤ src ∨ src + n ≤ 0x0F80000000)
    (hd : dst + n ≤ 0x0F80000000) (h : Memory.wf s.mem = true) : Memory.wf (copyAny s src dst n).mem = true := by
  unfold copyAny
  split
  · exact copyRange_wf (by omega) hd h
  · exact setBytes_wf dst _ (by simpa using h)

theorem wf_kept : ByteKept (fun m => Memory.wf m = true) := fun _ a b h => setByte_wf a b h

theorem readGranule_wf {s : State} (a : Nat) (err : List Nat) (w : Option World) (h : Memory.wf s.mem = true) :
    Memory.wf (readGranule s a err w).2.mem = true := wf_kept.readGranule a err w h

theorem mergeBytes_wf {s : State} (a : Nat) (bs : List Byte) (err : List Nat) (w : Option World) (h : Memory.wf s.mem = true) :
    Memory.wf (mergeBytes s a bs err w).2.mem = true := wf_kept.mergeBytes a bs err w h

theorem storeDown_wf {s : State} (c : CoreId) (a : Nat) (l : List Word) (h : Memory.wf s.mem = true) :
    Memory.wf (storeDown c s a l).mem = true := wf_kept.storeDown c a l h

theorem storeUp_wf {s : State} (c : CoreId) (a : Nat) (l : List Word) (h : Memory.wf s.mem = true) :
    Memory.wf (storeUp c s a l).mem = true := wf_kept.storeUp c a l h

end Sys2Proof.Machine
end

