-- ==== Sys2Proof/Tests/Slice0.lean ====
section
/-! SUPPORT. Tests: ill-formed commands are refused, Limdon halfwords written out from the encoding tables decode to their
instructions, single commands give the values of the spec's worked examples, and states that meet the hypotheses of every
clause of the statements (`hyp_` and the statement's name). -/

open Sys2Proof Sys2Proof.Machine

namespace Sys2Proof.Tests

set_option maxRecDepth 40000

/-! ### Small states -/

/-- The main die has left reset. -/
def up : State := { State.reset with power := { State.reset.power with up := true, good := [0, 1, 2, 3, 4, 5, 6] } }

/-- The state with register fields set. -/
def setF (l : List (Creg × Fld × Nat)) (s : State) : State := l.foldl (fun t e => setRegF t e.1 e.2.1 e.2.2) s

/-- A core with core control register fields set. -/
def setK (l : List (Ccr × Fld × Nat)) (k : Core) : Core := l.foldl (fun t e => setCcrF t e.1 e.2.1 e.2.2) k

/-- The state with core `c` released as `k`. -/
def withCore (c : CoreId) (k : Core) (s : State) : State := setCore s c { k with on := true }

def tile0 : CoreId := .tile 0 0
def cur0 : CoreId := .curator .prg

/-- A supervisor-level core with cached cells. -/
def sup (xs : List Cell) : Core := { sup := { cells := xs } }

/-- A user-level core with cached cells. -/
def usr (xs : List Cell) : Core := setK [(.cstat, Fd.cCstatLevel, 0)] { user := { cells := xs } }

/-- Core `c` stands ready at supervisor level with cached cells. -/
def at_ (c : CoreId) (xs : List Cell) : State := withCore c (sup xs) up

/-- The tick runs with the tables latched as they stand, and quire 0 has started. -/
def tick (s : State) : State := { setF [(.tckCtl, Fd.tckCtlRun, 1)] s with
  tick := { s.tick with started := [0], period := 12500 }, spine := { s.spine with lat := s.ctl } }

/-! ### Ill-formed commands -/

theorem test_wf_errors : (Instr.ld tile0 0 [322]).wf = true ∧ (Instr.ld tile0 0 [323]).wf = false ∧
    (Instr.st tile0 0 [0, 400]).wf = false ∧ (Instr.ldb tile0 0 [323]).wf = false ∧ (Instr.stb tile0 0 [323]).wf = false ∧
    (Instr.ldfReply tile0 0 false [] [323]).wf = false ∧ (Instr.ldfReply tile0 0 false [323] []).wf = false ∧
    (Instr.stfAcknowledge tile0 0 [323] []).wf = false ∧ (Instr.uMac 0 0 [323]).wf = false ∧
    (Instr.pressWaitTimeout 0 0 [323]).wf = false ∧ (Instr.patrolScrub (.chan 0 0) [] [323]).wf = false ∧
    (Instr.engineBlock 0 0 [323] []).wf = false ∧ (Instr.flashRead tile0 0 [323]).wf = false := by decide

theorem test_wf_opcodes : (Instr.definedIllegal tile0 0xF006).wf = true ∧ (Instr.definedIllegal tile0 0xF000).wf = false ∧
    (Instr.definedIllegal tile0 0xF10F).wf = true ∧ (Instr.definedIllegal tile0 0xF10E).wf = false ∧
    (Instr.definedIllegal tile0 0x0006).wf = false ∧ (Instr.reservedBlock tile0 0xFC00).wf = true ∧
    (Instr.reservedBlock tile0 0xFBFF).wf = false ∧ (Instr.reservedBlock tile0 0xFEFF).wf = true ∧
    (Instr.reservedBlock tile0 0xFF00).wf = false := by decide

theorem test_wf_ranges : (Instr.tdmFrame 0 []).wf = false ∧ (Instr.tdmFrame 0 (List.replicate 16 0)).wf = true ∧
    (Instr.bar0Access 0 0x1FFFFFF (.read 1) 0 [] []).wf = true ∧ (Instr.bar0Access 0 0x2000000 (.read 1) 0 [] []).wf = false ∧
    (Instr.bar0Access 0 0 (.write []) 0 [] []).wf = false ∧ (Instr.bar2Access 0 0x3FFFFFF (.read 2) 0 [] []).wf = false ∧
    (Instr.temperatureRead []).wf = false ∧ (Instr.temperatureRead (List.replicate 16 0)).wf = true ∧
    (Instr.registerWrite .kpr 0x0F00000000 0).wf = true ∧ (Instr.registerWrite .kpr 0x0F80000000 0).wf = false := by decide

/-- A step refuses an ill-formed command. -/
theorem test_step_illFormed : step { State.reset with pending := [.definedIllegal tile0 0xF000] } = .fault .illFormed := by rfl

/-! ### Halfwords of the encoding tables (R191, R192, R196, R200–R203, R206, R207, R217, R218), bit by bit -/

/-- Decodes for tile 0, with no error pattern. -/
def dec (n : Nat) : Instr := limdonDecode ⟨tile0, [], 0⟩ n

theorem test_decode_literals : dec 0b0000000000000011 = .lit tile0 3 ∧ dec 0b0111111111111111 = .lit tile0 0x7FFF ∧
    dec 0b1000000000000000 = .ext tile0 0 ∧ dec 0b1011111111111111 = .ext tile0 0x3FFF := by decide

theorem test_decode_branches : dec 0b1100011111111111 = .br tile0 0x7FF ∧ dec 0b1100100000000001 = .bz tile0 1 ∧
    dec 0b1101000000000010 = .bnz tile0 2 ∧ dec 0b1101110000000000 = .call tile0 0x400 ∧ dec 0b1111001100010000 = .brInd tile0 ∧
    dec 0b1111001100010001 = .callInd tile0 ∧ dec 0b1111001100000000 = .ret tile0 := by decide

theorem test_decode_memory : dec 0b1110000000000101 = .ld tile0 5 [] ∧ dec 0b1110011111111111 = .st tile0 0x3FF [] ∧
    dec 0b1110100000000000 = .ldb tile0 0 [] ∧ dec 0b1110110000000001 = .stb tile0 1 [] ∧ dec 0b1111001000000000 = .ldf tile0 ∧
    dec 0b1111001000000001 = .stf tile0 ∧ dec 0b1111001000011000 = .movn tile0 0 ∧ dec 0b1111001000011001 = .filln tile0 0 := by
  decide

theorem test_decode_stack : dec 0b1111000000000000 = .dup tile0 ∧ dec 0b1111000000000001 = .drop tile0 ∧
    dec 0b1111000000000010 = .swap tile0 ∧ dec 0b1111000000000011 = .over tile0 ∧ dec 0b1111000000000100 = .rot tile0 ∧
    dec 0b1111000000000101 = .pick tile0 := by decide

theorem test_decode_arithmetic : dec 0b1111000000001000 = .add tile0 ∧ dec 0b1111000000001001 = .sub tile0 ∧
    dec 0b1111000000001111 = .sar tile0 ∧ dec 0b1111000000010000 = .mul tile0 ∧ dec 0b1111000000010010 = .div tile0 ∧
    dec 0b1111000000011000 = .fadd tile0 ∧ dec 0b1111000000011011 = .fsqrt tile0 ∧ dec 0b1111000000011101 = .log2 tile0 ∧
    dec 0b1111000100000000 = .cmp tile0 .eq ∧ dec 0b1111000100001001 = .cmp tile0 .leu ∧ dec 0b1111000100001110 = .cmp tile0 .fne := by
  decide

theorem test_decode_system : dec 0b1111001000001000 = .get tile0 ∧ dec 0b1111001000001001 = .put tile0 ∧
    dec 0b1111001000001010 = .seal tile0 ∧ dec 0b1111001000001011 = .stitch tile0 ∧ dec 0b1111001000010000 = .press tile0 ∧
    dec 0b1111001000010001 = .pwait tile0 ∧ dec 0b1111001000100000 = .ccrr tile0 ∧ dec 0b1111001000100001 = .ccrw tile0 ∧
    dec 0b1111001100000001 = .reti tile0 ∧ dec 0b1111001100001000 = .sync tile0 ∧ dec 0b1111001100001001 = .iflush tile0 ∧
    dec 0b1111001100001010 = .wft tile0 ∧ dec 0b1111010001010101 = .trap tile0 0x55 ∧ dec 0b1111010100001010 = .loop tile0 10 := by
  decide

theorem test_decode_illegal : dec 0xF006 = .definedIllegal tile0 0xF006 ∧ dec 0xF10F = .definedIllegal tile0 0xF10F ∧
    dec 0xF600 = .definedIllegal tile0 0xF600 ∧ dec 0xFFFF = .definedIllegal tile0 0xFFFF ∧
    dec 0xFC00 = .reservedBlock tile0 0xFC00 ∧ dec 0xFEFF = .reservedBlock tile0 0xFEFF := by decide

/-! ### Single commands, with values of the spec -/

/-- The state after one command. -/
def after (i : Instr) (s : State) : State := match exec i s with | .next t => t | _ => s

/-- The worked example of the spine chapter's publishing loop: LIT 3 then EXT 0 make the pointer 0xC000. -/
theorem test_ext : cells (after (.ext tile0 0) (at_ tile0 [.val 3])) tile0 = [.val 0xC000] := by decide

/-- LOOP 10 at 0x0208 with the count 4: LS 0x020A, LE 0x021C, LC 4 (the worked example). -/
theorem test_loop :
    let k := getCore (after (.loop tile0 10) (withCore tile0 { sup [.val 4] with pc := 0x208 } up)) tile0
    ccr k (.ls 0) = 0x20A ∧ ccr k (.le 0) = 0x21C ∧ ccr k (.lc 0) = 4 ∧ k.pc = 0x20A := by decide

/-- A signed wrap, an arithmetic shift by the width, and the high half of a product. -/
theorem test_arithmetic : cells (after (.add tile0) (at_ tile0 [.val 1, .val 0xFFFFFFFF])) tile0 = [.val 0] ∧
    cells (after (.sub tile0) (at_ tile0 [.val 1, .val 0])) tile0 = [.val 0xFFFFFFFF] ∧
    cells (after (.sar tile0) (at_ tile0 [.val 32, .val 0x80000000])) tile0 = [.val 0xFFFFFFFF] ∧
    cells (after (.shl tile0) (at_ tile0 [.val 32, .val 1])) tile0 = [.val 0] ∧
    cells (after (.mulh tile0) (at_ tile0 [.val 0xFFFFFFFF, .val 2])) tile0 = [.val 0xFFFFFFFF] := by decide

/-- 1.0 + 1.0, 3 × 0.5, and ties to even at the last bit: 1 + 2⁻²⁴ is 1. -/
theorem test_float : (f32Add 0x3F800000 0x3F800000).val = 0x40000000 ∧ (f32Mul 0x40400000 0x3F000000).val = 0x3FC00000 ∧
    (f32Add 0x3F800000 0x33800000).val = 0x3F800000 ∧ (f32Add 0x7F800000 0xFF800000).val = 0x7FC00000 ∧
    (f32Div 0x3F800000 0).val = 0x7F800000 ∧ (f32Sqrt 0x40800000).val = 0x40000000 ∧ (f32Exp2 0x40400000).val = 0x41000000 ∧
    (f32Log2 0x41000000).val = 0x40400000 := by decide

/-- The least signed word divided by −1 wraps (R197), and DIV by zero leaves 0 with DZ. -/
theorem test_div : (getCore (after (.div tile0) (at_ tile0 [.val 0xFFFFFFFF, .val 0x80000000])) tile0).side = [⟨0, 0x80000000, 0⟩] ∧
    (getCore (after (.div tile0) (at_ tile0 [.val 0, .val 5])) tile0).side = [⟨0, 0, 2⟩] := by decide

/-- TRAP takes vector 8: with a handler at 0x400 the frame's EPC is the next instruction. -/
theorem test_trap :
    let s := setWord (withCore cur0 (setK [(.vbar, Fd.cVbarBase, 4), (.swin, Fd.cSwinBase, 64), (.swin, Fd.cSwinLimit, 128),
      (.sosp, Fd.cSospPtr, 2048), (.srsp, Fd.cSrspPtr, 4096)] (sup [])) up) (localBase cur0 + 256 + 32) 0x400
    let t := after (.trap cur0 0x55) s
    (getCore t cur0).pc = 0x400 ∧ ccr (getCore t cur0) .ecause = 0x5508 ∧ memWord t (localBase cur0 + 4096 - 32) = 2 := by decide

/-- A power-on leaves cause POR (R433). -/
theorem test_powerOn : memWord (after (.powerOn [] [] []) up) causeAddr = 1 := by decide +kernel

/-! ### Hypotheses that are met: Limdon -/

/-- With no poisoned granule and no bit in error, every byte reads clean. -/
theorem clean_all {s : State} (hp : s.poison = []) (hu : s.upsets = []) (a : Nat) : clean s a = true := by
  simp [clean, upsetsAt, hp, hu, SMap.get]

theorem hyp_StepRunsFront : State.reset.pending = [] ∧ { up with pending := [.finalEdge] }.pending = .finalEdge :: [] ∧
    Instr.finalEdge.wf = true ∧ (Instr.definedIllegal tile0 0xF000).wf = false := by decide

theorem hyp_BinaryOperations : let r : List Cell := List.replicate 6 (.val 9)
    Ready (at_ tile0 (.val 3 :: .val 4 :: r)) tile0 = true ∧ cells (at_ tile0 (.val 3 :: .val 4 :: r)) tile0 = .val 3 :: .val 4 :: r ∧
    r.length < 8 ∧ Ready (at_ .keeper [.val 3, .val 4]) .keeper = true ∧ Ready (at_ cur0 [.val 3, .val 4]) cur0 = true ∧
    cells (at_ cur0 [.val 3, .val 4]) cur0 = .val 3 :: .val 4 :: [] ∧ f32IsSNaN 0x7F800001 = true := by decide

theorem hyp_OperandMoves : let r : List Cell := List.replicate 6 (.val 9)
    let s := at_ tile0 (.val 1 :: .pend 0 :: r)
    Ready s tile0 = true ∧ cells s tile0 = .val 1 :: .pend 0 :: r ∧ r.length < 7 ∧ (cells (at_ tile0 (.val 0 :: r)) tile0).length < 8 ∧
    cells (at_ tile0 (.val 1 :: .val 2 :: List.replicate 5 (.val 9))) tile0 = .val 1 :: .val 2 :: List.replicate 5 (.val 9) ∧
    (List.replicate 5 (Cell.val 9)).length < 6 ∧ (.val 7 :: r : List Cell)[(6 : Word).toNat]? = some (.val 9) ∧
    (.val 7 :: r : List Cell).length < 8 := by decide

theorem hyp_OperandMoves_pair : let r : List Cell := List.replicate 7 (.val 9)
    let s := { at_ tile0 (.val 1 :: r) with pending := [.add tile0] }
    let led := modCore (retire (setCells tile0 (.val 5 :: cells s tile0) s) tile0) tile0 (fun k => { k with paired := true })
    Ready { s with pending := [] } tile0 = true ∧ s.pending = .add tile0 :: [] ∧ Fd.cLoopstDepth.get (getCore s tile0).loopEff = 0 ∧
    cells s tile0 = .val 1 :: r ∧ r.length < 8 ∧
    Ready { modCore (setCells tile0 r led) tile0 (fun k => { k with paired := false }) with pending := [] } tile0 = true := by decide

/-- A core with a stack region from 32 to 2048, with the operand and the return pointer given. -/
def stackK (o r : Nat) (xs : List Cell) : Core := setK [(.swin, Fd.cSwinBase, 1), (.swin, Fd.cSwinLimit, 64),
  (.sosp, Fd.cSospPtr, o), (.srsp, Fd.cSrspPtr, r)] (sup xs)

theorem hyp_StackRegion : let st (o r : Nat) (xs : List Cell) := withCore tile0 (stackK o r xs) up
    let k (o r : Nat) (xs : List Cell) := getCore (st o r xs) tile0
    clean (st 36 2048 []) (localBase tile0 + 32) = true ∧ clean (st 2044 2048 []) (localBase tile0 + 2044) = true ∧
    isSup (k 36 2048 []) = true ∧ cells (st 36 2048 []) tile0 = [] ∧ stackValid tile0 (k 36 2048 []) true = true ∧
    winBase (k 36 2048 []) .swin + 4 ≤ 36 ∧ stackValid tile0 (k 32 2048 []) true = true ∧ 32 < winBase (k 32 2048 []) .swin + 4 ∧
    stackValid tile0 (getCore up tile0) true = false ∧
    (let xs : List Cell := List.replicate 7 (.val 1)
     cells (st 2044 2048 (xs ++ [.val 5])) tile0 = xs ++ [.val 5] ∧ xs.length = 7 ∧ stackValid tile0 (k 2044 2048 (xs ++ [.val 5])) true = true ∧
     2044 + 4 ≤ (ccr (k 2044 2048 []) .srsp).toNat ∧ (ccr (k 2048 2048 []) .srsp).toNat < 2048 + 4) := by decide

theorem hyp_SideUnits : let o (i : Nat) : SideOp := ⟨i, 5, 0⟩
    let k : Core := { sup (.val 3 :: .val 4 :: List.replicate 6 (.val 9)) with side := [o 0, o 1, o 2] }
    let s := withCore tile0 k up
    Ready s tile0 = true ∧ (getCore s tile0).side.length < 4 ∧ cells s tile0 = .val 3 :: .val 4 :: List.replicate 6 (.val 9) ∧
    (List.replicate 6 (Cell.val 9)).length < 8 ∧ (getCore s tile0).entry = none ∧ (getCore s tile0).side[(2 : Fin 4).val]? = some (o 2) ∧
    Ready (at_ tile0 [.pend 2]) tile0 = true ∧ cells (at_ tile0 [.pend 2]) tile0 = .pend 2 :: [] := by decide

theorem hyp_LocalLoads : let s (a : Word) := at_ tile0 (.val a :: List.replicate 7 (.val 9))
    let u := withCore tile0 (usr [.val 0x20000]) up
    Ready (s 0) tile0 = true ∧ cells (s 0) tile0 = .val 0 :: List.replicate 7 (.val 9) ∧ (2 : Word).toNat % 4 ≠ 0 ∧
    localTarget tile0 0x1FFFC = .sram (localBase tile0 + 0x1FFFC) ∧ localTarget tile0 0x20000 = .pstore (localBase tile0 + 0x20000) ∧
    localTarget tile0 0x27FFC = .pstore (localBase tile0 + 0x27FFC) ∧ isSup (getCore (s 0) tile0) = true ∧
    clean (s 0) (localBase tile0 + 0x1FFFC) = true ∧ localTarget tile0 0x1234 = .sram (localBase tile0 + 0x1234) ∧
    unreadable (s 0) (localBase tile0 + 0x1FFFC) [0, 1, 2] = true ∧ unreadable (s 0) (localBase tile0 + 0x1FFFC) [287] = false ∧
    localTarget .keeper 0x100 = .rom 0x100 ∧ localTarget tile0 0x28000 = .unpop ∧
    localTarget cur0 0x40000 = .unpop ∧ localTarget .keeper 0x8000 = .unpop ∧ Ready u tile0 = true ∧ cells u tile0 = .val 0x20000 :: [] ∧
    isSup (getCore u tile0) = false := by decide

theorem hyp_LocalLoads_bad : let s := withCore tile0 { sup [.val 0x1FFFC] with tx := { st := .open_ } } up
    let t := at_ cur0 [.val 0x3FFFC]
    Ready s tile0 = true ∧ cells s tile0 = .val 0x1FFFC :: [] ∧ (0x1FFFC : Word).toNat % 4 = 0 ∧ (0x1FFFC : Word).toNat < 0x20000 ∧
    (getCore s tile0).tx.st = .open_ ∧ Ready t cur0 = true ∧ cells t cur0 = .val 0x3FFFC :: [] ∧
    (0x3FFFC : Word).toNat % 4 = 0 ∧ (0x3FFFC : Word).toNat < 0x40000 := by decide

theorem hyp_LocalStores : let s := at_ tile0 [.val 0x1BFFC, .val 7]
    let v := withCore tile0 (setK [(.shwin, Fd.cShwinBase, 8), (.shwin, Fd.cShwinLimit, 16)] (usr [.val 256, .val 7])) up
    Ready s tile0 = true ∧ cells s tile0 = .val 0x1BFFC :: .val 7 :: [] ∧ (0x1BFFC : Word).toNat % 4 = 0 ∧
    localTarget tile0 0x1BFFC = .sram (localBase tile0 + 0x1BFFC) ∧ clean s (localBase tile0 + 0x1BFFC) = true ∧
    isSup (getCore s tile0) = true ∧ localBase tile0 + 0x1BFFC - localBase tile0 < 0x1C000 ∧ localTarget tile0 0x20000 = .pstore (localBase tile0 + 0x20000) ∧
    Ready v tile0 = true ∧ cells v tile0 = .val 256 :: .val 7 :: [] ∧ isSup (getCore v tile0) = false ∧
    winBase (getCore v tile0) .shwin ≤ 256 ∧ 256 < winLimit (getCore v tile0) .shwin ∧ 255 < winBase (getCore v tile0) .shwin ∧
    winLimit (getCore v tile0) .shwin ≤ 512 := by decide

theorem hyp_LocalStores_ledger : let s := tick (withCore tile0 { sup [.val 0x1C000, .val 7] with tx := { st := .open_, part := true } } up)
    let t := withCore tile0 { sup [.val 0x1FFFC, .val 7] with tx := { st := .stitched, closed := true } } up
    Ready s tile0 = true ∧ cells s tile0 = .val 0x1C000 :: .val 7 :: [] ∧ isSup (getCore s tile0) = true ∧ 0x1C000 ≤ (0x1C000 : Word).toNat ∧
    (getCore s tile0).tx.closed = false ∧ running s = true ∧ (getCore s tile0).tx.part = true ∧ (getCore s tile0).tx.wtq.length < 32 ∧
    clean s (localBase tile0 + (0x1C000 : Word).toNat) = true ∧ Ready t tile0 = true ∧ (0x1FFFC : Word).toNat < 0x20000 ∧ (getCore t tile0).tx.closed = true ∧
    isSup (getCore t tile0) = true := by decide

theorem hyp_BlockOperations : let s := at_ tile0 [.val (BitVec.ofNat 32 2), .val 0x1BFF8, .val 0x100]
    Ready s tile0 = true ∧ isSup (getCore s tile0) = true ∧ cells s tile0 = .val (BitVec.ofNat 32 2) :: .val 0x1BFF8 :: .val 0x100 :: [] ∧
    (0x1BFF8 : Word).toNat % 4 = 0 ∧ (0x1BFF8 : Word).toNat + 4 * 2 < 2 ^ 32 ∧ (0x101 : Word).toNat % 4 ≠ 0 ∧
    (∀ i, i < 2 → localTarget tile0 ((0x1BFF8 : Word).toNat + 4 * i) = .sram (localBase tile0 + 0x1BFF8 + 4 * i) ∧
      clean s (localBase tile0 + 0x1BFF8 + 4 * i) = true ∧ (0x1BFF8 : Word).toNat + 4 * i < 0x1C000) ∧
    (∀ i, i < 2 → localTarget tile0 ((0x100 : Word).toNat + 4 * i) = .sram (localBase tile0 + 0x100 + 4 * i) ∧
      clean s (localBase tile0 + 0x100 + 4 * i) = true) := by decide

/-- A core inside a loop of one level, whose last instruction is at its pc. -/
def loopK (lc : Nat) : Core := { setCcr (setCcr (setK [(.loopst, Fd.cLoopstDepth, 1)] (sup [])) (.le 0) 0x10) (.lc 0) (BitVec.ofNat 32 lc) with
  pc := 0x10, loopEff := 1 }

theorem hyp_LoopEndTest : let k (n : Nat) := getCore (withCore tile0 (loopK n) up) tile0
    Fd.cLoopstDepth.get (k 1).loopEff = 1 ∧ Fd.cLoopstFloor.get (k 1).loopEff = 0 ∧ ccr (k 1) (.le 0) = (k 1).pc ∧
    (ccr (k 1) (.lc 0)).toNat ≤ 1 ∧ (ccr (k 0) (.lc 0)).toNat ≤ 1 ∧ 1 < (ccr (k 2) (.lc 0)).toNat ∧
    Fd.cLoopstDepth.get (getCore up tile0).loopEff ≤ Fd.cLoopstFloor.get (getCore up tile0).loopEff := by decide

theorem hyp_LoopInstruction : let s (d : Word) (xs : List Cell) := withCore tile0 { sup xs with loopEff := d } up
    Ready (s 4 []) tile0 = true ∧ Fd.cLoopstDepth.get (getCore (s 4 []) tile0).loopEff = 4 ∧
    Fd.cLoopstDepth.get (getCore (s 9 []) tile0).loopEff ≤ Fd.cLoopstFloor.get (getCore (s 9 []) tile0).loopEff ∧
    Fd.cLoopstFloor.get (getCore (s 1 []) tile0).loopEff < Fd.cLoopstDepth.get (getCore (s 1 []) tile0).loopEff ∧
    Fd.cLoopstDepth.get (getCore (s 3 []) tile0).loopEff < 4 ∧ cells (s 3 [.val 0]) tile0 = .val 0 :: [] ∧
    cells (s 3 [.val 1]) tile0 = .val 1 :: [] := by decide

theorem hyp_BranchesAndReturn : let k : Core := { sup := { cells := [.val 0], rets := List.replicate 15 2, shs := List.replicate 15 2 } }
    let s := withCore tile0 k up
    let r (x y : Word) := withCore tile0 (setK [(.mode, Fd.cModeRachk, 1)] { sup := { rets := [x], shs := [y] } }) up
    Ready s tile0 = true ∧ cells s tile0 = .val 0 :: [] ∧ (rets s tile0).length < 16 ∧ (shadows s tile0).length < 16 ∧
    cells (at_ tile0 [.val 3]) tile0 = .val 3 :: [] ∧ (3 : Word).getLsbD 0 = true ∧ Ready (r 2 4) tile0 = true ∧
    rets (r 2 4) tile0 = 2 :: [] ∧ shadows (r 2 4) tile0 = 4 :: [] ∧ ccrF (getCore (r 2 4) tile0) .mode Fd.cModeRachk = 1 := by decide

theorem hyp_InterruptsAndReturn : let s (l : List (Ccr × Fld × Nat)) := withCore tile0 (setK l (sup [])) up
    let ie := (Ccr.cstat, Fd.cCstatIe, 1)
    Ready (s []) tile0 = true ∧ (getCore (s []) tile0).sup.cells = [] ∧ nmeDue (s []) tile0 = false ∧
    ccrF (getCore (s []) tile0) .cstat Fd.cCstatIe = 0 ∧
    (let k := getCore (s [ie, (.irq, Fd.cIrqTtp, 1), (.irq, Fd.cIrqTten, 1)]) tile0
     ccrF k .cstat Fd.cCstatIe = 1 ∧ ccrF k .irq Fd.cIrqTtp = 1 ∧ ccrF k .irq Fd.cIrqTten = 1) ∧
    (let k := getCore (s [ie, (.irq, Fd.cIrqCmp, 1), (.irq, Fd.cIrqCmen, 1)]) tile0
     ccrF k .cstat Fd.cCstatIe = 1 ∧ ccrF k .irq Fd.cIrqTtp = 0 ∧ ccrF k .irq Fd.cIrqCmp = 1 ∧ ccrF k .irq Fd.cIrqCmen = 1) := by decide

theorem hyp_InterruptsAndReturn_curator :
    let s (l : List (Ccr × Fld × Nat)) := setF [(.curIrqen 0, ⟨0, 32⟩, 0xFFFFFFFF), (.spnErr 0, Fd.spnErrRange, 1)] (withCore cur0 (setK l (sup [])) up)
    let n (l : List (Ccr × Fld × Nat)) := setF [(.curNme 0, Fd.curNmeEvent, 1)] (withCore cur0 (setK l (sup [])) up)
    Ready (s [(.cstat, Fd.cCstatIe, 1)]) cur0 = true ∧ nmeDue (s [(.cstat, Fd.cCstatIe, 1)]) cur0 = false ∧
    curIrq (s []) .prg &&& reg (s []) (.curIrqen 0) ≠ 0#32 ∧ ccrF (getCore (s []) cur0) .irq Fd.cIrqTtp = 0 ∧
    Ready (n []) cur0 = true ∧ ccrF (getCore (n []) cur0) .cstat Fd.cCstatNmip = 0 ∧ regF (n []) (.curNme 0) Fd.curNmeEvent ≠ 0 ∧
    ccrF (getCore (n [(.cstat, Fd.cCstatNmip, 1)]) cur0) .cstat Fd.cCstatNmip = 1 := by decide

theorem hyp_InterruptsAndReturn_reti : let u := withCore tile0 (usr []) up
    let s (f : Nat) := withCore tile0 (setK [(.swin, Fd.cSwinBase, 2), (.swin, Fd.cSwinLimit, 4), (.efp, Fd.cEfpFrame, f)] (sup [])) up
    Ready u tile0 = true ∧ isSup (getCore u tile0) = false ∧ Ready (s 124) tile0 = true ∧ isSup (getCore (s 124) tile0) = true ∧
    (∀ i, i < 8 → clean (s 124) (localBase tile0 + 124 + 4 * i) = true) ∧
    124 % 4 = 0 ∧ winBase (getCore (s 124) tile0) .swin ≤ 124 ∧ 124 < winLimit (getCore (s 124) tile0) .swin ∧
    winLimit (getCore (s 128) tile0) .swin ≤ 128 ∧ 60 < winBase (getCore (s 60) tile0) .swin := by decide

theorem hyp_SystemInstructions : Ready (withCore tile0 { sup [] with latch := true } up) tile0 = true ∧
    (getCore (withCore tile0 { sup [] with latch := true } up) tile0).latch = true ∧
    (getCore (at_ tile0 []) tile0).latch = false ∧ Ready (at_ tile0 []) tile0 = true := by decide

/-- A curator that can take an exception: a stack region, a vector table at 256 and a handler for vector 1. -/
def trapS (l : List (Ccr × Fld × Nat)) : State := setWord (withCore cur0 (setK ([(.vbar, Fd.cVbarBase, 4), (.swin, Fd.cSwinBase, 64),
  (.swin, Fd.cSwinLimit, 128), (.sosp, Fd.cSospPtr, 2048), (.srsp, Fd.cSrspPtr, 2092)] ++ l) (sup [.val 1, .val 2])) up)
  (localBase cur0 + 260) 0x400

theorem hyp_ExceptionFrame : let s := setCore (trapS []) cur0 { getCore (trapS []) cur0 with sup := { cells := [.val 1, .val 2], rets := [8] } }
    let k := getCore s cur0
    (∀ a, clean s a = true) ∧
    k.entry = none ∧ k.sup.cells.any isPend = false ∧ stackValid cur0 k true = true ∧
    (ccr k .sosp).toNat + 4 * k.sup.cells.length + 4 * k.sup.rets.length + 32 ≤ (ccr k .srsp).toNat ∧ k.sup.shs = [] ∧
    (localWord s cur0 (64 * ccrF k .vbar Fd.cVbarBase + 4 * 1)).1 = 0x400#32 ∧
    (let x := getCore (trapS [(.shwin, Fd.cShwinBase, 130), (.shwin, Fd.cShwinLimit, 131), (.shsp, Fd.cShspPtr, 4192)]) cur0
     winBase x .shwin + 4 * 8 ≤ (ccr x .shsp).toNat ∧ (ccr x .shsp).toNat ≤ winLimit x .shwin) :=
  ⟨clean_all rfl rfl, by decide⟩

theorem hyp_ExceptionFrame_failed : let s := trapS [(.srsp, Fd.cSrspPtr, 2076)]
    let t := withCore tile0 { sup [] with tx := { st := .open_ } } up
    (getCore s cur0).sup.cells.any isPend = false ∧ (ccr (getCore s cur0) .srsp).toNat < (ccr (getCore s cur0) .sosp).toNat + 32 ∧
    stackValid cur0 (getCore up cur0) true = false ∧ (localWord (trapS []) cur0 (64 * 4 + 4 * 2)).1 = 0#32 ∧ s.poison = [] ∧ s.upsets = [] ∧ (getCore s cur0).entry = none ∧
    t.tick.frozen = false ∧ (getCore t tile0).tx.st = .open_ := by decide

theorem hyp_CoreRegisters : let s := at_ tile0 (.val 2 :: List.replicate 7 (.val 9))
    Ready s tile0 = true ∧ cells s tile0 = .val 2 :: List.replicate 7 (.val 9) ∧ Ccr.decode 2 = some .vbar ∧
    Ccr.vbar ∉ [Ccr.uosp, .ursp, .sosp, .srsp, .shsp, .cstat, .tickLo, .tickHi, .pipeCnt, .pipeCntp] ∧ Ccr.decode 0 = some .cstat ∧
    Ccr.decode 0x38 = some .tickLo ∧ Ccr.decode 0x39 = some .tickHi ∧ Ccr.decode 255 = none ∧
    pressHeld .vbar = false ∧ pressIdle (getCore s tile0) = true ∧
    (let u := withCore tile0 (usr [.val 2, .val 0xFFFFFFFF]) up
     Ready u tile0 = true ∧ isSup (getCore u tile0) = false ∧ ccrDenied .vbar (ccr (getCore u tile0) .vbar) 0xFFFFFFFF = true) ∧
    (let v := at_ .keeper [.val 0x40, .val 0]
     Ready v .keeper = true ∧ cells v .keeper = .val 0x40 :: .val 0 :: []) := by decide

/-- A core with aperture 0 at a folded address in pages of 4096. -/
def apK (page size : Nat) (l : List (Ccr × Fld × Nat)) (xs : List Cell) : Core := setK ([(.apb 0, Fd.cApbBase, page),
  (.apl 0, Fd.cAplSize, size), (.apa 0, Fd.cApaValid, 1)] ++ l) (sup xs)
def rdwr : List (Ccr × Fld × Nat) := [(.apa 0, Fd.cApaSr, 1), (.apa 0, Fd.cApaSw, 1)]

theorem hyp_FarChecks : let s (page : Nat) (l : List (Ccr × Fld × Nat)) (a : Word) := withCore tile0 (apK page 0 l [.val a, .val 7]) up
    Ready (s 0x200000 rdwr 0) tile0 = true ∧ cells (s 0x200000 rdwr 0) tile0 = .val 0 :: .val 7 :: [] ∧
    (getCore (s 0x200000 rdwr 0) tile0).loads.length < 6 ∧ (getCore (s 0x200000 rdwr 0) tile0).tx.closed = false ∧
    Fd.cApaValid.get (ccr (getCore (s 0x200000 rdwr 0) tile0) (.apa 0)) = 1 ∧
    4096 * (ccrF (getCore (s 0x200000 rdwr 0) tile0) (.apl 0) Fd.cAplSize + 1) ≤ (4096 : Word).toNat % 2 ^ 29 ∧
    aperture (s 0x200000 rdwr 4096) tile0 4096 true = .deny 3 0 ∧ aperture (s 0x200000 [] 0) tile0 0 false = .deny 4 3 ∧
    aperture (s 0xF00000 rdwr 0) tile0 0 true = .deny 4 2 ∧ aperture (s 0xF83FFF rdwr 0) tile0 0 false = .deny 4 2 ∧
    coreWorld up tile0 ≠ some (quireWorld up 63) ∧ aperture (s (0x200000 + 63 * 0x400) rdwr 0) tile0 0 false = .deny 4 1 := by decide

/-- GDDR7 of eight gatherings of 32 MiB, with region 3 of world `w` and type `ty` at 0x04_0200_0000. -/
def mem (w ty : Nat) (s : State) : State := setF [(.memTop, Fd.memTopAddr, 0x5000000), (.memRgnBase 3, Fd.memRgnBaseAddr, 0x40200),
  (.memRgnLim 3, Fd.memRgnLimAddr, 0x48000), (.memRgnAttr 3, Fd.memRgnAttrType, ty), (.memRgnAttr 3, Fd.memRgnAttrWorld, w)] s

theorem hyp_FarChecks_regions : let s (w ty : Nat) (a : Word) := mem w ty (withCore tile0 (apK 0x402000 0 rdwr [.val a, .val 7]) up)
    gddrBase + 0x2000000 ≤ 0x402000000 ∧ 0x402000000 < memTop (s 0 1 0) ∧ regionOf up 0x402000000 = none ∧
    regionOf (s 0 1 0) 0x402000000 = some 3 ∧ regionOf (s 0 1 0) (0x480000000 - 1) = some 3 ∧ regionOf (s 0 1 0) 0x480000000 = none ∧
    coreWorld (s 1 1 0) tile0 ≠ some (regionWorld (s 1 1 0) 3) ∧ coreWorld (s 0 2 0) tile0 = some (regionWorld (s 0 2 0) 3) ∧
    regLatF (s 0 2 0) (.memRgnAttr 3) Fd.memRgnAttrType = 2 ∧ aperture (s 0 2 0) tile0 0 true = .deny 4 5 ∧
    aperture (s 0 1 2) tile0 2 false = .deny 2 0 ∧ aperture (s 0 1 4092) tile0 4092 true = .mem 0x402000FFC false := by decide

theorem hyp_FarReplies : let s := withCore tile0 (apK 0x200330 0 rdwr [.val 0, .val 7]) up
    let l (n : Nat) : List Load := (List.range n).map (fun i => ⟨i, .far 0x100000000 0⟩)
    let k := getCore s tile0
    let t := setCore s tile0 { k with loads := l 6 }
    Ready s tile0 = true ∧ aperture s tile0 0 false = .mem 0x200330000 true ∧ k.loads.length < 6 ∧ (farCharge tile0 0x200330000 true false s).1 = true ∧
    6 ≤ (getCore t tile0).loads.length ∧ (getCore t tile0).loads[(5 : Fin 6).val]? = some ⟨5, .far 0x100000000 0⟩ ∧
    0x100000000 < gddrBase ∧ clean t (readAddr t 0x100000000) = true ∧ clean t 0xF80000000 = true ∧ (getCore t tile0).entry = none ∧ (getCore t tile0).unack = [] ∧ bankBusy t 0 = false ∧ t.flash.undef = [] ∧
    t.flash.prog.contains 0 = false ∧ { t with flash := { t.flash with prog := [0] } }.flash.prog.contains 0 = true := by decide +kernel

theorem hyp_FarReplies_held : let s := tick (setF [(.bdgTfolB 0, Fd.bdgTfolBArc, 0)] (withCore tile0 { apK 0x200330 0 rdwr [.val 0] with tx := { part := true } } up))
    Ready s tile0 = true ∧ aperture s tile0 0 false = .mem 0x200330000 true ∧ (farCharge tile0 0x200330000 true false s).1 = false := by decide +kernel

theorem hyp_FarReplies_stores : let st (i : Nat) : FarStore := ⟨i, 0, 0x200330000, 7, i % 2 == 1⟩
    let s (n : Nat) (x : Tx) := withCore tile0 { apK 0x200330 0 rdwr [.val 0, .val 7] with unack := (List.range n).map st, tx := x } up
    let k (n : Nat) (x : Tx) := getCore (s n x) tile0
    Ready (s 31 {}) tile0 = true ∧ cells (s 31 {}) tile0 = .val 0 :: .val 7 :: [] ∧ (k 31 { closed := true }).tx.closed = true ∧
    aperture (s 31 {}) tile0 0 true = .mem 0x200330000 true ∧ ownTarget tile0 0x200330000 = false ∧ flagsPass (k 31 {}) = true ∧
    (k 31 {}).tx.cons = [] ∧ (k 31 { cons := [5] }).tx.cons ≠ [] ∧ (k 31 {}).unack.length < 32 ∧ 32 ≤ (k 32 {}).unack.length ∧
    (farCharge tile0 0x200330000 true true (s 31 {})).1 = true ∧ (k 1 {}).unack[(0 : Fin 32).val]? = some (st 0) ∧
    (st 0).addr < gddrBase ∧ (k 1 {}).unack.take 0 = [] ∧ clean (s 1 {}) (st 0).addr = true ∧
    archShared 0x200330000 = true ∧ archShared 0x402000000 = false ∧ (k 2 {}).unack[(1 : Fin 32).val]? = some (st 1) ∧ (st 1).landed = true ∧
    (st 0).landed = false ∧
    flagsPass (setCcr (setCcr (sup []) .prsFlags 1) .prsFen 1) = false := by decide

/-! ### Hypotheses that are met: the spine instructions and the press -/

theorem hyp_PressStarts : let s (l : List (Ccr × Fld × Nat)) := withCore tile0 (setK l (sup [.val 2047])) up
    let k (l : List (Ccr × Fld × Nat)) := getCore (s l) tile0
    Ready (at_ cur0 []) cur0 = true ∧ (∀ q j, cur0 ≠ .tile q j) ∧ (∀ q j, CoreId.keeper ≠ .tile q j) ∧ Ready (at_ .keeper []) .keeper = true ∧
    Ready (s []) tile0 = true ∧ cells (s []) tile0 = .val 2047 :: [] ∧ pressIdle (k []) = true ∧ (k []).tx.closed = false ∧
    pressIdle (k [(.prsStat, Fd.cPrsStatBusy, 1)]) = false ∧ ccrF (k [(.prsStat, Fd.cPrsStatBusy, 1)]) .prsStat Fd.cPrsStatBusy = 1 ∧
    ccrF (k []) .mode Fd.cModePrecise = 0 ∧ ccrF (k [(.mode, Fd.cModePrecise, 1)]) .mode Fd.cModePrecise = 1 ∧
    pressIdle (k [(.mode, Fd.cModePrecise, 1)]) = true := by decide

/-- Slot 500 is owned by tile index 1, and entry 4095 of quire 0 subscribes to it for position 0. -/
def sub (firm : Nat) (s : State) : State := setF [(.spnSlotcfg 500, Fd.spnSlotcfgType, 1), (.spnSlotcfg 500, Fd.spnSlotcfgOwner, 1),
  (.qrcSubLo 0 4095, Fd.qrcSubLoValid, 1), (.qrcSubLo 0 4095, Fd.qrcSubLoSlot, 500), (.qrcSubLo 0 4095, Fd.qrcSubLoFirm, firm),
  (.qrcSubHi 0 4095, Fd.qrcSubHiMask, 1)] s

theorem hyp_SpineGet : let s (firm : Nat) (a : Word) (p : Place) := setPlace (sub firm (at_ tile0 (.val a :: List.replicate 7 (.val 9)))) 0 4095 p
    let e (a : Word) := a.toNat % 4096
    Ready (s 0 0 {}) tile0 = true ∧ cells (s 0 4095 {}) tile0 = .val 4095 :: List.replicate 7 (.val 9) ∧
    (getCore (s 0 0 {}) tile0).loads.length < 6 ∧ entryActive (s 0 0 {}) 0 0 = false ∧ entryActive (s 0 0 {}) 0 (e 4095) = true ∧
    entryMasked (s 0 0 {}) 0 0 (e 4095) = true ∧ entryMasked (s 0 0 {}) 0 1 (e 4095) = false ∧
    (4095 : Word).toNat / 4096 % 4 = 0 ∧ (8191 : Word).toNat / 4096 % 4 = 1 ∧ (12287 : Word).toNat / 4096 % 4 = 2 ∧
    (16383 : Word).toNat / 4096 % 4 = 3 ∧ (getPlace (s 0 0 {}) 0 4095).has = false ∧ (getPlace (s 0 0 {}) 0 4095).lost = false ∧
    (getPlace (s 0 0 { has := true }) 0 4095).has = true ∧ (getPlace (s 0 0 { has := true }) 0 4095).prov = false ∧
    (getPlace (s 1 0 { has := true, prov := true }) 0 4095).prov = true ∧ entryFirm (s 1 0 {}) 0 4095 = true ∧
    (getPlace (s 0 0 { hasLast := true }) 0 4095).hasLast = true ∧
    (getCore (withCore tile0 { sup [] with loads := [⟨3, .word 7 (some 1) false⟩] } up) tile0).loads[(0 : Fin 6).val]? =
      some ⟨3, .word 7 (some 1) false⟩ := by decide

/-- Tile 0 stands at a PUT to slot 65535, whose type is `t`, in transaction `x`. -/
def putS (t : Nat) (x : Tx) : State := setF [(.spnSlotcfg 65535, Fd.spnSlotcfgType, t)]
  (withCore tile0 { sup [.val 0x1FFFF, .val 7] with tx := x } up)

theorem hyp_SpinePut : let s := putS
    let k (x : Tx) := getCore (s 1 x) tile0
    Ready (s 1 {}) tile0 = true ∧ cells (s 1 {}) tile0 = .val 0x1FFFF :: .val 7 :: [] ∧ (k { closed := true }).tx.closed = true ∧
    (k { st := .aborting }).tx.st = .aborting ∧ (k { st := .aborting }).tx.closed = false ∧ Fd.spnSlotcfgType.get (slotCfg (s 0 {}) 65535) ≠ 1 ∧
    Fd.spnSlotcfgType.get (slotCfg (s 1 {}) 65535) = 1 ∧ ownerTile (slotCfg (s 1 {}) 65535) = consIndex (s 1 {}) 0 0 ∧
    (k { pubs := [(65535, ⟨1, false, true⟩)] }).tx.pubs.find? (fun e => e.1 == 65535) = some (65535, ⟨1, false, true⟩) ∧
    (k {}).tx.pubs = [] ∧ pubSpent (s 1 {}) 0 0 (k {}) = false ∧
    (let m : Msg := ⟨0, 0, false, false, true, 0, 0, .prg, false, false⟩
     let q (n : Nat) := { up with spine := { up.spine with log := [(0, List.replicate n m)] } }
     queueLen (q 63) 0 < 64 ∧ 64 ≤ queueLen (q 64) 0) := by decide

theorem hyp_SpineSeal : let s (w : CoreWait) (x : Tx) := withCore tile0 { sup [] with tx := x, wait := w } up
    let k (w : CoreWait) (x : Tx) := getCore (s w x) tile0
    Ready (s .none {}) tile0 = true ∧ (k .none { closed := true }).tx.closed = true ∧ (k .none { st := .aborting }).tx.st = .aborting ∧
    (k .none { st := .aborting }).tx.closed = false ∧ flagsPass (k .none {}) = true ∧ (k .none {}).tx.cons = [] ∧ queueLen (s .none {}) 0 < 64 ∧
    (k .none { cons := [5] }).tx.cons ≠ [] ∧ (k .seal {}).wait = .seal ∧ (k .seal {}).on = true ∧ (k .seal {}).halted = false ∧
    (s .seal {}).tick.frozen = false ∧ (k .seal {}).tx.st ≠ .stopped ∧ (k .seal {}).tx.hold = false := by decide

/-- Tile 0 stands at a STITCH of request `x`. -/
def stitchS (w : CoreWait) (u : List FarStore) (l : List (Ccr × Fld × Nat)) (x : Word) : State :=
  withCore tile0 { setK l (sup [.val x]) with tx := { st := .open_ }, wait := w, unack := u } up

theorem hyp_SpineStitch : let s := stitchS
    let k (w : CoreWait) (u : List FarStore) (l : List (Ccr × Fld × Nat)) := getCore (s w u l 0) tile0
    cells (s .none [] [] 1) tile0 = .val 1 :: [] ∧ (1 : Word) ≠ 0 ∧
    (getCore (withCore tile0 { sup [.val 0] with tx := { st := .aborting } } up) tile0).tx.st = .aborting ∧
    Ready (withCore tile0 { sup [.val 0] with tx := { st := .aborting } } up) tile0 = true ∧
    cells (s .none [] [] 0) tile0 = .val 0 :: [] ∧ (k .none [] []).tx.closed = false ∧ Ready (s .none [] [] 0) tile0 = true ∧
    (k .none [] []).tx.st = .open_ ∧ flagsPass (k .none [] []) = true ∧ pressIdle (k .none [] []) = true ∧ (k .none [] []).unack = [] ∧
    (k .none [⟨0, 0, 0, 0, false⟩] []).unack ≠ [] ∧ pressIdle (k .none [] [(.prsStat, Fd.cPrsStatBusy, 1)]) = false ∧
    flagsPass (k .none [] [(.prsFlags, Fd.cPrsFlagsFlags, 1), (.prsFen, Fd.cPrsFenRinv, 1)]) = false ∧
    (k .stitch [] []).wait = .stitch ∧ canRun (setCore (s .stitch [] [] 0) tile0 { k .stitch [] [] with wait := .none }) tile0 = true := by decide

/-- The press of tile 0 stands at the microword `w` at address `n`. -/
def pressing (n w : Nat) (k : Core) : State :=
  setNat (withCore tile0 (setK [(.prsStat, Fd.cPrsStatBusy, 1), (.prsStat, Fd.cPrsStatNext, n)] k) up) (tileBase 0 0 + 0x20000 + 16 * n) w 16

/-- A microword with both sources vector register 3, destination vector register 3, and all lanes enabled. -/
def vword (op : Nat) : Nat := op + 0xFFFF * 2 ^ 9 + 6 * 2 ^ 25 + 6 * 2 ^ 28 + 5 * 2 ^ 31

theorem hyp_PressArithmetic : let u (op : Nat) := uword (vword op)
    (∀ op ∈ [0x10, 0x11, 0x12, 0x13, 0x14, 0x15, 0x16, 0x17, 1, 2, 3, 4, 5, 6, 7, 8], pressAt (pressing 2046 (vword op) {}) 0 0 (u op) = true ∧
      (u op).op = op) ∧ 3 ≤ (u 1).srca ∧ (u 1).srca ≤ 6 ∧ 3 ≤ (u 1).srcb ∧ (u 1).srcb ≤ 6 ∧ 2 ≤ (u 1).dst ∧ (u 1).dst ≤ 5 ∧
    (∀ l, l < 16 → (getAcc (getCore (pressing 0 (vword 8) {}) tile0) l (u 8).acc).inv = false ∧
      (getAcc (getCore (pressing 0 (vword 8) {}) tile0) l (u 8).acc).clip = false) := by decide

theorem hyp_PressImages : let w (op : Nat) := op + 2 ^ 9
    let s (op : Nat) := pressing 0 (w op) (setK [(.prsAgbase 0, Fd.cPrsAgbaseBase, 0x7FF0), (.prsAgbase 2, Fd.cPrsAgbaseBase, 0x6FF0)] {})
    let k := getCore (s 9) tile0
    (∀ op ∈ [9, 10, 11], pressAt (s op) 0 0 (uword (w op)) = true ∧ (uword (w op)).op = op) ∧ (uword (w 9)).lmask = 1 ∧ (uword (w 9)).dst = 0 ∧
    agIndex k 2 0 + 16 ≤ 0x7000 ∧ agIndex k 0 0 + 16 ≤ 0x8000 ∧ (s 9).poison = [] ∧ (s 9).upsets = [] ∧ (s 10).poison = [] ∧ (s 10).upsets = [] ∧ (getAcc k 0 0).e = 0 ∧
    (∀ i, i < 9 → memWord (s 10) (tileBase 0 0 + 4 * agIndex k 0 0 + 4 * i) = 0) := by decide +kernel

theorem hyp_PressComplex : ∀ op ∈ [0x18, 0x19, 0x1A], pressAt (pressing 0 (vword op) {}) 0 0 (uword (vword op)) = true ∧
    (uword (vword op)).op = op := by decide

theorem hyp_PressSequence : let s (w : Nat) := pressing 2046 w {}
    pressAt (s 0) 0 0 (uword 0) = true ∧ pressAt (s 63) 0 0 (uword 63) = true ∧ opDefined (uword 63).op = false ∧
    (let t := withCore tile0 { sup [] with press := { flight := [⟨1, 2, []⟩] } } up
     (getCore t tile0).press.flight = ⟨1, 2, []⟩ :: [] ∧ (getCore t tile0).wait ≠ .press) := by decide

theorem hyp_PressSequence_waits : let w (wait : Nat) := wait * 2 ^ 61 + 2 ^ 81 + (if wait = 5 then 9 * 2 ^ 65 else 0)
    let s (wait : Nat) := pressing 2047 (w wait) {}
    let k (wait : Nat) := getCore (s wait) tile0
    ∀ x ∈ [5, 6], let u := fetchUword (s x) 0 0 2047
      pressRuns (s x) 0 (k x) = true ∧ ccrF (k x) .prsStat Fd.cPrsStatNext = 2047 ∧ opDefined u.op = true ∧ pisSpent (s x) 0 0 (k x) = false ∧
      pressLedgerFull (s x) (k x) u = false ∧ clean (s x) (tileBase 0 0 + 0x20000 + 16 * 2047) = true ∧ waitHolds (s x) 0 0 (k x) u = false ∧ u.op = 0 ∧ u.tmo ≠ 0 ∧
      u.wait = x := by decide

/-! ### Hypotheses that are met: the tick, the spine and the quires -/

theorem hyp_TickStartAndStop : let go := setF [(.tckCtl, Fd.tckCtlGoPrg, 1), (.tckCtl, Fd.tckCtlGoGrd, 1)] up
    let last := { tick up with tick := { up.tick with frozen := true, last := true } }
    running up = false ∧ up.power.up = true ∧ goBits up = false ∧ running go = false ∧ goBits go = true ∧ go.power.up = true ∧
    regF go .tckSrc Fd.tckSrcActive ≠ 2 ∧ running last = true ∧ last.tick.frozen = true ∧ last.tick.last = true ∧
    last.budget.held = [] := by decide

theorem hyp_TickStartAndStop_edge : let s (r : Nat) := { setF [(.tckCtl, Fd.tckCtlRate, 4)] (tick up) with tick := { up.tick with frozen := true, resid := r } }
    running (s 0) = true ∧ (s 0).tick.frozen = true ∧ (s 0).tick.last = false ∧ (s 0).budget.held = [] ∧
    (let (_, p, m) := rateTable (rate (s 0)); m = 0 ∨ ((s 0).tick.resid + p < m) ∨ m ≤ (s 2).tick.resid + p) := by decide

theorem hyp_TickPhases : let s := { setF [(.qrcStat 0, Fd.qrcStatRun, 1)] (withCore tile0 { sup [] with tx := { ready := true } } (tick up)) with
      tick := { up.tick with period := 12500 } }
    let k := getCore s tile0
    let d (x : Tx) := tick (setF [(.bdgTfolA 0, Fd.bdgTfolACyc, 0xFFFE)] (withCore tile0 { sup [] with tx := x } up))
    let e (l : Bool) := { d { part := true, st := .open_, farHeld := if l then some 5 else none } with tick := { (d {}).tick with deadline := true } }
    let f (w : CoreWait) := setCore (d {}) tile0 { getCore (d { part := true, st := .open_ }) tile0 with wait := w }
    running s = true ∧ s.tick.deadline = false ∧ s.tick.deckle = false ∧ (∀ n ∈ s.tick.started, n < 0) ∧
    startsDue (fun n => decide (n < 0)) s = false ∧ k.tx.ready = true ∧ inService s 0 0 = true ∧ k.on = true ∧ k.halted = false ∧
    k.wait = .none ∧ k.tx.st = .idle ∧ k.doomNext = false ∧ k.tx.restore = [] ∧ s.poison = [] ∧
    (e true).tick.deadline = true ∧ (e true).tick.deckle = false ∧ (getCore (e true) tile0).tx.farHeld.isSome = true ∧
    (getCore (e false) tile0).tx.farHeld.isSome = false ∧ (getCore (e true) tile0).tx.part = true ∧
    (getCore (f .wft) tile0).wait = .wft ∧ (getCore (f .none) tile0).wait ≠ .wft ∧ 0 + 5 + 640 < s.tick.period ∧
    (getCore (d { part := true, st := .stitched }) tile0).tx.st = .stitched ∧ 0 ∈ (d {}).tick.started ∧
    regLatF (d { part := true }) (.bdgTfolA (folioIndex (d {}) 0 0)) Fd.bdgTfolACyc ≠ 0xFFFF := by decide

theorem hyp_TickPhases_timer : let s := tick (withCore tile0 (setK [(.irq, Fd.cIrqTten, 1), (.irq, Fd.cIrqTtcyc, 12499)] (sup [])) up)
    running s = true ∧ ccrF (getCore s tile0) .irq Fd.cIrqTten = 1 ∧ ccrF (getCore s tile0) .irq Fd.cIrqTtcyc < s.tick.period := by decide

theorem hyp_TickSources : let s (l : List (Creg × Fld × Nat)) := setF l up
    up.power.up = true ∧ 16 ≤ { up with eth := { up.eth with good := 16 } }.eth.good ∧
    regF (s [(.ethPtpstat, Fd.ethPtpstatState, 1)]) .ethPtpstat Fd.ethPtpstatState = 1 ∧ steerOf up = 0 ∧
    srcF (s [(.tckSrc, Fd.tckSrcActive, 2)]) Fd.tckSrcActive = 2 ∧ 16 < (17 : Word).toInt.natAbs ∧
    regF (s [(.ethPtpstat, Fd.ethPtpstatLocked, 1)]) .ethPtpstat Fd.ethPtpstatLocked = 1 ∧ running up = false ∧
    Fd.tckSrcSel.get 1 ≠ srcF (s [(.tckSrc, Fd.tckSrcSel, 2)]) Fd.tckSrcSel ∧ Fd.tckSrcSel.get 1 < 3 ∧ sourceReady up 1 = false ∧
    Fd.tckSrcSel.get 2 ≠ srcF (s [(.tckSrc, Fd.tckSrcSel, 0)]) Fd.tckSrcSel ∧ Fd.tckSrcSel.get 2 = 2 ∧
    rate (s [(.tckCtl, Fd.tckCtlRate, 2)]) % 2 = 0 ∧ sourceReady (s [(.tckSrc, Fd.tckSrcRdyWc, 1)]) 1 = true ∧
    srcF (s [(.tckSrc, Fd.tckSrcActive, 1)]) Fd.tckSrcActive = 1 ∧ srcF (s [(.tckSrc, Fd.tckSrcSlewing, 1)]) Fd.tckSrcSlewing = 1 ∧
    (16 : Word).toInt.natAbs ≤ 16 ∧
    srcF (s [(.tckSrc, Fd.tckSrcHold, 1)]) Fd.tckSrcHold = 1 := by decide

/-- Tile 0 of logical number 0 has published slot 5 and tile 1 has consumed it. -/
def frozenS : State := { tick (setF [(.spnSlotcfg 5, Fd.spnSlotcfgType, 1), (.qrcStat 0, Fd.qrcStatRun, 3)]
    (withCore tile0 { tx := { st := .stopped, part := true, causes := [3] } }
      (withCore (.tile 0 1) { tx := { st := .stitched, part := true, cons := [0] } } up))) with
  tick := { up.tick with deckle := true } }

theorem hyp_DeadlineAndStitch : running (tick up) = true ∧ (tick up).tick.deadline = false ∧ (tick up).tick.deckle = false ∧
    (tick up).stage.frameDue = false ∧ startsDue (fun _ => true) (tick up) = false ∧
    (let f : Frozen := ⟨0, 0, 0, { tx := { st := .stopped } }, [3]⟩
     let g : Frozen := ⟨1, 0, 1, { tx := { st := .stitched, cons := [0] } }, []⟩
     isSeed f = true ∧ f.idx ∈ g.core.tx.cons ∧ commits (verdictOf [g]) g = true) ∧
    running frozenS = true ∧ frozenS.tick.deckle = true ∧ frozenS.tick.frozen = false ∧ ((ownedSlots frozenS).map (·.1)).Nodup ∧
    (5, reg frozenS (.spnSlotcfg 5)) ∈ ownedSlots frozenS ∧
    (let v := verdictOf (frozenTiles [] frozenS)
     (∀ f ∈ v.fs, fails f = false) ∧ (v.fs.map (fun f => 17 * f.q + f.j)).Nodup ∧ v.fs.length = 2) ∧
    (∀ q, q < 64 → (getQuire frozenS q).armed = none) := by decide

theorem hyp_DeadlineAndStitch_egress : let f : TxFrame := ⟨5, false, 0, [], [], []⟩
    let s := { up with stage := { up.stage with frameDue := true, mdx := [(31, { frame := some f, live := true })] } }
    s.stage.frameDue = true ∧ s.tick.frozen = false ∧ (getMdx s 31).frame = some f ∧ (getMdx s 31).live = true := by decide

/-- A slot word: type, owner. -/
def slotW (ty owner : Nat) : Word := Fd.spnSlotcfgOwner.putN (Fd.spnSlotcfgType.putN 0 ty) owner

theorem hyp_SpineState_slots : let s (ty ow w : Nat) := setF [(.spnSlotcfg 7, Fd.spnSlotcfgType, ty), (.spnSlotcfg 7, Fd.spnSlotcfgOwner, ow),
      (.spnSlotcfg 7, Fd.spnSlotcfgWorld, w)] up
    running up = false ∧ Fd.spnSlotcfgType.get (reg up (.spnSlotcfg 65535)) = 0 ∧ Fd.spnSlotcfgType.get (slotW 3 0) = 3 ∧
    Fd.spnSlotcfgType.get (slotW 1 1088) = 1 ∧ 1087 < ownerTile (slotW 1 1088) ∧ ownerTile (slotW 1 1087) ≤ 1087 ∧
    indexWorld up (ownerTile (slotW 1 1087)) ≠ .prg ∧ indexWorld up (ownerTile (slotW 1 1086)) = .grd ∧ indexWorld up (ownerTile (slotW 1 0)) = .prg ∧
    Fd.spnSlotcfgType.get (slotW 2 (5 + 64 * 255)) = 2 ∧ ownerPort (slotW 2 (5 + 64 * 255)) = 5 ∧ portBad 5 255 = false ∧ portBad 5 256 = true ∧
    oddMember up 5 = false ∧ channelTaken (s 2 (5 + 64 * 255) 0) 8 5 255 = true ∧ Fd.spnSlotcfgType.get (reg (s 1 0 1) (.spnSlotcfg 7)) ≠ 0 ∧
    World.ofNum (Fd.spnSlotcfgWorld.get (reg (s 1 0 1) (.spnSlotcfg 7))) ≠ .prg ∧ Fd.spnSlotcfgType.get (slotW 0 0) = 0 := by decide

/-- A message of slot 500 from tile 1 waits in the injector of quire 0, whose links are in service as given. -/
def msgS (l0 l1 : Nat) : State := setF [(.spnLink 0, Fd.spnLinkL0Up, l0), (.spnLink 0, Fd.spnLinkL1Up, l1)]
  { sub 0 up with spine := { up.spine with log := [(0, [⟨500, 9, false, true, false, 0, 1, .prg, false, false⟩])] } }

theorem hyp_SpineState_messages : (injLog (msgS 1 0) 0)[cursor (msgS 1 0) 0 0]? = some ⟨500, 9, false, true, false, 0, 1, .prg, false, false⟩ ∧
    (⟨500, 9, false, true, false, 0, 1, .prg, false, false⟩ : Msg).isSeal = false ∧ false = (msgS 1 0).tick.count.getLsbD 0 ∧
    linkUp (msgS 1 0) 0 0 = true ∧ linkUp (msgS 1 0) 0 1 = false ∧ linkUp (msgS 1 1) 0 0 = true ∧ packetFlips [0, 1, 2] = none ∧
    (msgS 0 0).power.up = true ∧ entryOf (msgS 1 0) 0 500 = some 4095 ∧ linkUp (msgS 1 1) 0 1 = true ∧
    running (msgS 0 0) = false ∧
    (let s := withCore tile0 { sup [] with loads := [⟨4, .far 0x200330000 0⟩], user := { cells := [.pend 4] }, tx := { st := .open_ } } up
     (getCore s tile0).loads[(0 : Fin 6).val]? = some ⟨4, .far 0x200330000 0⟩ ∧ (getCore s tile0).tx.st = .open_ ∧ (getCore s tile0).entry = none ∧
     (getCore s tile0).user.cells[0]? = some (.pend 4)) := by decide

/-- A copy whose check bits alone differ is never taken, whatever the check is. -/
theorem hyp_SpineState_copy (q l : Nat) (m : Msg) : copyOn q l m 0x200000000000000000 = none := by
  have h0 : (0x200000000000000000 : BitVec 96).setWidth 69 = 0 := by decide
  have h1 : (0x200000000000000000 : BitVec 96).extractLsb' 69 27 = 1 := by decide
  simp only [copyOn, h0, h1]
  rw [if_neg]
  intro h
  rw [show msgBits m ^^^ 0 = msgBits m from BitVec.xor_zero] at h
  have h2 : Config.slotCheck (msgBits m) (2 * q + l) ^^^ Config.slotCheck (msgBits m) (2 * q + l) =
      Config.slotCheck (msgBits m) (2 * q + l) ^^^ (Config.slotCheck (msgBits m) (2 * q + l) ^^^ 1#27) :=
    congrArg (fun x => Config.slotCheck (msgBits m) (2 * q + l) ^^^ x) h
  rw [← BitVec.xor_assoc, BitVec.xor_self, BitVec.zero_xor] at h2
  exact absurd h2 (by decide)

theorem hyp_QuireLoads : let s := setF [(.qrcRel 0, Fd.qrcRelRel, 0x8000), (.qrcStat 0, Fd.qrcStatImg, 1), (.qrcStat 0, Fd.qrcStatPwr, 1)] up
    let q (x : Quire) := setQuire up 0 x
    Memory.wf s.mem = true ∧ role s 0 15 = 15 ∧ relBit s 0 15 = true ∧ inService s 0 15 = false ∧ regF s (.qrcStat 0) Fd.qrcStatImg = 1 ∧
    regF s (.qrcStat 0) Fd.qrcStatPwr = 1 ∧ (getQuire s 0).load = none ∧ imgMap s 0 15 ≤ 16 ∧ ledMap s 0 15 ≤ 16 ∧ (up.tick.deckle = false) ∧ (16 : Nat) ≤ 16 ∧
    (getQuire (q { load := some (.takeover 16 3), loadOn := true }) 0).load = some (.takeover 16 3) ∧
    (getQuire (q { load := some (.takeover 16 3), loadOn := true }) 0).loadOn = true ∧
    (getQuire (q { load := some (.takeover 16 3), loadOn := true }) 0).heldMsg = [] ∧
    (getQuire (q { load := some (.loadres 16 16), loadOn := true }) 0).load = some (.loadres 16 16) ∧ reserveOf up 0 = some 16 ∧ running up = false ∧
    (let t (n : Nat) := { tick (setF [(.bdgTfolB 0, Fd.bdgTfolBArc, n)] (withCore tile0 { tx := { wtq := [511], part := true } } up)) with tick := up.tick }
     Memory.wf (t 0).mem = true ∧ (getCore (t 0) tile0).tx.wtq = 511 :: [] ∧ (t 0).tick.frozen = false ∧ ledMap (t 0) 0 (maskBit (t 0) 0 0) ≤ 16 ∧
     arcSpent (t 0) 0 0 (getCore (t 0) tile0) = true ∧ arcSpent (t 1) 0 0 (getCore (t 1) tile0) = false) := by decide

theorem hyp_QuireCommands : let v (f : Fld) : Word := f.putN 0 1
    let s := setQuire up 0 { verified := [16] }
    let fl (r : Nat) := setF [(.qrcPos 0 2, Fd.qrcPosRole, r)] up
    running up = false ∧ Fd.qrcRelRel.get 0xFFFF ≠ 0 ∧ Fd.qrcHovrLoadres.get (v Fd.qrcHovrLoadres) = 1 ∧ Fd.qrcHovrGo.get (v Fd.qrcHovrLoadres) = 0 ∧
    reserveOf s 0 = some 16 ∧ (getQuire s 0).load = none ∧ imgMap s 0 16 ∈ (getQuire s 0).verified ∧ imgMap up 0 16 ∉ (getQuire up 0).verified ∧
    Fd.qrcHovrLoadres.get (v Fd.qrcHovrGo) = 0 ∧ Fd.qrcHovrGo.get (v Fd.qrcHovrGo) = 1 ∧ (getQuire up 0).armed = none ∧
    (getQuire (setQuire up 0 { armed := some 3 }) 0).armed ≠ none ∧ Fd.qrcPosReadmit.get (v Fd.qrcPosReadmit) = 1 ∧ role (fl 17) 0 2 = 17 ∧
    role (tick (fl 19)) 0 2 = 19 ∧ running (tick (fl 19)) = true ∧ reserveOf (fl 19) 0 ≠ none ∧
    reserveOf (setF [(.qrcPos 0 16, Fd.qrcPosRole, 17)] (fl 19)) 0 = none ∧ up.power.up = true ∧
    ((tick (fl 19)).quires.map (·.1)).Nodup ∧ (∀ e ∈ (tick (fl 19)).quires, e.1 < 64 ∧ e.2.readmit = [] ∧ e.2.tested = []) ∧
    (s.quires.map (·.1)).Nodup ∧ (∀ e ∈ s.quires, e.1 < 64 ∧ e.2.readmit = [] ∧ e.2.tested = []) ∧ s.quires ≠ [] := by decide

theorem hyp_QuireCommands_send : let v : Word := Fd.curMsgTile.putN (Fd.curMsgSend.putN 0 1) 15
    let s (run p : Nat) := setF [(.qrcStat 0, Fd.qrcStatRun, run)] (withCore (.tile 0 15) (setK [(.irq, Fd.cIrqCmp, p)] (sup [])) up)
    running (s 0 0) = false ∧ Fd.curMsgSend.get v = 1 ∧ Fd.curMsgTile.get v = 15 ∧ quireWorld (s 0 0) (15 / 16) = .prg ∧
    (getQuire (s 0 0) 0).load = none ∧ holder (s 0 0) 0 15 = some 15 ∧ inService (s 0x8000 0) 0 15 = true ∧ inService (s 0 0) 0 15 = false ∧
    ccrF (getCore (s 0x8000 0) (tileId 0 15)) .irq Fd.cIrqCmp = 0 ∧ ccrF (getCore (s 0x8000 1) (tileId 0 15)) .irq Fd.cIrqCmp = 1 := by decide

/-! ### Hypotheses that are met: memory, budgets, stage and network ports, panel and serial ports -/

theorem hyp_Regions : let rg (lo hi : Nat) := setF [(.memRgnBase 63, Fd.memRgnBaseAddr, lo), (.memRgnLim 63, Fd.memRgnLimAddr, hi)] (mem 0 1 up)
    let p (lo hi : Nat) := regionRange (rg lo hi) 63
    let v : Word := Fd.memRgnAttrType.putN 0 1
    running (mem 0 1 up) = false ∧ regF (mem 0 1 up) (.memRgnAttr 63) Fd.memRgnAttrType = 0 ∧ Fd.memRgnAttrType.get v = 1 ∧
    regionOverlaps (rg 0x47FFF 0x48001) 63 (p 0x47FFF 0x48001).1 (p 0x47FFF 0x48001).2 = true ∧
    regionOverlaps (rg 0x48000 0x50001) 63 (p 0x48000 0x50001).1 (p 0x48000 0x50001).2 = false ∧
    regionRangeBad (rg 0x48000 0x50001) (p 0x48000 0x50001).1 (p 0x48000 0x50001).2 = true ∧
    regionOverlaps (rg 0x48000 0x50000) 63 (p 0x48000 0x50000).1 (p 0x48000 0x50000).2 = false ∧
    regionRangeBad (rg 0x48000 0x50000) (p 0x48000 0x50000).1 (p 0x48000 0x50000).2 = false ∧
    regF (mem 0 1 up) (.memRgnAttr 3) Fd.memRgnAttrType ≠ 0 ∧ regF (mem 0 1 up) (.memRgnAttr 3) Fd.memRgnAttrWorld = World.prg.num ∧
    Fd.memRgnAttrType.get 0 = 0 ∧ (mem 0 1 up).power.up = true ∧
    regionOverlaps (rg 0x47FFF 0x50001) 63 (p 0x47FFF 0x50001).1 (p 0x47FFF 0x50001).2 = true ∧
    regionRangeBad (rg 0x47FFF 0x50001) (p 0x47FFF 0x50001).1 (p 0x47FFF 0x50001).2 = true := by decide

theorem hyp_Regions_zeroing : let s := { mem 0 1 up with memSys := { zeroing := [(5, (0x402000000, 0x402010000))] }, poison := [0x402000100] }
    s.memSys.zeroing.find? (fun z => z.1 == (5 : Fin 64).val) = some (5, (0x402000000, 0x402010000)) ∧
    regF s (.memRgnAttr 5) Fd.memRgnAttrPend = 0 ∧ running s = false ∧ (0x4020001 : Word).toNat * 256 ≤ 0x402000100 ∧
    granule 0x40200011F ∈ s.poison ∧ regionOf s (granule 0x40200011F) = some 3 ∧ regionWorld s 3 = .prg ∧ granule 0x402000120 ∉ s.poison := by decide

/-- Every GDDR7 channel in a state, with gatherings. -/
def chans (st : Nat) (s : State) : State := setF ([(.memCfg, Fd.memCfgChans, 8), (.memGch, Fd.memGchCount, 4), (.memGdup, Fd.memGdupCount, 2)] ++
  (List.range 8).map (fun c => (.memCh c, Fd.memChState, st))) s

theorem hyp_MemoryChannels : let due (n : Nat) := { chans 2 up with memSys := { chan := [(7, { due := n })] } }
    (getChan (due 5) 7).due = 5 ∧ chanState (due 5) 7 = 2 ∧ chanState (chans 1 up) 0 = 1 ∧ chanState (chans 5 up) 0 = 5 ∧ chanState (chans 4 up) 7 = 4 ∧
    running up = false ∧ chanState (chans 3 up) 7 = 3 ∧ (∀ n, n < 8 → chanState (chans 2 up) n = 2 ∧ (getChan (chans 2 up) n).wrong = []) ∧ memChans (chans 2 up) ≤ 8 ∧
    gCh (chans 2 up) ≠ 0 ∧ (∀ a, clean (chans 2 up) a = true) ∧ (chans 2 up).power.up = true ∧ chanState (chans 5 up) (pairChan (chans 5 up) 0) ≠ 2 ∧
    regF (chans 5 up) (.memChRslv 0) Fd.memChRslvNext ≠ gDup (chans 5 up) ∧
    (let s := setF [(.memCh 7, Fd.memChState, 5)] (chans 2 up); chanState s 7 = 5 ∧ chanState s (pairChan s 7) = 2) ∧
    sliceChan (tick (chans 2 up)) = some 0 ∧ (tick (chans 2 up)).memSys.sliced = false ∧ running (tick (chans 2 up)) = true ∧ (tick up).tick.count.toNat % 256 = 0 ∧
    64 ≤ (getChan { chans 2 up with memSys := { chan := [(7, { idle := 64 })] } } 7).idle ∧ gDup (chans 5 up) ≠ 0 ∧
    gDup (setF [(.memGdup, Fd.memGdupCount, 0)] (chans 4 up)) = 0 := by
  refine ⟨by decide, by decide, by decide, by decide, by decide, by decide, by decide, by decide, by decide, by decide,
    clean_all rfl rfl, ?_⟩; decide

theorem hyp_Scanners : let s := { tick (setF [(.qrcStat 63, Fd.qrcStatPwr, 1)] up) with scan := { holds := [17 * 63 + 15], count := [(63, 159)] } }
    running s = true ∧ role s 63 15 = 15 ∧ imgMap s 63 (min 15 16) ≤ 16 ∧ 17 * 63 + imgMap s 63 15 ∈ s.scan.holds ∧
    regF s (.qrcStat 63) Fd.qrcStatPwr = 1 ∧ (15 : Fin 17) ∈ [(15 : Fin 17)] ∧ s.scan.count.get 63 0 = 159 ∧ running up = false ∧
    engF up 7 Fd.cvsCtlClaimed = 0 ∧ engBusy up 7 = false ∧ Fd.cvsCtlRelease.get 0 = 0 ∧
    engF (setF [(.cvsCtl 7, Fd.cvsCtlClaimed, 1)] up) 7 Fd.cvsCtlClaimed = 1 ∧ (∀ i, storeLoading s 63 i = false) ∧ up.power.up = true := by
  refine ⟨by decide, by decide, by decide, by decide, by decide, by decide, by decide, by decide, by decide, by decide, by decide,
    by decide, fun i => ?_, rfl⟩
  have h : regF { tick (setF [(.qrcStat 63, Fd.qrcStatPwr, 1)] up) with scan := { holds := [17 * 63 + 15], count := [(63, 159)] } }
    (.qrcStat 63) Fd.qrcStatImg = 0 := by decide
  have hq : (getQuire { tick (setF [(.qrcStat 63, Fd.qrcStatPwr, 1)] up) with scan := { holds := [17 * 63 + 15], count := [(63, 159)] } }
    63).loadOn = false := by decide
  rw [storeLoading, releasing, h, hq]
  simp

/-- Engine 0 checks one block of the shared region of quire 0 against a table in region 3, in a mode. -/
def engS (mode len b : Nat) : State :=
  let s := setF [(.cvsCtl 0, Fd.cvsCtlClaimed, 1), (.cvsCtl 0, Fd.cvsCtlBusy, 1), (.cvsCtl 0, Fd.cvsCtlMode, mode),
    (.cvsStart 0, ⟨0, 32⟩, 0x2003300), (.cvsExp 0, ⟨0, 32⟩, 0x4020000), (.cvsLen 0, Fd.cvsLenBlocks, len)] (mem 0 1 (chans 2 up))
  { s with scan := { engine := [(0, { block := b, rgns := engRgns s 0 })] } }

theorem hyp_Scanners_block : (∀ m ∈ [0, 1], let s := engS m 2 1
      running s = false ∧ engBusy s 0 = true ∧ s.poison = [] ∧ s.upsets = [] ∧ memChans s ≤ 8 ∧ (∀ n, n < 8 → chanState s n = 2 ∧ (getChan s n).wrong = []) ∧
      getEngine s 0 = { block := 1, rgns := engRgns s 0 } ∧
      engStart s 0 + engBytes s 0 * 1 + engBytes s 0 ≤ gddrBase ∧ gddrBase ≤ engExp s 0 + 4 * 1 ∧
      engF s 0 Fd.cvsCtlMode = m) ∧ 1 + 1 = engLen (engS 0 2 1) 0 ∧ 0 + 1 < engLen (engS 0 2 0) 0 ∧ engOk (engS 0 2 0) 0 = true ∧ engOk up 0 = false := by
  decide +kernel

theorem hyp_BudgetsAndEvidence : let v : Word := Fd.bdgActGran.putN 0 203366
    let h (r : Nat) := setF [(.hstStat 3, Fd.hstStatRole, r)] up
    running up = false ∧ actWorld 47 = .prg ∧ actWorld 48 = .grd ∧
    regF up (.bdgSum 0) Fd.bdgSumSum + Fd.bdgActGran.get v - regF up (.bdgAct 0) Fd.bdgActGran ≤ regF up (.bdgShare 0) Fd.bdgShareShare ∧
    regF up (.bdgShare 0) Fd.bdgShareShare < regF up (.bdgSum 0) Fd.bdgSumSum + Fd.bdgActGran.get 203367 - regF up (.bdgAct 0) Fd.bdgActGran ∧
    actWorld (Fd.bdgTfolCAct.get (Fd.bdgTfolCAct.putN 0 47)) = indexWorld up 0 ∧ actWorld (Fd.bdgTfolCAct.get (Fd.bdgTfolCAct.putN 0 48)) ≠ indexWorld up 0 ∧
    hostWorld (h 2) 3 = some .grd ∧ hostWorld (h 1) 3 = some .prg ∧ actWorld (Fd.bdgGalAct.get (Fd.bdgGalAct.putN 0 48)) = .grd ∧
    actWorld (Fd.bdgGalAct.get 0) ≠ .grd ∧ up.evidence.held = [] ∧ 0 < (28 : Fin 32).val ∧ (28 : Fin 32).val ≤ 28 ∧ up.evidence.staged = [] ∧
    (let n : EvRec := ⟨1, 28, 0, 5, 6, 65535⟩
     let s := { up with evidence := { staged := [] ++ [n] } }
     s.evidence.staged = [] ++ [n] ∧ n.cls = 28 ∧ n.flags % 4 = World.prg.num ∧ s.evidence.staged ≠ []) := by decide

/-- A frame of tick 0 with no channel and one control event, with its check value. -/
def frame0 : List Byte :=
  [0, 0, 0, 0, 0, 0, 4, 1] ++ List.replicate 40 0 ++ [1, 2, 3, 4] ++ [0x20, 0x6B, 0x92, 0xDC]

/-- That frame in line blocks: its first byte in the start block, 8 to a data block, the last 3 in the terminate block. -/
def blocks0 : List LineBlock :=
  .start (frame0.take 1) :: (List.range 6).map (fun i => .data ((frame0.drop (1 + 8 * i)).take 8)) ++ [.term (frame0.drop 49)]

/-- A Maldex port in a state. -/
def mdxS (p st : Nat) (m : MdxPort) : State := { setF [(.mdxStat p, Fd.mdxStatState, st)] up with stage := { up.stage with mdx := [(p, m)] } }

theorem hyp_MaldexPorts : let los (v : Nat) := setF [(.mdxStat 31, Fd.mdxStatLos, v)]
    let u := tick (los 0 (mdxS 31 3 {}))
    regF (los 0 (mdxS 31 3 {})) (.mdxStat 31) Fd.mdxStatLos = 0 ∧ regF up (.mdxCfg 31) Fd.mdxCfgLoop = 0 ∧
    mdxState (mdxS 31 0 { live := true }) 31 = 0 ∧ (getMdx (mdxS 31 0 { live := true }) 31).live = true ∧ mdxState (mdxS 31 1 {}) 31 = 1 ∧
    regF (setF [(.kprClkStat, Fd.kprClkStatSdsMdx, 1)] (mdxS 31 1 {})) .kprClkStat Fd.kprClkStatSdsMdx = 1 ∧ mdxState (mdxS 31 2 {}) 31 = 2 ∧
    (∀ p, p < 28 → mdxPending up p = false) ∧ mdxPending (setF [(.mdxCfg 31, Fd.mdxCfgEn, 1)] up) 31 = true ∧
    mdxSignal (los 0 up) 31 = true ∧ running up = false ∧ running u = true ∧ mdxState u 31 = 3 ∧ blockStopped u (66 + 31) = false ∧
    u.tick.deadline = false ∧ 2 ≤ frame0.length ∧ leNat (frame0.take 2) = 0 ∧ (getMdx u 31).got = false ∧
    (getMdx u (identityOf u 31)).took = false ∧ ((ownedSlots u).map (·.1)).Nodup ∧
    (getMdx u (identityOf u 31)).evq.length < 64 ∧ leNat ([1, 0] : List Byte) ≠ 0 ∧ frameContent [0, 0] 0 = none ∧ up.power.up = true ∧
    blocks0.flatMap LineBlock.bytes = frame0 ∧ blocksGood blocks0 = true ∧ blocksGood (blocks0 ++ [.other]) = false := by decide

theorem hyp_MaldexPorts_frame : frameContent frame0 0 = some ⟨[], [], [1, 2, 3, 4]⟩ := by
  simp [frame0, frameContent, crc32, crc32Byte, List.range, List.range.loop, leNat, tickBytes, wordsOf, bitsOf]

theorem hyp_JacksAndTdm : let j (src pin : Nat) : Word := Fd.egrJackPin.putN (Fd.egrJackSrc.putN 0 src) pin
    let e (src : Nat) : State := { up with eff := up.eff.set (Creg.addr (.egrJack 7)) (j src 31) 0 }
    regEffF (e 1) (.egrJack 7) Fd.egrJackSrc ≠ 0 ∧ running up = false ∧ jackSource (j 0 0) ≠ jackSource (regEff (e 1) (.egrJack 7)) ∧
    Fd.egrJackSrc.get (j 0 0) = 0 ∧ jackSource (j 1 31) ≠ jackSource (regEff up (.egrJack 7)) ∧ Fd.egrJackSrc.get (j 1 31) = 1 ∧
    regF up (.pnlCfg 31) Fd.pnlCfgMode ≠ 6 ∧ regF (setF [(.pnlCfg 31, Fd.pnlCfgMode, 6)] up) (.pnlCfg 31) Fd.pnlCfgMode = 6 ∧
    jackOfPin (setF [(.pnlCfg 31, Fd.pnlCfgMode, 6)] up) 31 = none := by decide

theorem hyp_JacksAndTdm_frames : let t (d : Bool) := { tick (setF [(.tdmCfg 15, Fd.tdmCfgEn, 1), (.tdmStat 15, Fd.tdmStatClkok, 1)] up) with
      tick := { up.tick with deadline := d }, stage := { up.stage with tdm := [(15, { latch := some [1, 2] })] } }
    running (t false) = true ∧ tdmOn (t false) 15 = true ∧ tdmClocked (t false) 15 = true ∧ blockStopped (t false) (98 + 15) = false ∧
    (t false).tick.deadline = false ∧ (t true).tick.deadline = true ∧ ((ownedSlots (t false)).map (·.1)).Nodup ∧
    (getTdm (t false) 15).latch = some [1, 2] ∧ tdmMaster (t false) 15 = false := by decide

theorem hyp_Network : let en : Word := Fd.ethRxsCfgEn.putN 0 1
    let s := setF [(.tckSrc, Fd.tckSrcMediaValid, 1), (.tckCtl, Fd.tckCtlRate, 1), (.ethRxsMap 63, Fd.ethRxsMapOffset, 511)] up
    running s = false ∧ Fd.ethRxsCfgEn.get en = 1 ∧ streamRefusals up false 63 en ≠ 0 ∧ streamRefusals s false 63 en = 0 ∧
    (let r := tick (setF [(.tckSrc, Fd.tckSrcMediaValid, 1), (.ethCfg, Fd.ethCfgEn, 2), (.ethPortstat 1, Fd.ethPortstatLink, 1),
        (.ethRxsCfg 63, Fd.ethRxsCfgEn, 1), (.ethRxsCfg 63, Fd.ethRxsCfgPort, 1)] up)
     running r = true ∧ ethUp r 1 = true ∧ blockStopped r 114 = false ∧ matchStream r 1 0 0 96 = some 63 ∧ r.tick.deadline = false ∧ r.eth.now = [] ∧
     rxOf r 63 = [] ∧ (511 : Word).toNat ≤ 511 ∧ 511 < (512 : Word).toNat) ∧
    frameFits (54 + 1464) = true ∧ up.power.up = true ∧
    (let r := { tick (setF [(.tckSrc, Fd.tckSrcMediaValid, 1), (.ethTxsCfg 63, Fd.ethRxsCfgEn, 1)] up) with
        eth := { up.eth with tx := [(63, { ready := some (0, []) })] } }
     (getTxs r 63).ready = some ((0 : Word), []) ∧ streamOn r true 63 = true ∧ r.tick.cycle ≤ 4000 ∧ (∀ i, i < 63 → (getTxs r i).ready = none)) := by
  decide

theorem hyp_Network_control : let s := setF [(.ethCfg, Fd.ethCfgEn, 3), (.ethPortstat 0, Fd.ethPortstatLink, 1), (.ethPtpcfg, Fd.ethPtpcfgPort, 0)] up
    let bs : List Byte := List.replicate 6 0xFF ++ List.replicate 6 0 ++ [0x08, 0x06]
    ethUp s 0 = true ∧ blockStopped s 114 = false ∧ regF s .ethPtpcfg Fd.ethPtpcfgPort = 0 ∧ (250 : Word).toInt.natAbs ≤ 250 ∧
    1000 < (1001 : Word).toInt.natAbs ∧ etherType (List.replicate 12 0 ++ [0x88, 0x08]) = 0x8808 ∧ etherType bs ≠ 0x8808 ∧ frameTaken s 0 bs = false ∧
    beNat (bs.take 6) = 0xFFFFFFFFFFFF ∧ frameFits bs.length = true ∧ s.eth.bad < 3 ∧ (getEth s 0).crx.length < 32 ∧ running s = false ∧
    Fd.ethCtxSend.get (Fd.ethCtxSend.putN 0 1) = 1 ∧ (getEth s 0).ctx.length < 8 ∧
    8 ≤ (getEth { up with eth := { up.eth with port := [(0, { ctx := List.replicate 8 [] })] } } 0).ctx.length ∧
    (let t := setF [(.kprClkStat, Fd.kprClkStatSdsEth, 1), (.ethPortstat 0, Fd.ethPortstatMode, 1)] s
     regF t .kprClkStat Fd.kprClkStatSdsEth = 1 ∧ regF t (.ethPortstat 0) Fd.ethPortstatMode ≠ 0 ∧ regF t .ethCfg Fd.ethCfgEn / 2 ^ 0 % 2 = 1) := by decide

theorem hyp_PanelPins : let m (k n : Nat) := setF [(.pnlCfg k, Fd.pnlCfgMode, n)] up
    let pin (k n : Nat) (p : PanelPin) := { m k n with panel := { pin := [(k, p)] } }
    pinMode (m 31 4) 31 = 4 ∧ pinMode (m 31 6) 31 = 6 ∧ pinMode up 31 ≠ 4 ∧ pinMode up 31 ≠ 6 ∧
    8 * (regF (m 31 4) (.pnlCfg 31) Fd.pnlCfgDeb + 1) = 80 ∧ (getPin (pin 31 4 { run := 79 }) 31).run + 1 = 80 ∧
    (getPin (pin 31 4 { active := true, holding := true }) 31).active = true ∧ (getPin (pin 31 4 { active := true, holding := true }) 31).holding = true ∧
    (panelQueue up .prg).length < 32 ∧ pinMode (m 30 5) (2 * 15) = 5 ∧
    2 ^ regF (m 30 5) (.pnlTch 15) Fd.pnlTchHyst ≤ 4095 ∧ up.power.up = true ∧ pinDriven (m 31 4) 31 = none := by decide

theorem hyp_PanelPins_claims : let own (w : Nat) := setF [(.pnlCfg 31, Fd.pnlCfgClaimed, 1), (.pnlCfg 31, Fd.pnlCfgWorld, w)] up
    let md (n : Nat) : Word := Fd.pnlCfgMode.putN 0 n
    running up = false ∧ regF (own 1) (.pnlCfg 31) Fd.pnlCfgClaimed = 1 ∧ pinWorld (own 1) 31 ≠ .prg ∧ regF up (.pnlCfg 31) Fd.pnlCfgClaimed = 0 ∧
    Fd.pnlCfgMode.get (md 6) = 6 ∧ pinMode up 31 = 0 ∧ pinMode up 30 ≠ 5 ∧ Fd.pnlCfgMode.get (md 7) ≠ 0 ∧ Fd.pnlCfgMode.get (md 7) ≠ 5 ∧
    jackOfPin up 31 = none := by decide

theorem hyp_SerialPorts : let s (x : Uart) := { setF [(.serCfg 3, Fd.serCfgEn, 1), (.serFlow 3, Fd.serFlowTout, 1)] up with uart := [(3, x)] }
    let u (x : Uart) := getUart (s x) 3
    serClock (s {}) = true ∧ (s {}).power.up = true ∧ serClock (s { wake := true }) = true ∧ (u { wake := true }).wake = true ∧
    3200 ≤ regEffF (s { wake := true }) (.serBaud 3) Fd.serBaudDiv ∧ (u { broke := true }).broke = true ∧ (u {}).broke = false ∧ blockStopped (s {}) (120 + 3) = false ∧
    serBit (s {}) 3 Fd.serCfgEn = true ∧ regF (s {}) (.serStat 3) Fd.serStatHeld = 0 ∧ serBit (s {}) 3 Fd.serCfgRs485 = false ∧
    16 ≤ (u { rx := List.replicate 16 0 }).rx.length ∧ (u { rx := List.replicate 15 0 }).rx.length < 16 ∧ (u { shift := some [true] }).shift = some [true] ∧
    (u { shift := some [true], tx := [6] }).tx = 6 :: [] ∧ serBit (s {}) 3 Fd.serCfgBrk = false ∧ serBit (s {}) 3 Fd.serCfgFlow = false ∧ running (s {}) = false ∧
    16 ≤ (u { tx := List.replicate 16 0 }).tx.length ∧ (u { shift := some [true], tx := List.replicate 15 0 }).tx.length < 16 ∧ (u {}).shift = none ∧
    (u { idle := true, rx := [0] }).idle = true ∧ (u { idle := true, rx := [0] }).rx ≠ [] ∧ regF (s {}) (.serFlow 3) Fd.serFlowTout ≠ 0 ∧
    256 ≤ Fd.serBaudDiv.get 256 ∧ Fd.serBaudDiv.get 255 < 256 := by decide

/-! ### Hypotheses that are met: hosts, watchdogs, boot, the vitrine, flash, live service -/

/-- Port 0 is the lead host, with its gallery up and its window at region 3. -/
def hostS (s : State) : State := setF [(.hstStat 0, Fd.hstStatRole, 3), (.hstStat 0, Fd.hstStatDown, 0), (.hstStat 0, Fd.hstStatLink, 1),
  (.hstWin 0, Fd.hstWinPlaced, 1), (.hstWin 0, Fd.hstWinBase, 0x102)] (chans 2 (mem 0 1 s))

theorem hyp_HostPorts : let s := hostS up
    galleryUp s 0 = true ∧ isLead s 0 = true ∧ blockStopped s (115 + 0) = false ∧ s.trust.staging = 0 ∧ (∀ a, clean s a = true) ∧ hostOpen s 0 = true ∧ bootStage s = 0 ∧
    bootStage (setF [(.truBoot, Fd.truBootStage, 4)] s) = 4 ∧ bootStage (setF [(.truBoot, Fd.truBootStage, 1)] s) = 1 ∧
    bootStage (setF [(.truBoot, Fd.truBootStage, 2)] s) = 2 ∧ running s = false ∧ windowBase s 0 = some 0x408000000 ∧ memChans s ≤ 8 ∧
    (∀ c, c < 8 → chanState s c = 2 ∧ (getChan s c).wrong = []) ∧ (∀ p ∈ pieces 5 (0x408000000 + 512) 4, galleryAddr s 0 p.1 true = true) ∧
    (∀ p ∈ pieces 5 (0x408000000 + 508) 4, galleryAddr s 0 p.1 false = true) ∧ 508 + 4 ≤ 512 := by
  refine ⟨by decide, by decide, by decide, by decide, clean_all rfl rfl, ?_⟩; decide

theorem hyp_HostPorts_rings : let s (dir : Nat) (prod cons : Word) := setWord (setWord { hostS up with
      eff := [(Creg.addr (.hstRing 0 15), BitVec.ofNat 32 (1 + 2 * dir + 4 * 4))] } (0x408000000 + 32 * 15) prod) (0x408000000 + 32 * 15 + 4) cons
    let i (dir : Nat) (v : Word) := { s dir 8 0 with host := [(0, { idx := [(15, 1088, v)] })] }
    ringHeader (s 1 8 0) 0 15 = some (0x408000000 + 32 * 15) ∧ ringIn (s 1 8 0) 0 15 = true ∧ ringIn (s 0 8 0) 0 15 = false ∧
    ringN (s 1 8 0) 0 15 = 16 ∧ memWord (s 1 8 0) (0x408000000 + 32 * 15) = 8 ∧ memWord (s 1 8 0) (0x408000000 + 32 * 15 + 4) = 0 ∧
    ahead (8 : Word) 16 < 2 ^ 31 ∧ ahead (0 : Word) 8 + ahead (8 : Word) 16 ≤ 16 ∧ 16 < ahead (0 : Word) 8 + ahead (8 : Word) 17 ∧
    2 ^ 31 ≤ ahead (8 : Word) 7 ∧ ahead (0 : Word) 8 ≤ ahead (0 : Word) 8 ∧ ahead (0 : Word) 8 < ahead (0 : Word) 9 ∧
    (getHost (i 1 16) 0).idx.find? (fun x => x.1 == (15 : Fin 16).val) = some (15, 1088, 16) ∧ entryPending (i 1 16) 1088 0 15 = false ∧
    ahead (8 : Word) 8 = 0 ∧ 0 < ahead (8 : Word) 9 ∧ 2 ^ 31 < ahead (8 : Word) 7 ∧ ahead (8 : Word) 16 ≤ 2 ^ 31 ∧ ahead (0 : Word) 16 ≤ 16 ∧
    16 < ahead (0 : Word) 17 := by decide

theorem hyp_HostPorts_config : let s := hostS up
    let nt : Word := Fd.hstNoteVec.putN 0 15
    let h (p : HostPort) := { s with host := [(0, p)] }
    let w (b : Nat) : Word := Fd.hstWinBase.putN (Fd.hstWinPlaced.putN 0 1) b
    let r : Word := Fd.hstRingLogs.putN (Fd.hstRingLogn.putN (Fd.hstRingBase.putN 0 15360) 16) 0
    let on : HostPort := { msix := true, bme := true }
    hostWorld s 0 = some .prg ∧ s.power.up = true ∧ (getHost (h on) 0).msix = true ∧ (getHost (h on) 0).bme = true ∧ (getHost (h on) 0).d3 = false ∧
    Fd.hstNoteVec.get nt ∉ (getHost (h on) 0).mask ∧ Fd.hstNoteVec.get nt ∈ (getHost (h { on with mask := [15] }) 0).mask ∧ (getHost s 0).msix = false ∧
    (getHost (h { on with d3 := true }) 0).d3 = true ∧
    (hostWorld (setF [(.hstStat 0, Fd.hstStatDown, 1)] s) 0).isSome = true ∧ galleryUp (setF [(.hstStat 0, Fd.hstStatDown, 1)] s) 0 = false ∧
    regF (setF [(.kprClkStat, Fd.kprClkStatSdsHst, 1)] s) .kprClkStat Fd.kprClkStatSdsHst = 1 ∧
    Fd.hstStgOpen.get (Fd.hstStgOpen.putN 0 1) = 1 ∧ regF s (.memRgnAttr 3) Fd.memRgnAttrType = 1 ∧
    World.ofNum (regF s (.memRgnAttr 3) Fd.memRgnAttrWorld) = .prg ∧ (regionRange s 3).1 + 0x2000000 ≤ (regionRange s 3).2 ∧
    regF s (.memRgnAttr 4) Fd.memRgnAttrType ≠ 1 ∧ Fd.hstWinPlaced.get (w 0x11F) = 1 ∧
    rangeInWorld s 0 (2 ^ 26 * 0x120) (2 ^ 26 * 0x120 + 2 ^ 26) = false ∧ regF s (.hstRing 0 15) Fd.hstRingEn = 0 ∧ Fd.hstRingEn.get r = 0 ∧
    1 ≤ Fd.hstRingLogn.get r ∧ Fd.hstRingLogn.get r ≤ 16 ∧ Fd.hstRingLogs.get r ≤ 6 ∧ Fd.hstRingNmode.get r ≤ 1 ∧
    4096 * Fd.hstRingBase.get r + 2 ^ (Fd.hstRingLogn.get r + Fd.hstRingLogs.get r + 6) ≤ 2 ^ 26 := by decide

set_option maxRecDepth 1000000 in
theorem hyp_HostPorts_window : rangeInWorld (hostS up) 0 (2 ^ 26 * 0x11F) (2 ^ 26 * 0x11F + 2 ^ 26) = true := by decide +kernel

/-- Watchdog 2 counts, with its window from 100 to 200 and two required bits, and a state of its DONE bits. -/
def wdgS (done : Nat) : State := { setF [(.kprWdgCtl 2, Fd.kprWdgCtlState, 1), (.kprWdgStat 2, Fd.kprWdgStatDone, done), (.kprWdgOpen 2, ⟨0, 32⟩, 150)] up with
  watch := [(2, { openNow := 100, closeNow := 200, reqNow := 3 })] }

theorem hyp_Watchdogs : let p := getWatch (wdgS 1) 2
    running (wdgS 1) = false ∧ owns .kpr (regOwner (wdgS 1) (.kprWdgChk 2)) = true ∧ owns (.cur .prg) (regOwner up (.kprWdgChk 0)) = true ∧
    wdgState (wdgS 1) 2 = 1 ∧ p.closeNow.toNat < (201 : Word).toNat ∧ (200 : Word).toNat ≤ p.closeNow.toNat ∧ (99 : Word).toNat < p.openNow.toNat ∧
    p.openNow.toNat ≤ (100 : Word).toNat ∧
    (bitsIn ((2 : Word).toNat % 65536)).filter (fun k => p.reqNow.getLsbD k && 1 / 2 ^ k % 2 == 0) ≠ [] ∧
    (∀ k ∈ bitsIn (p.reqNow.toNat % 65536), 1 / 2 ^ k % 2 = 1 ∨ k ∈ [1]) ∧ ¬(∀ k ∈ bitsIn (p.reqNow.toNat % 65536), 0 / 2 ^ k % 2 = 1 ∨ k ∈ [1]) ∧
    wdgState (setF [(.kprWdgCtl 0, Fd.kprWdgCtlState, 2)] up) 0 = 2 ∧ up.power.off = false ∧ up.power.inReset = false ∧
    (getWatch { up with watch := [(1, { key := 2 })] } 1).key = 2 ∧ (getWatch up 1).key ≠ 2 ∧
    regF (setF [(.kprWdgCtl 1, Fd.kprWdgCtlLock, 1)] up) (.kprWdgCtl 1) Fd.kprWdgCtlLock = 1 ∧ regF up (.kprWdgCtl 1) Fd.kprWdgCtlLock ≠ 1 ∧
    wdgState up 1 ≠ 2 ∧ regF (setF [(.kprWdgCtl 1, Fd.kprWdgCtlEn, 0)] up) (.kprWdgCtl 1) Fd.kprWdgCtlEn = 0 := by decide

theorem hyp_WatchdogConfiguration : let c := reg (wdgS 0) (.kprWdgClose 2)
    owns .kpr (regOwner (wdgS 0) (.kprWdgClose 2)) = true ∧ c.toNat < (c + 1).toNat ∧ c ≠ 0 ∧
    (149 : Word).toNat < (reg (wdgS 0) (.kprWdgOpen 2)).toNat ∧ (reg (wdgS 0) (.kprWdgOpen 2)).toNat ≤ (150 : Word).toNat ∧
    (0x10000 : Word).toNat % 65536 = 0 ∧ (1 : Word).toNat % 65536 ≠ 0 ∧ (reg (wdgS 0) (.kprWdgOpen 2)).toNat ≤ c.toNat ∧
    (∀ k, k < 16 → (getWatch (wdgS 1) 2).reqNow.getLsbD k = true →
      regF (wdgS 1) (.kprWdgStat 2) Fd.kprWdgStatDone / 2 ^ k % 2 = 1 ∨ (2 : Word).getLsbD k = true) := by decide

/-- A bundle of three sections of 4 bytes at an address: keeper, programme curator, guard curator. -/
def bundleAt (b : Nat) (s : State) : State :=
  [(0, 0x424C4E5A), (4, 0x00030001), (8, 8272), (12, 0xE0), (0x40, 1), (0x44, 0x80), (0x48, 4), (0x50, 2), (0x54, 0xA0), (0x58, 4), (0x60, 3), (0x64, 0xC0),
    (0x68, 4), (0xE0, 0x4F434E5A), (0xE4, 3)].foldl (fun t e => setWord t (b + e.1) (BitVec.ofNat 32 e.2)) s

theorem hyp_BootAndFuses : let st (n src : Nat) := setF [(.truBoot, Fd.truBootStage, n), (.truBoot, Fd.truBootSource, src)] (hostS up)
    let v := bundleAt (archBase 0) { st 1 0 with trust := { up.trust with total := 8272 } }
    { up with trust := { up.trust with staging := 2 } }.trust.staging = 2 ∧ up.power.up = true ∧ bootStage up = 0 ∧
    regF (setF [(.qrcStat 7, Fd.qrcStatPwr, 1)] up) (.qrcStat 7) Fd.qrcStatPwr = 1 ∧ hostOpen (hostS up) 0 = true ∧ withheld (hostS up) 0 = false ∧ (hostS up).trust.staging = 0 ∧ blockStopped (hostS up) (115 + 0) = false ∧
    isLead (setF [(.hstStat 1, Fd.hstStatRole, 1), (.hstStat 1, Fd.hstStatDown, 0)] up) 1 = false ∧ isLead (hostS up) 0 = true ∧
    29360128 < (29360129 : Word).toNat ∧ (29360128 : Word).toNat ≤ 29360128 ∧ bootStage (st 1 0) = 1 ∧
    wellFormed (st 1 1) (archBase 0) (st 1 1).trust.total = false ∧ regF (st 1 1) .truBoot Fd.truBootSource = 1 ∧ leadPort (st 1 0) = some 0 ∧
    bootStage v = 1 ∧ regF v .truBoot Fd.truBootSource = 0 ∧ wellFormed v (archBase 0) v.trust.total = true ∧ bootStage (st 2 0) = 2 ∧ training (st 2 0) = false ∧
    sections (st 2 0) gddrBase = [] ∧ regF (setF [(.truBoot, Fd.truBootFastwake, 1)] (st 2 0)) .truBoot Fd.truBootFastwake = 1 ∧
    regF up .truFusectl Fd.truFusectlBusy = 0 ∧ (fuse up 0x100).getLsbD 7 = false ∧
    (fuse { up with trust := { up.trust with fuses := [(0x100, 0x80)] } } 0x100).getLsbD 7 = true ∧
    regF (setF [(.truFusectl, Fd.truFusectlBusy, 1)] up) .truFusectl Fd.truFusectlBusy = 1 := by decide

/-- The vitrine is open, with source and destination of the programme world in region 3 and a length of 1. -/
def vitS (h : SMap Handle) : State := { setF [(.truSrc 0, ⟨0, 32⟩, 0x4020000), (.truDst 0, ⟨0, 32⟩, 0x4021000), (.truLen 0, Fd.truLenLen, 1),
    (.truAcc 1, ⟨0, 32⟩, 9), (.truArg 0, ⟨0, 32⟩, 9)] (mem 0 1 up) with trust := { up.trust with vitrine := true, handles := h, ident := true } }

theorem hyp_Vitrine : let s := vitS [(0, { used := true })]
    let blob := [(0, 0x4C534E5A), (4, 0), (8, 0), (0x18, 1)].foldl (fun t (e : Nat × Nat) => setWord t (truSrc s .prg + e.1) (BitVec.ofNat 32 e.2)) s
    running s = false ∧ up.trust.vitrine = false ∧ s.trust.vitrine = true ∧ (reg s (.truAcc 1)).toNat < (10 : Word).toNat ∧
    (reg s (.truArg 0)).toNat ≤ (reg s (.truAcc 1)).toNat ∧ (getHandle s .prg 0).used = true ∧ (getHandle s .prg 1).used = false ∧
    (getHandle s .prg 1).gen < 1024 ∧
    (∀ e, e < 64 → (getHandle (vitS ((List.range 64).map (fun i => (i, { used := true })))) .prg e).used = true) ∧ handleOf (vitS []) .prg = none ∧
    handleOf s .prg = some (0, { used := true }) ∧ 0 < regF s (.truLen 0) Fd.truLenLen ∧ regF s (.truLen 0) Fd.truLenLen ≤ 16777216 ∧
    dataRange s .prg (truSrc s .prg) 1 = true ∧ dataRange s .prg (truDst s .prg) (1 + 0x30) = true ∧ dataRange s .prg (truSrc s .prg) 32 = true ∧
    s.trust.ident = true ∧ memNat blob (truSrc s .prg) 4 = 0x4C534E5A ∧ memNat blob (truSrc s .prg + 5) 1 = World.prg.num ∧
    memNat blob (truSrc s .prg + 6) 1 = 0 ∧ memWord blob (truSrc s .prg + 8) = 0 ∧ memNat blob (truSrc s .prg + 0x18) 4 = 1 ∧
    dataRange blob .prg (truSrc s .prg) (1 + 0x30) = true := by decide

set_option maxRecDepth 1000000 in
theorem hyp_Vitrine_quote : dataRange (vitS []) .prg (truDst (vitS []) .prg) 17248 = true := by decide +kernel

/-- Channel 1 names block `b`, its source is region 3, and the claim of the inactive slot is held by channel `cl`. -/
def flsS (off cl : Nat) (f : Flash) : State :=
  let slot (s : State) : State := { s with eff := s.eff.set (Creg.addr (.flsAddr 1)) (Fd.flsAddrSlot.putN 0 2) 0 }
  { slot (setF [(.flsAddr 1, Fd.flsAddrOffset, off), (.flsSrc 1, ⟨0, 32⟩, 0x4020000), (.flsStat, Fd.flsStatActive, 1), (.flsStat, Fd.flsStatClaimch, cl)]
    (mem 0 1 up)) with flash := f }

theorem hyp_FlashCommands : let s (off cl : Nat) := flsS off cl {}
    running (s 0 0) = false ∧ owns (.cur .prg) (regOwner (s 0 0) (.flsCmd 1)) = true ∧ regF (s 0 0) (.flsCmd 1) Fd.flsCmdBusy = 0 ∧
    regEffF (s 0 0) (.flsAddr 1) Fd.flsAddrSlot = inactiveSlot (s 0 0) ∧ regEffF up (.flsAddr 1) Fd.flsAddrSlot ≠ inactiveSlot up ∧
    claimCh (s 0 0) = 0 ∧ claimCh (s 0 1) = 1 ∧ claimCh (s 0 2) ≠ 0 ∧ claimCh (s 0 2) ≠ 1 ∧ flashRights (s 0x40000 0) 1 1 false ≠ 0 ∧
    flashRights (s 0x2000000 1) 1 128 false = 0 ∧ flashRights (s 0x3BC0000 1) 1 239 true = 0 ∧
    sourceOk up 1 (256 * 0x4020000) 4096 = false ∧ (s 0 1).flash.jobs = [] ∧ (s 0 1).flash.undef = [] ∧
    (s 0 1).flash.prog.contains 0 = false ∧ (flsS 0 1 { prog := [0] }).flash.prog.contains 0 = true ∧
    wellFormed (s 0 1) (slotBaseAddr 2) bundleMax = false ∧ sourceOk (s 0 1) 2 (256 * 0x4020000) 64 = false := by decide

theorem hyp_FlashCommands_source : sourceOk (flsS 0 1 {}) 1 (256 * 0x4020000) 4096 = true ∧ (flsS 0 1 { key := 2 }).flash.key = 2 ∧
    up.flash.key ≠ 2 ∧ protLevel up ≠ 2 ∧
    protLevel (setF [(.flsStat, Fd.flsStatLevel, 2)] (flsS 0 1 { key := 2 })) = 2 := by decide

theorem hyp_FlashOperations : let j (o : FlashPrim) : FlashJob := { ch := 2, reg := true, ops := [o], left := 1, started := true, act := 2 }
    let s (o : FlashPrim) := { up with flash := { up.flash with jobs := [j o] } }
    ∀ o ∈ [FlashPrim.erase 255, .blank 0x3FFF000, .program 0x3FFF000 [1]], (s o).flash.jobs = [j o] ∧ (j o).started = true ∧ jobBank (j o) = 1 ∧
      (j o).ops = [o] ∧ (j o).reg = true ∧ (j o).left = 1 ∧ (j o).ch < 3 := by decide

theorem hyp_LiveService : let s (ph : Nat) := { setF [(.truLive 0, Fd.truLivePhase, ph)] up with live := { up.live with world := some .prg, rgns := [3] } }
    let whole := setF ((List.range 56).map (fun q => (Creg.qrcStat q, Fd.qrcStatRsvRun, 0)) ++ [(.truLive 0, Fd.truLiveCurdone, 1)]) (s 3)
    running up = false ∧ liveSource up 0 = none ∧ liveSource up 2 = some (2, slotBaseAddr 2) ∧ up.live.world = none ∧ up.live.offer = none ∧
    (s 2).live.world ≠ none ∧ liveOpen up .prg = false ∧ liveOpen (s 2) .prg = true ∧ liveOpen (s 3) .prg = true ∧ quireWorld (s 2) 63 ≠ .prg ∧
    quireWorld (s 2) 0 = .prg ∧ (reserveOf (s 2) 0).isSome = true ∧ regF (s 2) (.qrcStat 0) Fd.qrcStatLoading = 0 ∧
    regF (s 2) (.qrcStat 0) Fd.qrcStatRsvRun = 0 ∧ regF (s 2) (.qrcHovr 0) Fd.qrcHovrArmed = 0 ∧
    regF (setF [(.qrcStat 0, Fd.qrcStatRsvRun, 1)] (s 2)) (.qrcStat 0) Fd.qrcStatRsvRun = 1 ∧ regF whole (.truLive 0) Fd.truLiveCurdone = 1 ∧
    regF (s 3) (.truLive 0) Fd.truLiveCurdone ≠ 1 ∧ livePhase (s 2) .prg = 2 ∧ livePhase (s 3) .prg ≠ 2 ∧ (∀ r ∈ (s 2).live.rgns, r < 64) := by decide

theorem hyp_LiveService_whole : let s := { setF [(.truLive 0, Fd.truLivePhase, 3), (.truLive 0, Fd.truLiveCurdone, 1)] up with
      live := { up.live with world := some .prg } }
    liveOpen s .prg = true ∧ regF s (.truLive 0) Fd.truLiveCurdone = 1 ∧
    liveQuires s .prg = (List.range 64).filter (fun q => quireWorld s q == .prg) := by decide

/-! ### Hypotheses that are met: clocks, resets, power, the debug port, and the headline statements -/

theorem hyp_ClockSources : let s (l : List (Creg × Fld × Nat)) := setF l up
    let ready := [(Creg.kprClkStat, Fd.kprClkStatRefclkRdy, 1), (.kprClkStat, Fd.kprClkStatKrcRdy, 1), (.kprClkStat, Fd.kprClkStatKxtRdy, 1),
      (.kprClkStat, Fd.kprClkStatCpllLock, 1), (.kprClkStat, Fd.kprClkStatApll0Lock, 1), (.kprClkStat, Fd.kprClkStatSdsMdx, 1),
      (.kprClkStat, Fd.kprClkStatSdsEth, 1), (.kprClkStat, Fd.kprClkStatSdsHst, 1)]
    sourceMay State.reset .cpll = false ∧ sourceMay (s ready) .gpll = true ∧ sourceMay (s ready) .cpll = true ∧ (s ready).power.up = true ∧
    { s ready with power := { (s ready).power with up := false } }.power.good.length = 7 ∧ clkBit (s ready) Fd.kprClkStatRefclkRdy = true ∧
    (s ready).power.off = false ∧ (s ready).power.inReset = false ∧ (s ready).power.sleep ≠ 2 ∧ clkBit (s ready) Fd.kprClkStatKxtRdy = true ∧
    (let w := setF [(.kprWdgCtl 2, Fd.kprWdgCtlClk, 1)] (s ready)
     regF w (.kprWdgCtl 2) Fd.kprWdgCtlClk = 1 ∧ wdgState w 2 = 1) ∧ clkBit up Fd.kprClkStatCpllLock = false ∧
    clkBit (s ready) Fd.kprClkStatCpllLock = true ∧ clkBit (s ready) (apllLock 0) = true ∧ ratePll (setF [(.tckCtl, Fd.tckCtlRate, 1)] up) = 0 ∧
    tdmMaster (s [(.tdmCfg 15, Fd.tdmCfgMaster, 1)]) 15 = true ∧ clkBit up (apllLock 1) = false ∧ clkBit (s ready) Fd.kprClkStatSdsHst = true ∧
    running up = false ∧ owns (.cur .prg) (.world .prg) = true ∧ clkBit up Fd.kprClkStatRefclkRdy = false ∧
    Fd.kprClkSelRefsel.get 0 ≠ regF (s ((.kprClkStat, Fd.kprClkStatRefActive, 1) :: ready)) .kprClkStat Fd.kprClkStatRefActive ∧
    clkBit (s [(.kprClkStat, Fd.kprClkStatSwitching, 1)]) Fd.kprClkStatSwitching = true ∧ up.power.switchTo < 2 := by decide

theorem hyp_DeviceResets : let r (d : Option Nat) := { up with power := { up.power with inReset := true, drive := d } }
    up.power.off = false ∧ up.power.inReset = false ∧ 499 < 500 ∧ 2000 ≤ 2000 ∧ (r (some 5)).power.inReset = true ∧ (r (some 5)).power.drive = some 5 ∧
    regF (setF [(.kprClkStat, Fd.kprClkStatKrcRdy, 0)] (r (some 5))) .kprClkStat Fd.kprClkStatKrcRdy = 0 ∧ (r (some 7)).power.drive ≠ some 5 ∧
    regF (setF [(.kprClkStat, Fd.kprClkStatKrcRdy, 1)] (r (some 5))) .kprClkStat Fd.kprClkStatKrcRdy = 1 ∧ up.power.key = false ∧
    { up with power := { up.power with key := true } }.power.key = true := by decide

theorem hyp_BlockResets : let pend (b : Nat) := setF [(.kprRstReq (b / 32), ⟨b % 32, 1⟩, 1), (.kprRstPend (b / 32), ⟨b % 32, 1⟩, 1)] up
    running up = false ∧ 28 < 32 ∧ 32 * 3 + 28 < 125 ∧ owns .kpr (blockOwn up 124) = true ∧ bitOf up .kprRstReq 124 = false ∧ blockRefused up 124 = false ∧
    owns (.cur .prg) (blockOwn up 2) = true ∧ blockRefused (setF [(.qrcStat 0, Fd.qrcStatRun, 1)] up) 2 = true ∧
    bitOf (setF [(.kprRstReq 3, ⟨28, 1⟩, 1)] up) .kprRstReq 124 = true ∧ bitOf up .kprRstPend 124 = false ∧
    bitOf (pend 124) .kprRstPend 124 = true ∧ bitOf (pend 0) .kprRstPend 0 = true := by decide

theorem hyp_RailsAndSleep : let r (g : NSet) (n : Nat) := { State.reset with power := { State.reset.power with en := [6], good := g, tries := n } }
    let cp := setF [(.kprClkStat, Fd.kprClkStatCpllLock, 1)] (r [0, 1, 2, 3, 4, 5] 0)
    (r [] 0).power.en.contains 6 = true ∧ (r [] 0).power.good.contains 6 = false ∧ (r [] 0).power.tries = 0 ∧ (r [] 1).power.tries ≠ 0 ∧
    (!cp.power.up && (NSet.add cp.power.good 6).length == 7 && clkBit cp Fd.kprClkStatCpllLock) = true ∧ up.power.good.contains 6 = true ∧
    (Fd.kprPwrReqSleepPrg.get (Fd.kprPwrReqSleepPrg.putN 0 1) == 1) = true ∧ running (tick up) = true ∧ running up = false ∧ sleepDue up = false ∧
    sleepDue (setF [(.kprPwrReq, Fd.kprPwrReqSleepPrg, 1), (.kprPwrReq, Fd.kprPwrReqSleepGrd, 1)] up) = true := by decide

theorem hyp_RailsAndSleep_wake : let s (n : Nat) (w : Bool) := { setF [(.serCfg 3, Fd.serCfgEn, 1), (.serCfg 3, Fd.serCfgWake, 1), (.kprPwrWake, ⟨3, 1⟩, 1),
      (.kprPwrWake, Fd.kprPwrWakeTmr, 1)] up with power := { up.power with sleep := n, wake := w } }
    (s 1 false).power.sleep ≠ 0 ∧ (s 1 false).power.wake = false ∧ (s 1 false).power.dead = false ∧ serBit (s 1 false) 3 Fd.serCfgEn = true ∧
    serBit (s 1 false) 3 Fd.serCfgWake = true ∧ regF (s 1 false) (.serStat 3) Fd.serStatHeld = 0 ∧ ctsEnabled (s 1 false) 3 = true ∧
    ctsEnabled up 3 = false ∧ timerEnabled (s 1 false) = true ∧ timerEnabled up = false ∧ up.power.sleep = 0 ∧ (s 2 true).power.sleep = 2 ∧
    (s 2 true).power.wake = true ∧ (s 1 true).power.sleep ≠ 2 := by decide

theorem hyp_HeatAndGating : let l (v : BitVec 12) : List (BitVec 12) := v :: List.replicate 15 0
    let s := tick (setF [(.qrcStat 63, Fd.qrcStatPwr, 1)] (setQuire up 63 { idle := 1000 }))
    (l 460).length = 16 ∧ up.power.good.contains 1 = true ∧ (l 460).any (fun v => decide (460 ≤ tempOf v.toNat)) = true ∧
    (l 459).any (fun v => decide (460 ≤ tempOf v.toNat)) = false ∧ running s = true ∧ regF s (.qrcStat 63) Fd.qrcStatPwr = 1 ∧
    1000 ≤ (getQuire s 63).idle ∧ quireIdle s 63 = true ∧ up.power.up = true ∧ regF up (.qrcStat 63) Fd.qrcStatPwr = 0 ∧ quireGated up 63 = false ∧
    up.spine.retired.contains (2 * 63 + 1) = false := by decide

theorem hyp_DebugAndRegisters : let lv (n : Nat) := setF [(.kprStrapCond, Fd.kprStrapCondDbgEff, n)] up
    tapCore (lv 2) cur0 = false ∧ tapCore (lv 1) (.curator .grd) = false ∧ tapCore (lv 1) cur0 = true ∧ tapCore (lv 0) .keeper = true ∧
    (lv 0).trust.tapStep.contains (coreKey .keeper) = false ∧ (0x0EFFFFFFFC : BitVec 40).toNat < 0x0F00000000 ∧ debugLevel (lv 0) = 0 ∧
    debugLevel (lv 2) = 2 ∧ running up = false ∧ ctlWrite (.cur .prg) 0x0F7FFFFFFC 0 up = none ∧ (getCore (at_ cur0 []) cur0).on = true ∧
    (getCore (at_ cur0 []) cur0).halted = false ∧ (getCore (at_ cur0 []) cur0).entry = none ∧ (getCore up cur0).on = false ∧
    (lv 0).trust.tapStep.contains (coreKey cur0) = false ∧ ctlWrite .kpr 0x0F7FFFFFFC 0 up = none := by decide

theorem hyp_LimdonStepKeepsSafe : let s := { at_ tile0 [.val 1, .val 2] with pending := [.add tile0] }
    s.pending = .add tile0 :: [] ∧ limdonBeside (.add tile0) ≠ none ∧ Instr.add tile0 ≠ .stf tile0 ∧ Memory.wf s.mem = true ∧ queueWf s = true := by
  decide

theorem test_step : step { at_ tile0 [.val 1, .val 2] with pending := [.add tile0, .finalEdge] } =
    .next (after (.add tile0) { at_ tile0 [.val 1, .val 2] with pending := [.finalEdge] }) := by rfl

theorem hyp_LimdonCodec : (Instr.st cur0 0x3FF [322]).wf = true ∧ limdonEncode (.st cur0 0x3FF [322]) = some 0xE7FF ∧
    limdonBeside (.st cur0 0x3FF [322]) = some ⟨cur0, [322], 0⟩ ∧ 0xFFFF < 65536 := by decide

/-! ### Hypotheses that are met: a writer reaches its registers, and what the commands of memory and flash read is sound -/

/-- The keeper core runs in `up`, and a curator's or the keeper's writes reach every kind of register; so they do in a running tick. -/
theorem hyp_reaches : (∀ w ∈ [World.prg, .grd], ∀ r ∈ [Creg.tckCtl, .tckSrc, .spnSlotcfg 7, .qrcSubLo 0 4095, .qrcSubHi 0 4095, .spnLink 0,
      .qrcRel 0, .qrcHovr 0, .qrcPos 0 2, .curMsg w.num, .memRgnAttr 63, .memPclr w.num, .memCh 7, .cvsCtl 7, .bdgAct 47, .bdgTfolC 0,
      .bdgGal 3, .curFlush w.num, .egrJack 7, .ethRxsCfg 63, .ethTxsCfg 63, .ethCrx 0, .ethCtx 0, .pnlCfg 31, .serData 3, .serBaud 3,
      .hstNote 0, .hstStg 0, .hstWin 0, .hstRing 0 15, .kprWdgChk w.num, .kprWdgKey w.num, .kprWdgCtl w.num, .kprWdgClose w.num,
      .truCmd w.num, .flsCmd 1, .truLive w.num, .kprClkSel, .kprRstReq 3, .kprPwrReq, .truArg w.num],
      reaches up (.cur w) r.addr = true) ∧
    (∀ w ∈ [World.prg, .grd], ∀ r ∈ [Creg.spnSlotcfg 7, .qrcSubLo 0 4095, .memRgnAttr 63, .bdgAct 47, .bdgTfolC 0, .bdgGal 3, .serBaud 3],
      reaches (tick up) (.cur w) r.addr = true) ∧
    (∀ r ∈ [Creg.truFusectl, .kprRstAssert, .kprPwrReq, .kprClkSel, .kprRstReq 3, .kprWdgChk 2, .flsCmd 0], reaches up .kpr r.addr = true) := by
  decide

/-- The registers of the states below are reached too. -/
theorem hyp_reaches_states : reaches (setF [(.qrcPos 0 2, Fd.qrcPosRole, 17)] up) (.cur .prg) (Creg.addr (.qrcPos 0 2)) = true ∧
    reaches (mem 0 1 up) (.cur .prg) (Creg.addr (.memRgnAttr 3)) = true ∧ reaches (chans 3 up) (.cur .prg) (Creg.addr (.memCh 7)) = true ∧
    reaches (hostS up) (.cur .prg) (Creg.addr (.hstStg 0)) = true ∧ reaches (wdgS 1) .kpr (Creg.addr (.kprWdgChk 2)) = true ∧
    reaches (vitS []) (.cur .prg) (Creg.addr (.truCmd 0)) = true ∧ reaches (flsS 0 1 {}) (.cur .prg) (Creg.addr (.flsCmd 1)) = true ∧
    reaches (msgS 1 0) (.cur .prg) (Creg.addr (.spnLink 0)) = true := by decide

theorem hyp_ExceptionFrame_tile : let s (x : TxState) := withCore tile0 { sup [.val 1] with tx := { st := x } } (tick up)
    (getCore (trapS []) cur0).paired = false ∧ (getCore (trapS []) cur0).stale = [] ∧ stackValid tile0 (getCore (s .open_) tile0) true = false ∧
    ∀ x ∈ [TxState.open_, .aborting, .stitched], running (s x) = true ∧ (s x).tick.frozen = false ∧ (getCore (s x) tile0).tx.st = x ∧
      (getCore (s x) tile0).entry = none ∧ (getCore (s x) tile0).paired = false ∧ (getCore (s x) tile0).stale = [] ∧
      (getCore (s x) tile0).sup.cells.any isPend = false := by decide

/-- CMEN of IRQ is writable in a tile and stays 0 in a curator (R6, R242). -/
theorem hyp_CoreRegisters_irq : (Ccr.fields .irq).any (fun d => d.fld == Fd.cIrqCmen) = true ∧ ccrValue tile0 .vbar 0xFFFFFFFF = 0xFFFFFFFF ∧
    Fd.cIrqCmen.get (ccrValue cur0 .irq 0xFFFFFFFF) = 0 ∧ Fd.cIrqCmen.get (ccrValue tile0 .irq 0xFFFFFFFF) = 1 := by decide

/-- A claim that the owner's copy takes, in and out of a running tick; a link that has failed 16 checks; a packet that waits. -/
theorem hyp_SpineState_accepted : let c := slotW 2 (5 + 64 * 255)
    let far (g : List Nat) := withCore tile0 { sup [] with loads := [⟨4, .far 0x200330000 0⟩], tx := { st := .open_, wtq := g } } (msgS 1 0)
    running (tick up) = true ∧ indexWorld up (ownerTile (slotW 1 0)) = .prg ∧ portBad (ownerPort c) (ownerChan c) = false ∧
    oddMember up (ownerPort c) = false ∧ channelTaken up 7 (ownerPort c) (ownerChan c) = false ∧
    16 ≤ { msgS 1 1 with spine := { (msgS 1 1).spine with fails := [(0, 16)] } }.spine.fails.get 0 0 ∧ (msgS 1 1).spine.fails.get 0 0 < 16 ∧
    Fd.spnLinkL0Reen.get (Fd.spnLinkL0Reen.putN 0 1) = 1 ∧ (1 : BitVec 2).getLsbD 0 = true ∧ portWaits (far []) 0 2 = false ∧
    portWaits (far [3]) 0 2 = true ∧ packetFlips [5] ≠ none ∧ (getCore (far []) tile0).entry = none := by decide

theorem hyp_QuireLoads_sound : let s := setF [(.qrcRel 0, Fd.qrcRelRel, 0x8000), (.qrcStat 0, Fd.qrcStatImg, 1), (.qrcStat 0, Fd.qrcStatPwr, 1)] up
    (∀ a, clean s a = true) ∧ (∀ a, clean (setQuire up 0 { load := some (.takeover 16 3), loadOn := true }) a = true) ∧ takingOver s 0 15 = false :=
  ⟨clean_all rfl rfl, clean_all rfl rfl, by decide⟩

theorem hyp_QuireCommands_armed : let s := setQuire up 0 { verified := [16] }
    blockStopped up 2 = false ∧ (∀ a b, (getQuire s 0).load ≠ some (.takeover a b)) ∧ failedNow up 0 = false ∧
    failedNow (setQuire up 0 { fresh := [3] }) 0 = true ∧ reaches s (.cur .prg) (Creg.addr (.qrcHovr 0)) = true :=
  ⟨by decide, fun _ _ => by rw [show (getQuire (setQuire up 0 { verified := [16] }) 0).load = none by decide]; simp, by decide, by decide, by decide⟩

theorem hyp_Scanners_free : blockStopped up 124 = false ∧ (engS 0 2 1).budget.held.any (heldEngine 0) = false ∧
    actWorld (Fd.cvsCtlAct.get (Fd.cvsCtlAct.putN 0 48)) ≠ .prg ∧ actWorld (Fd.cvsCtlAct.get 0) = .prg := by decide

theorem hyp_BudgetsAndEvidence_flush : let n : EvRec := ⟨1, 28, 0, 5, 6, 65535⟩
    let s := { up with evidence := { staged := [n] } }
    s.flash.lower = 0 ∧ s.evidence.held = [] ∧ s.evidence.staged ≠ [] := by decide

/-- Stage 3: port 0 has opened region 3 for staging. -/
def stageS : State := setF [(.truBoot, Fd.truBootStage, 3), (.hstStg 0, Fd.hstStgOpen, 1), (.hstStg 0, Fd.hstStgRgn, 3)] (hostS up)

theorem hyp_HostPorts_staging : let r := { hostS up with quires := [(7, { raised := true })] }
    let one := setF [(.truBoot, Fd.truBootStage, 1)] r
    (getQuire r 7).raised = true ∧ (getQuire (hostS up) 7).raised = false ∧ bootStage (hostS up) ≠ 3 ∧ hostOpen one 0 = true ∧
    (bootStage one = 1 ∨ bootStage one = 2) ∧ regF one .truBoot Fd.truBootSource = 0 ∧ regF one .truBoot Fd.truBootFastwake = 0 ∧
    bootStage stageS = 3 ∧ hostOpen stageS 0 = true ∧ isLead stageS 0 = true ∧ stagingRange stageS 0 = some (regionRange stageS 3) ∧
    (regionRange stageS 3).1 + 8 + 4 ≤ (regionRange stageS 3).2 ∧ stageS.live.world = none ∧ running stageS = false ∧
    (∀ p ∈ pieces 5 ((regionRange stageS 3).1 + 8) 4, galleryAddr stageS 0 p.1 true = true) := by decide

theorem hyp_HostPorts_sound : sound (hostS up) ∧ sound stageS :=
  ⟨⟨clean_all rfl rfl, by decide, by decide⟩, ⟨clean_all rfl rfl, by decide, by decide⟩⟩

theorem hyp_BootAndFuses_raised : let s := { up with quires := [(7, { raised := true })], trust := { up.trust with staging := 2 } }
    let h := { hostS up with quires := [(7, { raised := true })] }
    (getQuire s 7).raised = true ∧ s.flash.undef = [] ∧ s.power.up = true ∧ bootStage s = 0 ∧ (getQuire h 7).raised = true ∧
    hostOpen h 0 = true ∧ withheld h 0 = false ∧ isLead h 0 = true ∧ h.live.offer = none ∧ h.trust.staging = 0 ∧ (29360128 : Word) ≠ 0 := by decide

theorem hyp_Vitrine_sound : let s := chans 2 (vitS [(0, { used := true })])
    let n := regF s (.truLen 0) Fd.truLenLen
    sound s ∧ (∀ y, truSrc s .prg ≤ y → y < truSrc s .prg + 1 → headerWord s (granule y) = none) ∧
    regF (setF [(.truCmd 0, Fd.truCmdBusy, 1)] s) (.truCmd 0) Fd.truCmdBusy = 1 ∧ regF s (.truCmd 0) Fd.truCmdBusy = 0 ∧ n = 1 ∧
    dataRange s .prg (truSrc s .prg) n = true ∧ dataRange s .prg (truDst s .prg) (n + 0x30) = true ∧
    dataRange (vitS []) .grd (truSrc (vitS []) .grd) 32 = false := by
  refine ⟨⟨clean_all rfl rfl, by decide, by decide⟩, fun y h1 h2 => ?_, by decide, by decide, by decide, by decide, by decide, by decide⟩
  obtain rfl : y = truSrc (chans 2 (vitS [(0, { used := true })])) .prg := by omega
  decide

/-- The source of channel 1 is the option record of the defaults. -/
def optS (f : Flash) : State := setBytes (chans 2 (flsS 0 1 f)) (256 * 0x4020000) (sealOption defaultOption 1)

theorem hyp_FlashCommands_accepted : let s := chans 2 (flsS 0x2000000 1 {})
    s.flash.jobs = [] ∧ s.flash.undef = [] ∧ flashAlive s = true ∧ s.flash.lower = 0 ∧ (flsS 0 1 { lower := 1 }).flash.lower ≠ 0 ∧
    flashRights s 1 128 false = 0 ∧ sourceOk s 1 (256 * 0x4020000) 4096 = true ∧ s.flash.prog.contains 0x2000 = false ∧ 0x2000 % 64 = 0 ∧
    (7168 : Nat) % 64 = 0 ∧ activePair (flsS 0 1 {}) = none ∧ blockBlank (flsS 0 1 {}) 112 = true ∧
    blockBlank (flsS 0 1 { prog := [7168] }) 112 = false ∧ (getCore (flsS 0 1 { key := 2 }) .keeper).on = true := by decide +kernel

theorem hyp_FlashCommands_option : sound (chans 2 (flsS 0x2000000 1 {})) ∧
    sourceOk (optS {}) 1 (256 * 0x4020000) 64 = true ∧ optionInForce (optS {}) = defaultOption ∧
    optWdg (sealOption defaultOption 1) 1 = optWdg defaultOption 1 ∧ optWdg (sealOption defaultOption 1) 2 = optWdg defaultOption 2 ∧
    protLevel up ≤ protOf ((sealOption defaultOption 1).getD 8 0) ∧ optionPage (optS {}) = some 8064 := by
  refine ⟨⟨clean_all rfl rfl, by decide, by decide⟩, ?_⟩; decide +kernel

theorem hyp_FlashOperations_own : let own (o : FlashPrim) : FlashJob := { ch := 0, reg := false, log := true, ops := [o], left := 0, started := true }
    let s (o : FlashPrim) (n : Nat) := { up with flash := { up.flash with lower := n, jobs := [own o] } }
    flashAlive up = true ∧ up.flash.lower = 0 ∧ up.flash.prog.contains 0x1F80 = false ∧ up.flash.opt = none ∧
    ∀ n ∈ [1, 2, 3], (s (.erase 5) n).flash.jobs = [own (.erase 5)] ∧ jobBank (own (.erase 5)) = 0 ∧ (s (.erase 5) n).flash.lower = n ∧
      flashAlive (s (.erase 5) n) = true ∧ jobBank (own (.program 0x1F80000 [1])) = 0 := by decide

/-- An offer of the programme curator, of a well-formed bundle in flash slot B. -/
def offerS : State := { bundleAt (slotBaseAddr 2) (chans 2 up) with live := { up.live with offer := some ⟨some .prg, 0, 2, slotBaseAddr 2, bundleMax⟩ } }

theorem hyp_LiveService_offer : let s := offerS
    let busy := setF [(.truLive 0, Fd.truLiveBusy, 1)] up
    s.live.offer = some ⟨some .prg, 0, 2, slotBaseAddr 2, bundleMax⟩ ∧ s.live.world = none ∧ running s = false ∧ s.flash.undef = [] ∧
    isPatch s (slotBaseAddr 2) = false ∧ wellFormed s (slotBaseAddr 2) 8271 = false ∧ regF busy (.truLive 0) Fd.truLiveBusy = 1 ∧
    regF up (.truLive 0) Fd.truLiveBusy = 0 ∧ up.live.offer = none ∧ s.live.offer ≠ none := by decide +kernel

theorem hyp_LiveService_sound : sound offerS := ⟨clean_all rfl rfl, by decide, by decide⟩

theorem hyp_ClockSources_krc : let s (l : List (Creg × Fld × Nat)) := setF l up
    up.power.off = false ∧ up.power.sleep ≠ 2 ∧ up.power.inReset = false ∧ clkBit (s [(.kprClkStat, Fd.kprClkStatKxtRdy, 1)]) Fd.kprClkStatKxtRdy = true ∧
    clkBit up Fd.kprClkStatRefclkRdy = false ∧ clkBit (s [(.kprClkStat, Fd.kprClkStatKxtRdy, 0)]) Fd.kprClkStatKxtRdy = false := by decide

theorem hyp_RailsAndSleep_quires : (∀ k, k < 2 → (getQuire { up with quires := [(0, { raised := true }), (1, { raised := true })] } k).raised = true) ∧
    (up.flash.jobs = []) ∧ { up with live := { up.live with cur := some World.prg } }.live.cur = some .prg := by decide

end Sys2Proof.Tests
end

/-! PROOFS. The hardware loops: the end test at retirement (R211) and the instruction LOOP (R210). -/

namespace Sys2Proof

/-! ### Fields of a word -/

theorem Fld.getLsbD_mask (f : Fld) (i : Nat) :
    f.mask.getLsbD i = (decide (i < 32) && (decide (f.lo ≤ i) && decide (i - f.lo < f.len))) := by
  simp only [Fld.mask, BitVec.getLsbD_ofNat, Nat.testBit_mul_two_pow, Nat.testBit_two_pow_sub_one]

/-- A field that lies within the word reads back the low bits of what was written to it. -/
theorem Fld.get_putN_self (f : Fld) (w : Word) (v : Nat) (hf : f.lo + f.len ≤ 32) : f.get (f.putN w v) = v % 2 ^ f.len := by
  apply Nat.eq_of_testBit_eq
  intro i
  simp only [Fld.get, Nat.testBit_mod_two_pow, Nat.testBit_div_two_pow, BitVec.testBit_toNat]
  by_cases hi : i < f.len
  · have hm : f.mask.getLsbD (i + f.lo) = true := by
      simp only [Fld.getLsbD_mask, Nat.add_sub_cancel, hi, Nat.le_add_left, show i + f.lo < 32 by omega, decide_true,
        Bool.and_self]
    have hv : (BitVec.ofNat 32 v <<< f.lo).getLsbD (i + f.lo) = v.testBit i := by
      simp [BitVec.getLsbD_shiftLeft, BitVec.getLsbD_ofNat, show i + f.lo < 32 by omega, show i < 32 by omega,
        -BitVec.getLsbD_eq_getElem]
    simp only [Fld.putN, Fld.put, BitVec.getLsbD_or, BitVec.getLsbD_and, BitVec.getLsbD_not, hm, hv]
    simp
  · simp only [hi, decide_false, Bool.false_and]

end Sys2Proof

namespace Sys2Proof.Machine

/-! ### The depth of a core's loops -/

/-- DEPTH reads back as written: it has 3 bits. -/
theorem get_putN_depth (w : Word) {d : Nat} (h : d < 8) : Fd.cLoopstDepth.get (Fd.cLoopstDepth.putN w d) = d :=
  (Fld.get_putN_self _ w d (by decide)).trans (Nat.mod_eq_of_lt h)

theorem get_depth_lt (w : Word) : Fd.cLoopstDepth.get w < 8 := Nat.mod_lt _ (by decide)

@[simp] theorem setDepth_pc (k : Core) (d : Nat) : (setDepth k d).pc = k.pc := rfl
@[simp] theorem setDepth_paired (k : Core) (d : Nat) : (setDepth k d).paired = k.paired := rfl

/-- The depth that the end test acts on is the one set. -/
theorem setDepth_depth (k : Core) {d : Nat} (h : d < 8) : Fd.cLoopstDepth.get (setDepth k d).loopEff = d := get_putN_depth _ h

/-- LOOPST.DEPTH shows the depth set. -/
theorem setDepth_loopst (k : Core) {d : Nat} (h : d < 8) : ccrF (setDepth k d) .loopst Fd.cLoopstDepth = d :=
  (congrArg _ (ccr_setCcr k .loopst _)).trans (get_putN_depth _ h)

theorem ccr_setDepth_ne (k : Core) (d : Nat) {r : Ccr} (h : r.idx ≠ Ccr.loopst.idx) : ccr (setDepth k d) r = ccr k r :=
  ccr_setCcr_ne k _ h

/-- The level of a core stands in CSTAT, which no other register's write changes. -/
theorem isSup_setCcr (k : Core) {r : Ccr} (w : Word) (h : Ccr.cstat.idx ≠ r.idx) : isSup (setCcr k r w) = isSup k := by
  simp only [isSup, ccrF, ccr_setCcr_ne k w h]

/-- A register write that keeps the level keeps the bank in use. -/
theorem bank_setCcr (k : Core) {r : Ccr} (w : Word) (h : Ccr.cstat.idx ≠ r.idx) :
    bank (setCcr k r w) (isSup (setCcr k r w)) = bank k (isSup k) := by
  rw [isSup_setCcr k w h]; rfl

theorem bank_setDepth (k : Core) (d : Nat) : bank (setDepth k d) (isSup (setDepth k d)) = bank k (isSup k) :=
  bank_setCcr k (r := .loopst) _ (by decide)

theorem cstat_ne_lc (i : Nat) : Ccr.cstat.idx ≠ (Ccr.lc i).idx := by simp only [Ccr.idx]; omega

/-! ### The end test, case by case (R211) -/

/-- The instruction at `pc` ends the innermost level, and that level is above FLOOR (R211). -/
def EndsLevel (k : Core) (pc : Word) : Prop :=
  Fd.cLoopstFloor.get k.loopEff < Fd.cLoopstDepth.get k.loopEff ∧ ccr k (.le (Fd.cLoopstDepth.get k.loopEff - 1)) = pc

theorem not_endsLevel_of_depth_zero {k : Core} (pc : Word) (h : Fd.cLoopstDepth.get k.loopEff = 0) : ¬EndsLevel k pc :=
  fun he => by have := he.1; omega

section EndTest

variable {k : Core} {pc : Word} (next : Word) (n : Nat)

/-- No level ends at `pc`: the core goes on in order. -/
theorem loopEnd_of_not_endsLevel (h : ¬EndsLevel k pc) : loopEnd k pc n next = { k with pc := next } := by
  cases n with
  | zero => rfl
  | succ n => exact if_neg h

/-- A pass of level `l` ends and another is left: the core goes on at LS. -/
theorem loopEnd_of_passes_left (h : EndsLevel k pc) {l : Nat} (hl : Fd.cLoopstDepth.get k.loopEff - 1 = l)
    (hc : 1 < (ccr k (.lc l)).toNat) :
    loopEnd k pc (n + 1) next = { setCcr k (.lc l) (ccr k (.lc l) - 1) with
      pc := ccr k (.ls l), lbuf := captureLoop k.lbuf pc (ccr k (.ls l)) } := by
  obtain ⟨hf, he⟩ := h
  rw [hl] at he
  have hne : (ccr k (.lc l)).toNat - 1 ≠ 0 := by omega
  have hlc : BitVec.ofNat 32 ((ccr k (.lc l)).toNat - 1) = ccr k (.lc l) - 1 := by bv_omega
  simp only [loopEnd, hl, hf, he, and_self, if_true, if_pos hne, hlc]

/-- The last pass of level `l` ends: the level is left, and the level below tests the same instruction. -/
theorem loopEnd_of_last_pass (h : EndsLevel k pc) {l : Nat} (hl : Fd.cLoopstDepth.get k.loopEff - 1 = l)
    (hc : (ccr k (.lc l)).toNat ≤ 1) :
    loopEnd k pc (n + 1) next = loopEnd (setDepth (setCcr k (.lc l) 0#32) l) pc n next := by
  obtain ⟨hf, he⟩ := h
  rw [hl] at he
  have h0 : (ccr k (.lc l)).toNat - 1 = 0 := by omega
  simp only [loopEnd, hl, hf, he, and_self, if_true, h0, ne_eq, not_true_eq_false, if_false]
  rfl

end EndTest

/-- As many tests as there are levels are enough: one more changes nothing. -/
theorem loopEnd_succ (k : Core) (pc next : Word) (n : Nat) (h : Fd.cLoopstDepth.get k.loopEff ≤ n) :
    loopEnd k pc (n + 1) next = loopEnd k pc n next := by
  induction n generalizing k with
  | zero =>
    have hend := not_endsLevel_of_depth_zero pc (Nat.le_zero.1 h)
    rw [loopEnd_of_not_endsLevel next 1 hend, loopEnd_of_not_endsLevel next 0 hend]
  | succ n ih =>
    by_cases hend : EndsLevel k pc
    · by_cases hc : 1 < (ccr k (.lc (Fd.cLoopstDepth.get k.loopEff - 1))).toNat
      · rw [loopEnd_of_passes_left next (n + 1) hend rfl hc, loopEnd_of_passes_left next n hend rfl hc]
      · rw [loopEnd_of_last_pass next (n + 1) hend rfl (Nat.le_of_not_lt hc),
          loopEnd_of_last_pass next n hend rfl (Nat.le_of_not_lt hc)]
        have hlt := get_depth_lt k.loopEff
        exact ih _ (by rw [setDepth_depth _ (by omega)]; omega)
    · rw [loopEnd_of_not_endsLevel next (n + 2) hend, loopEnd_of_not_endsLevel next (n + 1) hend]

/-- The end test keeps whatever the pc, the loop buffer, the loop counts and the depth do not touch. -/
theorem loopEnd_keeps {α : Type} (f : Core → α) (hpc : ∀ k w l, f { k with pc := w, lbuf := l } = f k)
    (hlc : ∀ k i w, f (setCcr k (.lc i) w) = f k) (hdepth : ∀ k d, f (setDepth k d) = f k)
    (k : Core) (pc next : Word) (n : Nat) : f (loopEnd k pc n next) = f k := by
  induction n generalizing k with
  | zero => exact hpc k next k.lbuf
  | succ n ih =>
    by_cases hend : EndsLevel k pc
    · by_cases hc : 1 < (ccr k (.lc (Fd.cLoopstDepth.get k.loopEff - 1))).toNat
      · rw [loopEnd_of_passes_left next n hend rfl hc, hpc, hlc]
      · rw [loopEnd_of_last_pass next n hend rfl (Nat.le_of_not_lt hc), ih, hdepth, hlc]
    · rw [loopEnd_of_not_endsLevel next (n + 1) hend]
      exact hpc k next k.lbuf

/-! ### Retirement -/

section Retirement

variable (s : State) (c : CoreId)

theorem getCore_retire : getCore (retire s c) c = loopEnd (getCore s c) (getCore s c).pc 7 ((getCore s c).pc + 2) :=
  getCore_modCore s c _

@[simp] theorem retire_paired : (getCore (retire s c) c).paired = (getCore s c).paired := by
  rw [getCore_retire]
  exact loopEnd_keeps (fun k => k.paired) (fun _ _ _ => rfl) (fun _ _ _ => rfl) (fun _ _ => rfl) _ _ _ _

/-- Retirement keeps the cached cells of the core's level. -/
@[simp] theorem cells_retire : cells (retire s c) c = cells s c := by
  have hbank := loopEnd_keeps (fun k => bank k (isSup k)) (fun _ _ _ => rfl) (fun k i w => bank_setCcr k w (cstat_ne_lc i))
    bank_setDepth (getCore s c) (getCore s c).pc ((getCore s c).pc + 2) 7
  unfold cells
  rw [getCore_retire]
  exact congrArg Bank.cells hbank

/-- Where the instruction ends no level, retirement goes on in order. -/
theorem getCore_retire_of_not_endsLevel (h : ¬EndsLevel (getCore s c) (getCore s c).pc) :
    getCore (retire s c) c = { getCore s c with pc := (getCore s c).pc + 2 } :=
  (getCore_retire s c).trans (loopEnd_of_not_endsLevel _ 7 h)

/-- The core retires with the last pass of level `l` as it would with that level left and its count at 0. -/
theorem getCore_retire_of_last_pass (h : EndsLevel (getCore s c) (getCore s c).pc) {l : Nat}
    (hl : Fd.cLoopstDepth.get (getCore s c).loopEff - 1 = l) (hc : (ccr (getCore s c) (.lc l)).toNat ≤ 1) :
    getCore (retire s c) c = getCore (retire (modCore s c (fun x => setDepth (setCcr x (.lc l) 0#32) l)) c) c := by
  have hlt := get_depth_lt (getCore s c).loopEff
  rw [getCore_retire, getCore_retire, getCore_modCore, loopEnd_of_last_pass _ _ h hl hc, setDepth_pc, setCcr_pc]
  exact (loopEnd_succ _ _ _ 6 (by rw [setDepth_depth _ (by omega)]; omega)).symm

/-- With the last pass of the only level, the core goes on after LE and no level is left. -/
theorem getCore_retire_of_only_level (h : EndsLevel (getCore s c) (getCore s c).pc)
    (hd : Fd.cLoopstDepth.get (getCore s c).loopEff = 1) (hc : (ccr (getCore s c) (.lc 0)).toNat ≤ 1) :
    getCore (retire s c) c = { setDepth (setCcr (getCore s c) (.lc 0) 0#32) 0 with pc := (getCore s c).pc + 2 } := by
  have hend : ¬EndsLevel (setDepth (setCcr (getCore s c) (.lc 0) 0#32) 0) (getCore s c).pc :=
    not_endsLevel_of_depth_zero _ (setDepth_depth _ (by decide))
  rw [getCore_retire, loopEnd_of_last_pass _ _ h (l := 0) (by omega) hc, loopEnd_of_not_endsLevel _ _ hend]

end Retirement

/-- Settles O10: the cases of the end test, and that a level that is left hands the same instruction to the level below,
whose test needs no more of the seven rounds than are left. -/
theorem loopEndTest : Obligations.LoopEndTest := by
  intro c s k d kt
  refine ⟨fun h => ?_, fun hf he hc => ?_, fun hf he hc => getCore_retire_of_last_pass s c ⟨hf, he⟩ rfl hc,
    fun hd hf he hc => ?_, onlyCore_retire s c⟩
  · refine getCore_retire_of_not_endsLevel s c fun hend => ?_
    exact h.elim (Nat.not_le_of_lt hend.1) (fun hne => hne hend.2)
  · have hkt : kt = _ := (getCore_retire s c).trans (loopEnd_of_passes_left _ 6 ⟨hf, he⟩ rfl hc)
    rw [hkt]
    exact ⟨rfl, ccr_setCcr k (.lc (d - 1)) _, rfl⟩
  · have hdepth : Fd.cLoopstDepth.get k.loopEff = 1 := hd
    have hend : EndsLevel k k.pc := ⟨by omega, by rw [hdepth]; exact he⟩
    have hkt : kt = _ := getCore_retire_of_only_level s c hend hd hc
    rw [hkt]
    refine ⟨rfl, ?_, setDepth_depth _ (by decide), setDepth_loopst _ (by decide)⟩
    exact (ccr_setDepth_ne _ 0 (by decide)).trans (ccr_setCcr k (.lc 0) 0#32)

/-! ### LOOP (R210) -/

theorem exec_loop (c : CoreId) (len : BitVec 8) (s : State) : exec (.loop c len) s = .next (doLoop c len s) := rfl

theorem ready_paired {s : State} {c : CoreId} (h : Ready s c = true) : (getCore s c).paired = false := by
  obtain ⟨_, _, _, _, _, hp, _⟩ := (ready_iff s c).1 h
  exact hp

/-- Cells popped from the cache of a ready core leave at most 8. -/
theorem ready_rest {s : State} {c : CoreId} {x : Cell} {rest : List Cell} (h : Ready s c = true) (hx : cells s c = x :: rest) :
    rest.length ≤ 8 := by
  have hl := ready_cells h
  rw [hx, List.length_cons] at hl
  omega

theorem cells_modCore (s : State) (c : CoreId) {f : Core → Core}
    (hf : bank (f (getCore s c)) (isSup (f (getCore s c))) = bank (getCore s c) (isSup (getCore s c))) :
    cells (modCore s c f) c = cells s c := by
  unfold cells
  rw [getCore_modCore, hf]

@[simp] theorem cells_retireTo (s : State) (c : CoreId) (w : Word) : cells (retireTo s c w) c = cells s c :=
  cells_modCore s c rfl

/-- The core as LOOP at `pc` pushes level `d` with `n` passes of a body of `len` instructions (R210). -/
def pushLevel (pc : Word) (len : BitVec 8) (n : Word) (d : Nat) (k : Core) : Core :=
  setDepth (setCcr (setCcr (setCcr (forget [.ls d, .le d, .lc d] k) (.ls d) (pc + 2)) (.le d) (pc + 2 * len.setWidth 32))
    (.lc d) n) (d + 1)

section PushLevel

variable (pc : Word) (len : BitVec 8) (n : Word) (d : Nat) (k : Core)

@[simp] theorem pushLevel_pc : (pushLevel pc len n d k).pc = k.pc := by simp only [pushLevel, setDepth_pc, setCcr_pc, forget]
@[simp] theorem pushLevel_paired : (pushLevel pc len n d k).paired = k.paired := by
  simp only [pushLevel, setDepth_paired, setCcr_paired, forget]

theorem bank_pushLevel : bank (pushLevel pc len n d k) (isSup (pushLevel pc len n d k)) = bank k (isSup k) := by
  unfold pushLevel
  rw [bank_setDepth, bank_setCcr _ _ (cstat_ne_lc d), bank_setCcr _ _ (by simp only [Ccr.idx]; omega),
    bank_setCcr _ _ (by simp only [Ccr.idx]; omega)]
  rfl

variable {d} (hd : d < 4)
include hd

theorem ccr_pushLevel_ls : ccr (pushLevel pc len n d k) (.ls d) = pc + 2 := by
  unfold pushLevel
  rw [ccr_setDepth_ne, ccr_setCcr_ne, ccr_setCcr_ne, ccr_setCcr]
  all_goals simp only [Ccr.idx]; omega

theorem ccr_pushLevel_le : ccr (pushLevel pc len n d k) (.le d) = pc + 2 * len.setWidth 32 := by
  unfold pushLevel
  rw [ccr_setDepth_ne, ccr_setCcr_ne, ccr_setCcr]
  all_goals simp only [Ccr.idx]; omega

theorem ccr_pushLevel_lc : ccr (pushLevel pc len n d k) (.lc d) = n := by
  unfold pushLevel
  rw [ccr_setDepth_ne, ccr_setCcr]
  simp only [Ccr.idx]; omega

end PushLevel

section Loop

variable {s : State} {c : CoreId} {len : BitVec 8} (h : Ready s c = true)
include h

/-- The illegal cases of LOOP: a length at DEPTH 4, and no length with nothing above FLOOR. -/
theorem doLoop_illegal
    (hill : (len ≠ 0 ∧ Fd.cLoopstDepth.get (getCore s c).loopEff = 4) ∨
      (len = 0 ∧ Fd.cLoopstDepth.get (getCore s c).loopEff ≤ Fd.cLoopstFloor.get (getCore s c).loopEff)) :
    doLoop c len s = enterException s c 1 0 (0xF500#32 + len.setWidth 32) (getCore s c).pc := by
  unfold doLoop
  rw [instr_halt h .b (e := .trap 1 0 (0xF500#32 + len.setWidth 32))]
  · rfl
  · rcases hill with ⟨hlen, hd⟩ | ⟨hlen, hd⟩
    · simp only [hlen, hd, if_true, if_false]
    · simp only [hlen, hd, if_true]

/-- LOOP of length 0 leaves the innermost level. -/
theorem doLoop_leaves (hlen : len = 0) (hf : Fd.cLoopstFloor.get (getCore s c).loopEff < Fd.cLoopstDepth.get (getCore s c).loopEff) :
    doLoop c len s = retire (modCore s c (fun x => setDepth x (Fd.cLoopstDepth.get (getCore s c).loopEff - 1))) c := by
  apply instr_ok h .b
  · simp only [hlen, if_true, Nat.not_le.2 hf, if_false]
  · simpa using ready_paired h
  · rw [cells_retire, cells_modCore s c (f := fun x => setDepth x _) (bank_setDepth _ _)]
    exact ready_cells h

variable {n : Word} {rest : List Cell} (hlen : len ≠ 0) (hd : Fd.cLoopstDepth.get (getCore s c).loopEff < 4)
include hlen hd

/-- LOOP with a count of 0 goes on after the body, at the level it stands at. -/
theorem doLoop_skips (hx : cells s c = .val 0#32 :: rest) :
    doLoop c len s = retireTo (setCells c rest s) c ((getCore s c).pc + 2 * len.setWidth 32 + 2) := by
  apply instr_ok h .b
  · simp only [hlen, if_false, Nat.ne_of_lt hd, pop_cached hx]
    rfl
  · simpa [retireTo] using ready_paired h
  · rw [cells_retireTo, cells_setCells]
    exact ready_rest h hx

/-- LOOP with a count pushes a level and goes on in order. -/
theorem doLoop_pushes (hn : n ≠ 0#32) (hx : cells s c = .val n :: rest) :
    doLoop c len s = retire (modCore (setCells c rest s) c
      (pushLevel (getCore s c).pc len n (Fd.cLoopstDepth.get (getCore s c).loopEff))) c := by
  apply instr_ok h .b
  · simp only [hlen, if_false, Nat.ne_of_lt hd, pop_cached hx, bind, Except.bind, hn]
    rfl
  · simpa using ready_paired h
  · rw [cells_retire, cells_modCore _ c (bank_pushLevel _ _ _ _ _), cells_setCells]
    exact ready_rest h hx

end Loop

/-- Settles O11: LOOP's illegal cases, the level it leaves, the body it skips and the level it pushes. -/
theorem loopInstruction : Obligations.LoopInstruction := by
  intro c s len h k d ill
  simp only [exec_loop]
  refine ⟨fun hlen hd => ?_, fun hlen hd => ?_, fun hlen hf => ?_, fun rest hlen hd hx => ?_, fun n rest hlen hd hn hx => ?_⟩
  · exact congrArg _ (doLoop_illegal h (.inl ⟨hlen, hd⟩))
  · exact congrArg _ (doLoop_illegal h (.inr ⟨hlen, hd⟩))
  · exact congrArg _ (doLoop_leaves h hlen hf)
  · exact congrArg _ (doLoop_skips h hlen hd hx)
  · let u := modCore (setCells c rest s) c (pushLevel k.pc len n d)
    have hu : getCore u c = pushLevel k.pc len n d (getCore (setCells c rest s) c) := getCore_modCore _ c _
    refine ⟨u, congrArg _ (doLoop_pushes h hlen hd hn hx), (onlyCore_setCells s c rest).trans (onlyCore_modCore _ c _), ?_, ?_⟩
    · rw [cells_modCore _ c (bank_pushLevel _ _ _ _ _), cells_setCells]
    · rw [hu]
      exact ⟨ccr_pushLevel_ls _ _ _ _ hd, ccr_pushLevel_le _ _ _ _ hd, ccr_pushLevel_lc _ _ _ _ hd, setDepth_depth _ (by omega),
        setDepth_loopst _ (by omega), by simp [k]⟩

end Sys2Proof.Machine

/-! PROOFS. The configuration of a watchdog (R468): writes of OPEN, CLOSE and REQ, and the check-in that serves a period. -/

namespace Sys2Proof

/-! ### Numbers as sets of bits -/

/-- Adding a power of two to a number that lacks that bit sets the bit and no other. -/
theorem testBit_add_two_pow {d k : Nat} (h : d.testBit k = false) (j : Nat) :
    (d + 2 ^ k).testBit j = (d.testBit j || decide (j = k)) := by
  rcases Nat.lt_trichotomy j k with hj | rfl | hj
  · rw [Nat.add_comm, Nat.testBit_two_pow_add_gt hj, decide_eq_false (Nat.ne_of_lt hj), Bool.or_false]
  · rw [Nat.add_comm, Nat.testBit_two_pow_add_eq, h, decide_eq_true rfl]; rfl
  · have hlow : d % 2 ^ (k + 1) < 2 ^ k := by
      rw [Nat.testBit_eq_decide_div_mod_eq, decide_eq_false_iff_not] at h
      rw [Nat.mod_pow_succ, Nat.mod_two_ne_one.1 h, Nat.mul_zero, Nat.add_zero]
      exact Nat.mod_lt d (Nat.two_pow_pos k)
    have hsucc := Nat.two_pow_succ k
    have hadd := Nat.testBit_two_pow_mul_add (i := k + 1) (d / 2 ^ (k + 1)) (b := d % 2 ^ (k + 1) + 2 ^ k) (by omega) j
    have hd := Nat.testBit_two_pow_mul_add (d / 2 ^ (k + 1)) (Nat.mod_lt d (Nat.two_pow_pos (k + 1))) j
    rw [← Nat.add_assoc, Nat.div_add_mod, if_neg (by omega)] at hadd
    rw [Nat.div_add_mod, if_neg (by omega)] at hd
    rw [hadd, hd, decide_eq_false (Nat.ne_of_gt hj), Bool.or_false]

/-- Adding the powers of distinct bits that a number lacks sets those bits and no other. -/
theorem testBit_foldl_add_two_pow {ks : List Nat} (hks : ks.Nodup) {d : Nat} (h : ∀ k ∈ ks, d.testBit k = false) (j : Nat) :
    (ks.foldl (fun d k => d + 2 ^ k) d).testBit j = (d.testBit j || decide (j ∈ ks)) := by
  induction ks generalizing d with
  | nil => simp
  | cons k ks ih =>
    obtain ⟨hk, hks⟩ := List.nodup_cons.1 hks
    have hbit := testBit_add_two_pow (h k List.mem_cons_self)
    have hrest : ∀ i ∈ ks, (d + 2 ^ k).testBit i = false := fun i hi => by
      have hne : i ≠ k := fun he => hk (he ▸ hi)
      rw [hbit, h i (List.mem_cons_of_mem k hi), decide_eq_false hne]; rfl
    rw [List.foldl_cons, ih hks hrest, hbit, Bool.or_assoc, ← Bool.decide_or]
    simp only [List.mem_cons]

/-- A field of a whole word takes the word. -/
theorem Fld.putN_get_word (w v : Word) : (⟨0, 32⟩ : Fld).putN w ((⟨0, 32⟩ : Fld).get v) = v := by
  have hmask : (⟨0, 32⟩ : Fld).mask = BitVec.allOnes 32 := by decide
  have hget : (⟨0, 32⟩ : Fld).get v = v.toNat := by
    simp only [Fld.get, Nat.pow_zero, Nat.div_one]
    exact Nat.mod_eq_of_lt v.isLt
  simp only [Fld.putN, Fld.put, hmask, hget, BitVec.ofNat_toNat, BitVec.setWidth_eq, BitVec.not_allOnes, BitVec.and_zero,
    BitVec.shiftLeft_zero, BitVec.and_allOnes, BitVec.zero_or]

end Sys2Proof

namespace Sys2Proof.Machine

/-! ### Accesses to the control space -/

/-- While the tick is stopped no access is charged (R246). -/
theorem ctlCharge_stopped {s : State} (h : running s = false) (x : Writer) : ctlCharge x s = (true, s) := by
  cases x with
  | kpr => rfl
  | cur w => simp only [ctlCharge, h, Bool.not_false, if_true]

/-- While the tick is stopped, an access that reaches its register has its effect at once. -/
theorem withAccess_reaches {s : State} {x : Writer} {a : Nat} (hrun : running s = false) (h : reaches s x a = true)
    (v : Option Word) (f : State → State) : withAccess x a v f s = f s := by
  cases x with
  | kpr =>
    obtain ⟨hon, hp⟩ : (getCore s .keeper).on = true ∧ pendingAt s a = false := by simpa [reaches] using h
    simp [withAccess, hon, hp]
  | cur w =>
    obtain ⟨hup, hp⟩ : s.power.up = true ∧ pendingAt s a = false := by simpa [reaches, ctlCharge_stopped hrun] using h
    simp [withAccess, ctlCharge_stopped hrun, hup, hp]

/-- A writer that reaches one register reaches every register outside the blocks that a missing clock holds (R434). -/
theorem reaches_of_no_block {s : State} {x : Writer} {a b : Nat} (h : reaches s x a = true) (hb : blockAt b = none) :
    reaches s x b = true := by
  have hp : pendingAt s b = false := by simp only [pendingAt, hb]
  unfold reaches at h ⊢
  rw [hp, (Bool.and_eq_true_iff.1 h).1]
  rfl

/-- A write by its owner to a register of one field, with no reserved values, is that field's write (R4, R5). -/
theorem plainWrite_one_field {s : State} {x : Writer} {r : Creg} {d : FieldD} (hf : r.fields = [d]) (hr : r.ranges = [])
    (hw : wholeOwner s r = some (fieldOwner s r d)) (ho : owns x (fieldOwner s r d) = true) (v : Word) :
    plainWrite x r v s = setReg s r (fieldWrite v (reg s r) d) := by
  have hden : writeDenied s x r v = false := by
    cases x with
    | kpr => rfl
    | cur u =>
      simp only [writeDenied, hw]
      split
      · rfl
      · next h => rw [← Option.some.inj h, ho]; rfl
      · next h => cases h
  have hmerge : writeMerge s x r v = fieldWrite v (reg s r) d := by
    rw [writeMerge, hf, List.filter_cons, if_pos ho]
    rfl
  simp [plainWrite, hden, storeReg, hr, hmerge]

/-! ### Registers that an update leaves alone -/

theorem sameCtl_refl (rs : List Creg) (s : State) : SameCtl rs s s := fun _ _ => rfl

theorem sameCtl_setReg {rs : List Creg} {s t : State} (h : SameCtl rs s t) {r : Creg} (hr : r ∈ rs) (w : Word) :
    SameCtl rs s (setReg t r w) :=
  fun r' hr' => (reg_setReg_ne t w (hr' r hr)).trans (h r' hr')

/-- A field of a register reads back the low bits of what was written to it. -/
theorem regF_setRegF (s : State) (r : Creg) {f : Fld} (v : Nat) (hf : f.lo + f.len ≤ 32) :
    regF (setRegF s r f v) r f = v % 2 ^ f.len := by
  rw [regF, setRegF, reg_setReg, Fld.get_putN_self f _ v hf]

/-! ### The hidden state of a watchdog -/

@[simp] theorem getWatch_modWatch (s : State) (w : Nat) (f : Watch → Watch) : getWatch (modWatch s w f) w = f (getWatch s w) := by
  simp [getWatch, modWatch]

/-- A new period takes the values of the registers (R466). -/
theorem getWatch_wdgPeriod (w : Nat) (s : State) :
    (getWatch (wdgPeriod w s) w).openNow = reg s (.kprWdgOpen w) ∧ (getWatch (wdgPeriod w s) w).closeNow = reg s (.kprWdgClose w) ∧
      (getWatch (wdgPeriod w s) w).reqNow = reg s (.kprWdgReq w) := by
  simp only [wdgPeriod, getWatch_modWatch, and_self]

/-! ### Writes of OPEN, CLOSE and REQ (R468) -/

/-- The state after a refused write: CFGERR stands, and the disable sequence is broken. -/
def refuseConfig (w : Nat) (s : State) : State := setRegF (breakKey w s) (.kprWdgStat w) Fd.kprWdgStatCfgerr 1

/-- A refused write is seen in the status register alone. -/
theorem refuseConfig_refuses (w : Nat) (s : State) :
    SameCtl [.kprWdgStat w] s (refuseConfig w s) ∧ regF (refuseConfig w s) (.kprWdgStat w) Fd.kprWdgStatCfgerr = 1 :=
  ⟨sameCtl_setReg (fun _ _ => rfl) List.mem_cons_self _, regF_setRegF _ _ 1 (by decide)⟩

/-- A write that is taken is seen in its register alone. -/
theorem setReg_breakKey_takes (w : Nat) (s : State) (r : Creg) (v : Word) :
    SameCtl [r] s (setReg (breakKey w s) r v) ∧ reg (setReg (breakKey w s) r v) r = v :=
  ⟨sameCtl_setReg (fun _ _ => rfl) List.mem_cons_self _, reg_setReg _ _ _⟩

/-- The configuration in force stays, with the memory and the cores. -/
def KeepsInForce (w : Nat) (s t : State) : Prop :=
  (getWatch t w).openNow = (getWatch s w).openNow ∧ (getWatch t w).closeNow = (getWatch s w).closeNow ∧
    (getWatch t w).reqNow = (getWatch s w).reqNow ∧ t.mem = s.mem ∧ t.cores = s.cores

/-- A register write after the disable sequence is broken leaves the values in force. -/
theorem keepsInForce_setReg (w : Nat) (s : State) (r : Creg) (v : Word) : KeepsInForce w s (setReg (breakKey w s) r v) := by
  have hw : getWatch (setReg (breakKey w s) r v) w = { getWatch s w with key := 0 } :=
    getWatch_modWatch s w (fun y => { y with key := 0 })
  simp only [KeepsInForce, hw, true_and]
  exact ⟨rfl, rfl⟩

theorem keepsInForce_write (w : Nat) (s : State) (r : Creg) (v : Word) (bad : Prop) [Decidable bad] :
    KeepsInForce w s (if bad then refuseConfig w s else setReg (breakKey w s) r v) := by
  split
  · exact keepsInForce_setReg w s _ _
  · exact keepsInForce_setReg w s r v

section ConfigWrite

variable {x : Writer} {w : Nat} {s : State} (v : Word)

/-- A write by the owner, with the OPEN and CLOSE that it would leave: refused, or a plain write. -/
theorem wdgConfig_owned {r : Creg} {o c : Word} (ho : owns x (regOwner s r) = true)
    (hopen : (if r = .kprWdgOpen w then v else reg s (.kprWdgOpen w)) = o)
    (hclose : (if r = .kprWdgClose w then v else reg s (.kprWdgClose w)) = c) :
    wdgConfig x w r v s =
      if c.toNat < o.toNat ∨ c = 0 ∨ (r = .kprWdgReq w ∧ Fd.kprWdgReqReq.get v = 0) then refuseConfig w s
      else plainWrite x r v (breakKey w s) := by
  simp only [wdgConfig, ho, hopen, hclose, Bool.not_true, Bool.false_eq_true, if_false, Bool.or_eq_true, Bool.and_eq_true,
    decide_eq_true_eq, beq_iff_eq, or_assoc]
  rfl

theorem wdgConfig_open (ho : owns x (regOwner s (.kprWdgOpen w)) = true) :
    wdgConfig x w (.kprWdgOpen w) v s =
      if (reg s (.kprWdgClose w)).toNat < v.toNat ∨ reg s (.kprWdgClose w) = 0 then refuseConfig w s
      else setReg (breakKey w s) (.kprWdgOpen w) v := by
  have hplain : plainWrite x (.kprWdgOpen w) v (breakKey w s) = setReg (breakKey w s) (.kprWdgOpen w) v :=
    (plainWrite_one_field (d := ⟨Fd.kprWdgOpenOpen, .rw, 0, .reg⟩) rfl rfl rfl ho v).trans (congrArg _ (Fld.putN_get_word _ v))
  rw [wdgConfig_owned v ho (if_pos rfl) (if_neg (by simp)), hplain]
  simp

theorem wdgConfig_close (ho : owns x (regOwner s (.kprWdgClose w)) = true) :
    wdgConfig x w (.kprWdgClose w) v s =
      if v.toNat < (reg s (.kprWdgOpen w)).toNat ∨ v = 0 then refuseConfig w s
      else setReg (breakKey w s) (.kprWdgClose w) v := by
  have hplain : plainWrite x (.kprWdgClose w) v (breakKey w s) = setReg (breakKey w s) (.kprWdgClose w) v :=
    (plainWrite_one_field (d := ⟨Fd.kprWdgCloseClose, .rw, 400000, .reg⟩) rfl rfl rfl ho v).trans (congrArg _ (Fld.putN_get_word _ v))
  rw [wdgConfig_owned v ho (if_neg (by simp)) (if_pos rfl), hplain]
  simp

theorem wdgConfig_req (ho : owns x (regOwner s (.kprWdgReq w)) = true) :
    wdgConfig x w (.kprWdgReq w) v s =
      if (reg s (.kprWdgClose w)).toNat < (reg s (.kprWdgOpen w)).toNat ∨ reg s (.kprWdgClose w) = 0 ∨ v.toNat % 65536 = 0
      then refuseConfig w s
      else setReg (breakKey w s) (.kprWdgReq w) (Fd.kprWdgReqReq.putN (reg s (.kprWdgReq w)) (v.toNat % 65536)) := by
  have hget : Fd.kprWdgReqReq.get v = v.toNat % 65536 := by simp [Fd.kprWdgReqReq, Fld.get]
  have hplain : plainWrite x (.kprWdgReq w) v (breakKey w s) =
      setReg (breakKey w s) (.kprWdgReq w) (Fd.kprWdgReqReq.putN (reg s (.kprWdgReq w)) (v.toNat % 65536)) :=
    (plainWrite_one_field (d := ⟨Fd.kprWdgReqReq, .rw, 1, .reg⟩) rfl rfl rfl ho v).trans (by rw [← hget]; rfl)
  rw [wdgConfig_owned v ho (if_neg (by simp)) (if_neg (by simp)), hplain, hget]
  simp

end ConfigWrite

/-- The watchdogs' configuration registers lie in no block of KPR_RST_REQ. -/
theorem blockAt_wdgCreg (w : Fin 3) (r : WdgReg) : blockAt (wdgCreg w.val r).addr = none := by
  cases r with
  | openR => decide +revert
  | closeR => decide +revert
  | req => decide +revert

/-- A writer that reaches CLOSE while the tick is stopped writes each of the three registers at once. -/
theorem exec_wdgConfigWrite {s : State} {x : Writer} {w : Fin 3} (hrun : running s = false)
    (h : reaches s x (Creg.addr (.kprWdgClose w.val)) = true) (r : WdgReg) (v : Word) :
    exec (.wdgConfigWrite x w r v) s = .next (wdgConfig x w.val (wdgCreg w.val r) v s) :=
  congrArg Host.Outcome.next (withAccess_reaches hrun (reaches_of_no_block h (blockAt_wdgCreg w r)) _ _)

/-! ### The check-in that serves a period (R465–R467) -/

theorem mem_bitsIn {v k : Nat} : k ∈ bitsIn v ↔ k < 16 ∧ v.testBit k = true := by
  simp [bitsIn, Nat.testBit_eq_decide_div_mod_eq]

theorem nodup_bitsIn (v : Nat) : (bitsIn v).Nodup := List.nodup_range.filter _

/-- A word's bit stands among the bits of its low half. -/
theorem mem_bitsIn_word {v : Word} {k : Nat} : k ∈ bitsIn (v.toNat % 65536) ↔ k < 16 ∧ v.getLsbD k = true := by
  have hlow : (v.toNat % 2 ^ 16).testBit k = (decide (k < 16) && v.getLsbD k) := Nat.testBit_mod_two_pow v.toNat 16 k
  rw [mem_bitsIn, show 65536 = 2 ^ 16 by rfl, hlow, Bool.and_eq_true, decide_eq_true_eq, ← and_assoc, and_self]

/-- The bits of a check-in word that are required and not yet done. -/
def newlyDone (req : Word) (done : Nat) (v : Word) : List Nat :=
  (bitsIn (v.toNat % 65536)).filter (fun k => req.getLsbD k && done / 2 ^ k % 2 == 0)

/-- DONE after a check-in holds what it held and the bits newly done. -/
theorem testBit_done (req : Word) (done : Nat) (v : Word) (j : Nat) :
    ((newlyDone req done v).foldl (fun d k => d + 2 ^ k) done).testBit j =
      (done.testBit j || decide (j ∈ newlyDone req done v)) := by
  refine testBit_foldl_add_two_pow ((nodup_bitsIn _).filter _) (fun k hk => ?_) j
  obtain ⟨_, hclear⟩ : req.getLsbD k = true ∧ done / 2 ^ k % 2 = 0 := by simpa using (List.mem_filter.1 hk).2
  rw [Nat.testBit_eq_decide_div_mod_eq, hclear]
  rfl

/-- A check-in that brings every required bit leaves all of them done. -/
theorem all_required_done {req : Word} {done : Nat} {v : Word}
    (h : ∀ k, k < 16 → req.getLsbD k = true → done / 2 ^ k % 2 = 1 ∨ v.getLsbD k = true) :
    (bitsIn (req.toNat % 65536)).all
      (fun k => (newlyDone req done v).foldl (fun d k => d + 2 ^ k) done / 2 ^ k % 2 == 1) = true := by
  refine List.all_eq_true.2 fun k hk => ?_
  obtain ⟨hk16, hreq⟩ := mem_bitsIn_word.1 hk
  have hbit : done.testBit k = true ∨ k ∈ newlyDone req done v := by
    rw [Nat.testBit_eq_decide_div_mod_eq, decide_eq_true_eq]
    rcases Nat.mod_two_eq_zero_or_one (done / 2 ^ k) with hclear | hset
    · have hv := (h k hk16 hreq).resolve_left (by omega)
      exact .inr (List.mem_filter.2 ⟨mem_bitsIn_word.2 ⟨hk16, hv⟩, by rw [hreq, hclear]; rfl⟩)
    · exact .inl hset
  have hdone := testBit_done req done v k
  rw [Nat.testBit_eq_decide_div_mod_eq] at hdone
  exact beq_iff_eq.2 (of_decide_eq_true (hdone.trans (Bool.or_eq_true_iff.2 (hbit.imp_right decide_eq_true))))

/-- A check-in inside the window that brings every required bit starts a new period; none of the registers that hold the
configuration has changed by then. -/
theorem checkIn_serves {x : Writer} {w : Nat} {v n : Word} {s : State} (ho : owns x (regOwner s (.kprWdgChk w)) = true)
    (hst : wdgState s w = 1) (hopen : (getWatch s w).openNow.toNat ≤ n.toNat) (hclose : n.toNat ≤ (getWatch s w).closeNow.toNat)
    (hall : ∀ k, k < 16 → (getWatch s w).reqNow.getLsbD k = true →
      regF s (.kprWdgStat w) Fd.kprWdgStatDone / 2 ^ k % 2 = 1 ∨ v.getLsbD k = true) :
    ∃ u, checkIn x w v n s = wdgPeriod w u ∧ SameCtl [.kprWdgChk w, .kprWdgDup w, .kprWdgT w, .kprWdgStat w] s u := by
  have hchk : plainWrite x (.kprWdgChk w) v s = setReg s (.kprWdgChk w) (reg s (.kprWdgChk w)) :=
    plainWrite_one_field (d := ⟨Fd.kprWdgChkChk, .wo, 0, .reg⟩) rfl rfl rfl ho v
  apply Exists.intro
  constructor
  · unfold checkIn
    rw [if_neg (by simp [ho, hst]), if_neg (Nat.not_lt.2 hclose), if_neg (fun h => Nat.not_lt.2 hopen h.2)]
    exact if_pos (all_required_done hall)
  · rw [hchk]
    refine sameCtl_setReg (sameCtl_setReg (sameCtl_setReg (sameCtl_setReg ?_ ?_ _) ?_ _) ?_ _) ?_ _
    · exact sameCtl_setReg (sameCtl_refl _ s) (by simp) _
    all_goals simp

/-- Settles O46: each write is refused or taken by the values it would leave, no write touches the values in force, and a
check-in that serves the period starts one from the registers, which it leaves alone. -/
theorem watchdogConfiguration : Obligations.WatchdogConfiguration := by
  refine ⟨fun x w v s hrun hre ho => ?_, fun x w v n s hrun hre ho hst hopen hclose hall => ?_⟩
  · intro o c inForce refused
    have heq (r : WdgReg) := exec_wdgConfigWrite hrun hre r v
    refine ⟨_, _, _, (heq .openR).trans (congrArg _ (wdgConfig_open v ho)), (heq .closeR).trans (congrArg _ (wdgConfig_close v ho)),
      (heq .req).trans (congrArg _ (wdgConfig_req v ho)), keepsInForce_write .., keepsInForce_write .., keepsInForce_write ..,
      fun h => ?_, fun hle hc => ?_, fun h => ?_, fun hle hv => ?_, fun h => ?_, fun hv hle hc => ?_⟩
    · rw [if_pos (.inl h)]
      exact refuseConfig_refuses w.val s
    · rw [if_neg (not_or.2 ⟨Nat.not_lt.2 hle, hc⟩)]
      exact setReg_breakKey_takes ..
    · rw [if_pos h]
      exact refuseConfig_refuses w.val s
    · rw [if_neg (not_or.2 ⟨Nat.not_lt.2 hle, hv⟩)]
      exact setReg_breakKey_takes ..
    · rw [if_pos (.inr (.inr h))]
      exact refuseConfig_refuses w.val s
    · rw [if_neg (not_or.2 ⟨Nat.not_lt.2 hle, not_or.2 ⟨hc, hv⟩⟩)]
      refine ⟨(setReg_breakKey_takes ..).1, ?_⟩
      exact (regF_setRegF (breakKey w.val s) (.kprWdgReq w.val) _ (by decide)).trans (Nat.mod_mod _ _)
  · obtain ⟨u, hu, hsame⟩ := checkIn_serves ho hst hopen hclose hall
    have hexec : exec (.checkIn x w v n) s = .next (wdgPeriod w.val u) :=
      congrArg Host.Outcome.next ((withAccess_reaches hrun hre (some v) _).trans hu)
    obtain ⟨hO, hC, hR⟩ := getWatch_wdgPeriod w.val u
    refine ⟨_, hexec, hO.trans (hsame _ ?_), hC.trans (hsame _ ?_), hR.trans (hsame _ ?_)⟩
    all_goals simp [Creg.addr]

end Sys2Proof.Machine
